-- ==== Sys2Proof/Word.lean ====
section
/-! DEFINITION. The plain word and number types of the DV420 manual (00_scope.md, "Units" and
"Number conventions"). Quantities the manual calls modular are bit vectors; signed and exact ones are
`Int`; counts are `Nat`. -/

namespace Sys2Proof

/-- A sample code, 0..255 (R4). -/
abbrev Code := BitVec 8

/-- A byte of the host port (R173). -/
abbrev Byte := BitVec 8

/-- A timestamp in ticks, modulo 2^20 (R1). -/
abbrev Ts := BitVec 20

/-- A prediction in fine units, modulo 2^28 (R1, R21). -/
abbrev FineTs := BitVec 28

/-- The field count FC and every count compared with it, modulo 65536 (R2). -/
abbrev FieldCount := BitVec 16

/-- A set of claim ids; bit `i` stands for id `i` (R104, R122). -/
abbrev IdSet := BitVec 32

/-- A set of stations; bit `n` stands for station `n` (R134). -/
abbrev StationSet := BitVec 16

/-- A cadence base or mask (R138). -/
abbrev Nibble := BitVec 4

/-- A cue slot, which is also a claim id (R138). -/
abbrev Slot := Fin 32

/-- A station number (R177). -/
abbrev Station := Fin 16

/-- A chain number (R141). -/
abbrev ChainNo := Fin 4

/-- A layer (R138). -/
abbrev Layer := Fin 16

end Sys2Proof
end

