-- ==== Sys2Proof/Syntax.lean ====
section
/-! DEFINITION. The commands of the block: one constructor for each row of spec/opcode_table.json. The
rows carry no fields, so the operands are what comes from outside at the event (log 3). -/

namespace Sys2Proof

/-- The line system selected by the SYS strap (R177). -/
inductive System where
  | sys625
  | sys525
deriving DecidableEq, Repr

/-- Field parity (R66). -/
inductive Parity where
  | first
  | second
deriving DecidableEq, Repr

/-- The errors a receiver finds in a frame (R107). -/
inductive FrameFault where
  | invalidKind
  | wrongLength
  | checkError
deriving DecidableEq, Repr

/-- The kind of a cue's region (R138). -/
inductive CueKind where
  | fill
  | cutout
deriving DecidableEq, Repr

/-- The start mode of a cue (R138, R174). -/
inductive StartMode where
  | immediate
  | atField
  | onTrigger
  | afterPrevious
deriving DecidableEq, Repr

/-- The fields of a LOAD_CUE request as the record carries them (R173, R174), before the adjustments of
R138. `none` for a slot is the byte's top bit set. -/
structure LoadCue where
  slot : Option Slot
  top : BitVec 16
  height : BitVec 16
  left : BitVec 16
  width : BitVec 16
  layer : BitVec 8
  kind : CueKind
  announce : Bool
  notifyStart : Bool
  notifyEnd : Bool
  demandEnd : Bool
  autoFree : Bool
  cadBase : Nibble
  cadMask : Nibble
  start : StartMode
  startField : FieldCount
  duration : BitVec 16
  next : Option Slot
deriving DecidableEq, Repr

/-- What HSTB does (R173): it is asserted with a byte on HD, or released. -/
inductive StrobeEdge where
  | asserted (byte : Byte)
  | released
deriving DecidableEq, Repr

/-- The commands. An operand `time` is the timestamp in ticks of the sample at which the event comes. -/
inductive Instr where
  | hardwareReset
  | resetRelease (stn : Station) (sys : System) (tape : Bool)
  | levelSearchWindowEnd (lowest highest : Code)
  | fallingCrossing (time : Ts) (before now : Code)
  | risingCrossing (time : Ts) (before now : Code) (tipSum : Nat)
  | broadClassified (time : Ts)
  | blankReading (time : Ts) (sum : Nat)
  | syncActivityLoss
  | lineBoundary (time : Ts)
  | holdAgingRunsOut (time : Ts)
  | coastedBoundary (time : Ts)
  | deliveredLineStart
  | hsyncEnd
  | deliveredBoundaryGiven
  | vsyncEnd
  | trigFallingEdge
  | busIdle
  | busFirstFall
  | arbitrationLost
  | arbitrationWon
  | attemptSucceeded
  | attemptFailed (collision : Bool)
  | frameError (err : FrameFault)
  | frameTruncated
  | beaconReceived (sender : Station) (payload : BitVec 64)
  | claimReceived (sender : Station) (payload : BitVec 72)
  | withdrawReceived (sender : Station) (payload : BitVec 8)
  | recallReceived (sender : Station) (payload : BitVec 16)
  | clearReceived (sender : Station)
  | busFaultEnter
  | busFaultCleared
  | malformedRequest (kind length : Byte)
  | configure (ppl hoff : BitVec 16) (keyDelay : Byte) (accept : StationSet)
  | reinit
  | statusQuery
  | loadCue (req : LoadCue)
  | freeCue (slot : Slot)
  | startChain (chain : ChainNo) (head : Slot)
  | pauseChain (chain : ChainNo)
  | resumeChain (chain : ChainNo)
  | abortChain (chain : ChainNo)
  | withdrawCue (slot : Slot)
  | clearAll
  | shift (amount : BitVec 16)
  | recentre
  | holdSlips (count : Byte)
  | fence
  | reportTransferStart
  | reportTransferEnd
  | pixelClockEdge (transp : Bool)
  | frameObjected
  | requestByteStrobe (edge : StrobeEdge)
  | reportByteAcknowledge (asserted : Bool)
deriving DecidableEq, Repr

end Sys2Proof
end

