-- ==== Sys2Proof/Config.lean ====
section
/-! DEFINITION. The free values of the model: what the manual leaves open, with no body, so that no
proof can lean on a value. -/

namespace Sys2Proof

/-- The order of two events of the part's own clock that come at one moment, where the manual says
either may be taken first (R23, R48, R78, R102, R109, R133, R167 and others): read with the counter
`State.tieIx`. DESIGN CHOICE (log 4), safe: nothing is known of its values. -/
opaque Config.tieOrder : Nat → Bool

/-- The blanket rank layer, if any, of a PRESENT peer with a missing or dropped id whose known layer is
none: R132 says the case does not occur and gives no rank. It is read with the station number.
DESIGN CHOICE (log 18), safe: nothing is known of its values. -/
opaque Config.presentUnknownBlanket : Station → Option Layer

end Sys2Proof
end

