-- ==== Sys2Proof/Machine/Params.lean ====
section
/-! DEFINITION. The quantities that the SYS and TAPE straps fix (R177): 00_scope.md "Nominal line length
and the clamp range", R4, R22, R53, R58, R66, R68, R84, R88, and the request kinds of chapter 11. -/

namespace Sys2Proof.Machine

/-- The reference states (R46). -/
inductive RefSt where
  | search
  | acquire
  | locked
  | hold
  | probe
deriving DecidableEq, Repr

/-- The strap values sampled at reset release (R177). -/
structure Straps where
  stn : Station
  sys : System
  tape : Bool
deriving DecidableEq, Repr

/-- F_nom in fine units (00, "Nominal line length"). -/
def fNom : System → Int
  | .sys625 => 8388608
  | .sys525 => 8330354

/-- F_nom/64 in fine units, rounded for the 525-line system (00). -/
def fTol : System → Int
  | .sys625 => 131072
  | .sys525 => 130162

/-- F_min (00, R28). -/
def fMin (sys : System) : Int := fNom sys - fTol sys

/-- F_max (00, R28). -/
def fMax (sys : System) : Int := fNom sys + fTol sys

/-- One nominal line in SCLK (R4). -/
def lineSclk : System → Nat
  | .sys625 => 2048
  | .sys525 => 2034

/-- Two nominal lines in SCLK (R4, R17). -/
def twoLinesSclk : System → Nat
  | .sys625 => 4096
  | .sys525 => 4068

/-- The other parity. -/
def oppParity : Parity → Parity
  | .first => .second
  | .second => .first

/-- The nominal count of a field of a parity (R66). -/
def nominalCount : System → Parity → Nat
  | .sys625, .first => 312
  | .sys625, .second => 313
  | .sys525, .first => 262
  | .sys525, .second => 263

/-- The first keyable line (R68). -/
def firstKeyable : System → Nat
  | .sys625 => 22
  | .sys525 => 18

/-- The limit of the hold aging count (R58). -/
def agingLimit : System → Nat
  | .sys625 => 15625
  | .sys525 => 15750

/-- How many half-lines VSYNC is held (R88). -/
def vsyncHalfLines : System → Nat
  | .sys625 => 5
  | .sys525 => 6

/-- The field tolerance in lines (R66). -/
def tolerance (tape : Bool) : Nat := if tape then 8 else 1

/-- The LOCKED gate in ticks (R22). -/
def lockedGate (tape : Bool) : Nat := if tape then 160 else 48

/-- The gate of a reference state, none for a state without one (R22). -/
def gateOf (tape : Bool) : RefSt → Option Nat
  | .acquire => some 1024
  | .locked => some (lockedGate tape)
  | .search => none
  | .hold => none
  | .probe => none

/-- kp of R22; only ACQUIRE and LOCKED correct the phase. -/
def kpOf (tape : Bool) : RefSt → Nat
  | .acquire => 1
  | _ => if tape then 2 else 3

/-- ki of R22; only ACQUIRE and LOCKED update the frequency. -/
def kiOf (tape : Bool) : RefSt → Nat
  | .acquire => 6
  | _ => if tape then 8 else 10

/-- The jump length J (R22). -/
def jumpLength (tape : Bool) : Nat := if tape then 2 else 4

/-- The LOCKED miss limit M (R53). -/
def missLimit (tape : Bool) : Nat := if tape then 12 else 6

/-- The slew limit s in fine units (R84). -/
def slewLimit (tape : Bool) : Int := if tape then 2048 else 1024

/-- The step limit of a queue application, 8192 ticks in fine units (R93). -/
def stepLimit : Int := 2097152

/-- The payload length of a request kind, or `none` for a kind that is not one (11, table of R173). -/
def requestLength (kind : Byte) : Option Nat :=
  match kind.toNat with
  | 0x01 => some 7
  | 0x02 => some 0
  | 0x03 => some 0
  | 0x04 => some 18
  | 0x05 => some 1
  | 0x06 => some 2
  | 0x07 => some 1
  | 0x08 => some 1
  | 0x09 => some 1
  | 0x0A => some 1
  | 0x0B => some 2
  | 0x0C => some 0
  | 0x0D => some 1
  | 0x0E => some 0
  | 0x0F => some 0
  | _ => none

end Sys2Proof.Machine
end

