-- ==== Sys2Proof/Machine/State.lean ====
section
/-! DEFINITION. The state of the DV420, as plain data: one structure for each block of 00_scope.md
"Blocks", the time half (SFE, LLL with its state machine, FT, TDU) and the claim half (CBI, PT, CE, SB,
KY, HP), the straps, and the queue of waiting commands. Reset values are those of R19, R44, R64, R82,
R99, R120, R136, R152, R165, R172, R184. -/

namespace Sys2Proof.Machine

/-! ## Video input (01) -/

/-- The grade of a pulse (R8). -/
inductive Grade where
  | good
  | fair
  | poor
deriving DecidableEq, Repr

/-- The classes that yield a record (R10); a GLITCH yields none. -/
inductive PulseClass where
  | narrow
  | line
  | broad
deriving DecidableEq, Repr

/-- The loop snapshot of a pulse (R14), with the line whose prediction it holds. -/
structure Snapshot where
  line : Nat
  pred : Ts
  st : RefSt
  gate : Option Nat
  vwin : Bool
deriving DecidableEq, Repr

/-- A pulse in progress (R7, R8, R11, R14). -/
structure Pulse where
  start : Ts
  edge : Ts
  step : Int
  amp : Int
  grade : Grade
  snap : Snapshot
  tipSum : Nat
deriving DecidableEq, Repr

/-- A pulse record (R10) with its snapshot (R14). -/
structure PulseRecord where
  edge : Ts
  cls : PulseClass
  grade : Grade
  width : Nat
  snap : Snapshot
deriving DecidableEq, Repr

/-- An open blank window: the sample `j` of the rising crossing, and the sum so far (R12). -/
structure BlankWindow where
  opened : Ts
  sum : Nat
deriving DecidableEq, Repr

/-- The mode of the SFE (R5). -/
inductive SfeMode where
  | levelSearch
  | levelTracking
deriving DecidableEq, Repr

/-- The Sync Front End (R4 to R19). T and A are computed from the levels (Flags.lean). -/
structure Sfe where
  sampleTs : Ts
  prev : Option Code
  mode : SfeMode
  windowCount : Nat
  lowest : Code
  highest : Code
  tip : Nat
  blank : Nat
  pulse : Option Pulse
  blankWin : Option BlankWindow
  active : Bool
  timer : Nat
deriving DecidableEq, Repr

/-! ## Line Lock Loop and reference states (02, 03) -/

/-- A record held for the open line, with its phase error (R24). -/
structure LoopRecord where
  edge : Ts
  cls : PulseClass
  grade : Grade
  e : Int
deriving DecidableEq, Repr

/-- The loop (R21). `n` is the number of the open line. -/
structure Loop where
  n : Nat
  F : Int
  P : FineTs
  C : Int
  missRun : Nat
  jumpRun : Nat
  lastRejected : Option Ts
  pinnedRun : Nat
  pinnedCount : Nat
  jumpCount : Nat
  records : List LoopRecord
deriving DecidableEq, Repr

/-- The reference state machine (R46). In HOLD `anchor` is the edge of the probe candidate that decided
the open line (R54). `probeFirst` is the grade of the open probe line's first in-window record (R56). -/
structure Ref where
  st : RefSt
  searchRun : Nat
  searchEdge : Option Ts
  quality : Nat
  newRun : Nat
  newEdge : Option Ts
  anchor : Option Ts
  probeLines : Nat
  probeTally : Nat
  probeFirst : Option Grade
  aging : Nat
  pendingLoss : Bool
  latch : Bool
deriving DecidableEq, Repr

/-- The causes of REF_STATE (03, R174). -/
inductive RefCause where
  | sourceFound
  | lockConfirmed
  | activityLost
  | pinned
  | misses
  | candidate
  | newSource
  | aged
  | probeConfirmed
  | probeFailed
deriving DecidableEq, Repr

/-! ## Field Tracker (04) -/

/-- The field states (R66). -/
inductive FieldSt where
  | search
  | locked
  | coast
deriving DecidableEq, Repr

/-- How the current field got its parity (R66). -/
inductive LabelSource where
  | classified
  | alternation
deriving DecidableEq, Repr

/-- How the current field's boundary was taken (R66). -/
inductive StartKind where
  | accepted
  | coasted
  | slip
deriving DecidableEq, Repr

/-- The causes of FIELD_STATE (R76). -/
inductive FieldCause where
  | anchored
  | coasting
  | resumed
  | lost
  | fieldSlip
  | irregular
deriving DecidableEq, Repr

/-- The first edge of a broad run, with its snapshot (R70). -/
structure BroadStart where
  edge : Ts
  snap : Snapshot
deriving DecidableEq, Repr

/-- A stray record: the count, and whether it was made in the field before (R75). -/
structure Stray where
  count : Int
  fieldBefore : Bool
deriving DecidableEq, Repr

/-- The count candidate (R79). -/
structure CountCand where
  k : Nat
  station : Station
deriving DecidableEq, Repr

/-- The Field Tracker (R66). -/
structure Ft where
  fs : FieldSt
  fc : FieldCount
  parity : Parity
  label : LabelSource
  counter : Nat
  startKind : StartKind
  coasts : Nat
  vwin : Bool
  broadRun : Nat
  lastBroad : Option Ts
  firstBroad : Option BroadStart
  stray : Option Stray
  irregular : Bool
  unclassified : Nat
  cand : Option CountCand
  tally : Vector (Option Parity) 16
  adoptPending : Option Parity
deriving DecidableEq, Repr

/-! ## Timing Delivery Unit (05) -/

/-- The kinds of adjustment entry (R92); a SHIFT holds its amount in ticks. -/
inductive AdjKind where
  | slip
  | recentre
  | shift (amount : Int)
deriving DecidableEq, Repr

/-- An entry of the adjustment queue, with its FENCE mark (R92, R181). -/
structure AdjEntry where
  kind : AdjKind
  marked : Bool
deriving DecidableEq, Repr

/-- The delivered field plan (R88): the loop line, the parity, whether the boundary has been given, and
whether the queue application of its field made a step (R90, R93). -/
structure Plan where
  line : Nat
  parity : Parity
  given : Bool
  stepped : Bool
deriving DecidableEq, Repr

/-- CONFIGURE values on their way to the TDU (R97, R178). -/
structure ConfigVals where
  ppl : Nat
  hoff : Int
  keyDelay : Nat
deriving DecidableEq, Repr

/-- Values that govern from delivered line 2 of a field (R94, R97): the reference line paired with it. -/
structure NewVals where
  line : Nat
  ppl : Nat
  hoff : Int
  keyDelay : Option Nat
deriving DecidableEq, Repr

/-- The delivered line now open (R85, R86): the paired reference line if any, the start, PPL, the final
length once fixed and the provisional one before, the pixel clock edges given, the edge from which
the rest is divided evenly: its index, and its exact offset from the start in PPL-ths of a fine unit; the tick
of the last edge given (0 before the first), and the period that ended with it (none before the second). -/
structure OpenLine where
  ref : Option Nat
  start : FineTs
  ppl : Nat
  len : Option Int
  prov : Int
  pixel : Nat
  baseIx : Nat
  baseNum : Int
  edge : Ts
  period : Option Int
deriving DecidableEq, Repr

/-- A delivered line whose length is fixed and that has not begun (R85, R86). -/
structure FixedLine where
  ref : Option Nat
  len : Int
deriving DecidableEq, Repr

/-- The Timing Delivery Unit (R84). `lastLen` is the length, less its step, of the delivered line whose
length was fixed last (R86, log 7). `applyNext` orders a queue application at the next hand-over, `applyAt` one at
the hand-over of a line that an earlier plan named (R93). -/
structure Tdu where
  D : Int
  hoff : Int
  ppl : Nat
  slipDet : Nat
  queue : List AdjEntry
  holdCount : Nat
  slipField : Bool
  plan : Plan
  owed : Option Plan
  early : Option Parity
  applyNext : Bool
  applyAt : Option Nat
  delParity : Parity
  shiftExcess : Int
  pendCfg : Option ConfigVals
  stepX : Int
  stepY : Int
  newVals : Option NewVals
  openLine : Option OpenLine
  fixedLines : List FixedLine
  nextRef : Nat
  nextStart : FineTs
  lastLen : Int
  hsync : Bool
  vsync : Bool
  vsyncLeft : Nat
deriving DecidableEq, Repr

/-- The time half: the blocks of chapters 1 to 5. -/
structure Timebase where
  sfe : Sfe
  loop : Loop
  ref : Ref
  ft : Ft
  tdu : Tdu
deriving DecidableEq, Repr

/-! ## Claim bus (06) -/

/-- A claim's region as CLAIM carries it (R104). -/
structure Claim where
  id : Slot
  layer : Layer
  top : Nat
  bottom : Nat
  left : Nat
  right : Nat
  e : FieldCount
  base : Nibble
  mask : Nibble
deriving DecidableEq, Repr

/-- A beacon's contents (R104, R122); `top` is none when top-valid is 0. -/
structure Beacon where
  st : RefSt
  fieldLocked : Bool
  parity : Parity
  top : Option Layer
  fc : FieldCount
  live : IdSet
deriving DecidableEq, Repr

/-- The contents of a frame (R104). -/
inductive FrameContents where
  | beacon (b : Beacon)
  | claim (c : Claim) (resend : Bool)
  | withdraw (id : Slot)
  | recall (target : Station) (id : Slot)
  | clear
deriving DecidableEq, Repr

/-- What a queue entry will send (R112). -/
inductive TxWhat where
  | claim (id : Slot)
  | resend (id : Slot)
  | withdraw (id : Slot)
  | recall (target : Station) (id : Slot)
  | clear
deriving DecidableEq, Repr

/-- The owners of queue entries (R108). -/
inductive TxOwner where
  | cueEngine
  | peerTable
deriving DecidableEq, Repr

/-- Where a queue entry stands (R106). -/
inductive TxStage where
  | waiting
  | contending
  | inFlight
deriving DecidableEq, Repr

/-- An entry of the transmit queue (R112): `marked` by FENCE (R181); `doomed` by a CLEAR, so that it is
discarded if it loses or fails (R114); `removeAsked` while contending (R115); `silent` after REINIT
(R121). -/
structure TxEntry where
  what : TxWhat
  owner : TxOwner
  attempts : Nat
  stage : TxStage
  marked : Bool
  doomed : Bool
  removeAsked : Bool
  silent : Bool
deriving DecidableEq, Repr

/-- The states of the line (R102). -/
inductive BusSt where
  | wait
  | idle
  | contending
  | sending
  | receiving
  | fault
deriving DecidableEq, Repr

/-- The attempt contending or in flight: rank, continuation, contents taken at the first fall. -/
structure Attempt where
  firstRank : Bool
  continuing : Bool
  contents : FrameContents
deriving DecidableEq, Repr

/-- An error counter of 0..255 with its wrap flag (R119). -/
structure WrapCount where
  count : Nat
  wrapped : Bool
deriving DecidableEq, Repr

/-- The cell engine (R101, R102, R116, R117): the level last seen, how long it has been high or low in
SCLK, SCLK since the last fall, SCLK since the open cell began (a fall, or a sender's own cell on a line
that is low already), SCLK for which this station still holds the line low, the bits sampled in the frame
so far, whether the open cell has been sampled, and the cells of the frame that have not ended, counted
from the sample of the objection cell on (3 there, with the two end cells; 0 before it). -/
structure Wire where
  high : Bool
  highFor : Nat
  lowFor : Nat
  sinceFall : Nat
  inCell : Nat
  drive : Nat
  bits : List Bool
  sampled : Bool
  tail : Nat
deriving DecidableEq, Repr

/-- The Claim Bus Interface (R102, R109 to R121). -/
structure Cbi where
  line : BusSt
  txq : List TxEntry
  passLock : Bool
  beaconDue : Bool
  beaconSent : Bool
  beaconAttempts : Nat
  allowance : Nat
  spentPosted : Bool
  burst : Nat
  badCheck : WrapCount
  truncated : WrapCount
  abandoned : WrapCount
  muted : Bool
  attempt : Option Attempt
  objected : Bool
  wire : Wire
deriving DecidableEq, Repr

/-! ## Peer Table (07) -/

/-- Presence of a peer (R122). -/
inductive Presence where
  | absent
  | joining
  | present
  | silent
deriving DecidableEq, Repr

/-- A peer record (R122). -/
structure Peer where
  presence : Presence
  missed : Nat
  seen : Bool
  last : Option Beacon
  dropped : IdSet
  recalled : IdSet
deriving DecidableEq, Repr

/-- An entry of the claim store (R125), with the mark of R155. -/
structure StoreEntry where
  station : Station
  claim : Claim
  applied : Bool
deriving DecidableEq, Repr

/-- A blanket rank (R132). -/
structure Blanket where
  layer : Layer
  station : Station
deriving DecidableEq, Repr

/-- The Peer Table (R122). The record of the own station number is never used. -/
structure Pt where
  peers : Vector Peer 16
  store : List StoreEntry
  recalls : Nat
  accept : StationSet
  joinQuiet : Nat
  blankets : List Blanket
deriving DecidableEq, Repr

/-! ## Cue Engine (08) -/

/-- A cue record (R138). -/
structure CueRec where
  top : Nat
  height : Nat
  left : Nat
  width : Nat
  layer : Layer
  kind : CueKind
  announce : Bool
  base : Nibble
  mask : Nibble
  start : StartMode
  startField : FieldCount
  duration : Nat
  next : Option Slot
  notifyStart : Bool
  notifyEnd : Bool
  demandEnd : Bool
  autoFree : Bool
deriving DecidableEq, Repr

/-- The cue states (R140). -/
inductive CueSt where
  | free
  | loaded
  | armed
  | claiming
  | scheduled
  | onAir
  | ending
deriving DecidableEq, Repr

/-- A slot with its run data (R140 to R148): the chain running it, its predecessor and whether that has
ended, whether its start condition has held, whether REGION_FULL was posted in this arming, whether its
successor has been armed or is waiting, the remaining count, the beacon field, the transmitted claim,
an end ordered for the next boundary, an end after the frame's outcome and whether a WITHDRAW_CUE asked for it (R147),
an end as ENDED after CLEAR_ALL, and whether the WITHDRAW has been taken by the queue. -/
structure CueSlot where
  st : CueSt
  cue : CueRec
  chain : Option ChainNo
  pred : Option Slot
  predEnded : Bool
  held : Bool
  fullPosted : Bool
  succDone : Bool
  remaining : Nat
  beaconField : Option FieldCount
  claim : Option Claim
  endOrdered : Bool
  endAfter : Bool
  withdrawn : Bool
  dropAfter : Bool
  wdQueued : Bool
deriving DecidableEq, Repr

/-- The chain states (R141). -/
inductive ChainSt where
  | idle
  | running
  | paused
  | aborting
deriving DecidableEq, Repr

/-- A waiting successor with its predecessor (R142). -/
structure Waiting where
  slot : Slot
  pred : Slot
  predEnded : Bool
deriving DecidableEq, Repr

/-- A successor to be armed when a paused chain runs again (R145, log 20). -/
structure DueSucc where
  pred : Slot
  next : Option Slot
deriving DecidableEq, Repr

/-- A chain (R141): `broken` and `terminal` say how it will end (R142). -/
structure Chain where
  st : ChainSt
  onAir : Option Slot
  armed : Option Slot
  waiting : Option Waiting
  broken : Bool
  terminal : Bool
  due : Option DueSucc
deriving DecidableEq, Repr

/-- The Cue Engine (R138 to R152). -/
structure Ce where
  slots : Vector CueSlot 32
  free : List Slot
  chains : Vector Chain 4
  trigger : Bool
  lostTriggers : Nat
deriving DecidableEq, Repr

/-! ## Span Builder and Keyer (09, 10) -/

/-- An own region of the snapshot (R154); `clip` holds the bus units of the transmitted claim of an
announced cue. -/
structure OwnRegion where
  slot : Slot
  top : Nat
  bottom : Nat
  left : Nat
  width : Nat
  layer : Layer
  kind : CueKind
  clip : Option (Nat × Nat)
deriving DecidableEq, Repr

/-- A span: own pixels left..right, right inclusive (R162). -/
structure Span where
  left : Int
  right : Int
  kind : CueKind
deriving DecidableEq, Repr

/-- A line's list with the values handed over with it (R157, R164, R167). -/
structure LineList where
  spans : List Span
  fieldLine : Nat
  D : Int
  ppl : Nat
  slip : Bool
  parity : Parity
  keyable : Bool
deriving DecidableEq, Repr

/-- The Span Builder (R154, R163 to R165). -/
structure Sb where
  occluders : List StoreEntry
  blankets : List Blanket
  own : List OwnRegion
  ready : List LineList
  overflow : Nat
deriving DecidableEq, Repr

/-- The stop flag (R168): clear, set and acting, or set and acting from the next line. -/
inductive StopFlag where
  | clear
  | acting
  | nextLine
deriving DecidableEq, Repr

/-- The Keyer (R167 to R172). The delay line holds the last decisions, oldest first. -/
structure Ky where
  line : LineList
  permitted : Bool
  stop : StopFlag
  keyDelay : Nat
  delay : List Bool
  key : Bool
deriving DecidableEq, Repr

/-! ## Host Port (11) -/

/-- CUE events (R174). -/
inductive CueEvent where
  | onAir
  | ended
  | failed
deriving DecidableEq, Repr

/-- CHAIN_DONE outcomes (R174). -/
inductive ChainOutcome where
  | complete
  | broken
  | aborted
deriving DecidableEq, Repr

/-- Refusal reasons (R174). -/
inductive Reason where
  | unknownKind
  | badLength
  | unconfigured
  | alreadyConfigured
  | muted
  | noSlot
  | live
  | notLoaded
  | busy
  | notRunning
  | queueFull
deriving DecidableEq, Repr

/-- The fields of a STATUS report (R180). -/
structure StatusFields where
  st : RefSt
  fs : FieldSt
  parity : Parity
  fc : FieldCount
  d : Int
  hoff : Int
  F : Int
  pinned : Nat
  jumps : Nat
  queue : List AdjKind
  hold : Nat
  shiftExcess : Int
  badCheck : WrapCount
  truncated : WrapCount
  abandoned : WrapCount
  overflow : Nat
  lostTriggers : Nat
  configured : Bool
  muted : Bool
  busFault : Bool
deriving DecidableEq, Repr

/-- The reports, with the fields of the rule that posts each, in its order (R173, R174). -/
inductive Report where
  | slot (slot : Slot)
  | cue (slot : Slot) (chain : Option ChainNo) (event : CueEvent) (fc e : FieldCount)
  | chainDone (chain : ChainNo) (outcome : ChainOutcome) (fc : FieldCount)
  | refState (now left : RefSt) (cause : RefCause) (fc : FieldCount)
  | fieldState (fs : FieldSt) (cause : FieldCause) (fc : FieldCount) (count : Int) (parity : Parity) (unclassified : Nat)
  | slipPending (d : Int) (hold : Nat) (fc : FieldCount)
  | slipDone (amount d : Int) (fc : FieldCount)
  | countAdopted (before after : FieldCount) (k : Nat) (station : Station)
  | parityAdopted (parity : Parity) (entries : Nat) (fc : FieldCount)
  | peer (station : Station) (before after : Presence) (missed stored : Nat) (fc : FieldCount)
  | clearSeen (sender : Station) (honoured : Bool) (fc : FieldCount)
  | busFault (cleared : Bool) (fc : FieldCount)
  | muted (fc : FieldCount) (frameKind : Nat)
  | allowanceSpent (fc : FieldCount) (frames : Nat)
  | regionFull (slot : Slot) (chain : Option ChainNo) (fc : FieldCount)
  | freqRange (F : Int) (high : Bool)
  | fenceDone (fc : FieldCount)
  | refused (kind : Byte) (reason : Reason) (fc : FieldCount)
  | status (s : StatusFields)
  | overflow (kind : Nat) (fc : FieldCount)
deriving DecidableEq, Repr

/-- A record of the report queue with its repeat count (R182). -/
structure QReport where
  report : Report
  again : Nat
deriving DecidableEq, Repr

/-- What the framer expects next (R175). -/
inductive Framer where
  | kind
  | length (kind : Byte)
  | payload (kind : Byte) (need : Nat) (got : List Byte)
  | skip (left : Nat)
deriving DecidableEq, Repr

/-- The Host Port (R173 to R184). `transfer` holds the bytes of the record in transfer that are not yet
acknowledged; `fenceLeft` counts the marked items an outstanding FENCE still waits for. -/
structure Hp where
  configured : Bool
  inbound : List Byte
  held : Option Byte
  framer : Framer
  hstb : Bool
  pack : Bool
  prdy : Bool
  hack : Bool
  hd : Option Byte
  reports : List QReport
  transfer : Option (List Byte)
  fence : Bool
  fenceLeft : Nat
deriving DecidableEq, Repr

/-- The claim half with the host port: the blocks of chapters 6 to 11. -/
structure Desk where
  cbi : Cbi
  pt : Pt
  ce : Ce
  sb : Sb
  ky : Ky
  hp : Hp
deriving DecidableEq, Repr

/-! ## The machine -/

/-- One SCLK period of the input pins (log 1): the sampler's code for VIN, whether another station pulls
CLB low, and TRANSP. -/
structure PinSample where
  vin : Code
  clbLow : Bool
  transp : Bool
deriving DecidableEq, Repr

/-- The reasons a step could stop with a fault. The spec gives every command an effect, so no command
raises one. -/
inductive Fault where
  /-- Raised by no command. Safe: it stops nothing. -/
  | outsideTheSpec
deriving DecidableEq, Repr

/-- The reasons a step could be refused. -/
inductive Refusal where
  /-- Raised by an arm of `exec` whose command has no meaning yet; no arm is left so. Safe. -/
  | notModelled (mnemonic : String)
deriving DecidableEq, Repr

/-- The machine. `pending` is the queue of waiting commands, first in, first out; `inputs` the waiting
SCLK periods of the input pins (log 1); `tieIx` the counter of the free tie orders (log 4). -/
structure State where
  pending : List Instr
  inputs : List PinSample
  tieIx : Nat
  resetHeld : Bool
  straps : Straps
  time : Timebase
  desk : Desk
deriving DecidableEq, Repr

/-! ## Reset values -/

/-- R19. -/
def Sfe.reset : Sfe where
  sampleTs := 0
  prev := none
  mode := .levelSearch
  windowCount := 0
  lowest := 255
  highest := 0
  tip := 0
  blank := 0
  pulse := none
  blankWin := none
  active := false
  timer := 0

/-- R44. -/
def Loop.reset (sys : System) : Loop where
  n := 1
  F := fNom sys
  P := BitVec.ofInt 28 (fNom sys)
  C := 0
  missRun := 0
  jumpRun := 0
  lastRejected := none
  pinnedRun := 0
  pinnedCount := 0
  jumpCount := 0
  records := []

/-- R64. -/
def Ref.reset : Ref where
  st := .search
  searchRun := 0
  searchEdge := none
  quality := 0
  newRun := 0
  newEdge := none
  anchor := none
  probeLines := 0
  probeTally := 0
  probeFirst := none
  aging := 0
  pendingLoss := false
  latch := false

/-- R82. -/
def Ft.reset : Ft where
  fs := .search
  fc := 0
  parity := .second
  label := .alternation
  counter := 0
  startKind := .coasted
  coasts := 0
  vwin := true
  broadRun := 0
  lastBroad := none
  firstBroad := none
  stray := none
  irregular := false
  unclassified := 0
  cand := none
  tally := Vector.replicate 16 none
  adoptPending := none

/-- R99. The plan is the loop line whose field line number is 313 or 263, FIRST; loop line 1 has number 0
(R82). Delivered line 0 has length F_nom and begins at timestamp 0. -/
def Tdu.reset (sys : System) : Tdu where
  D := 0
  hoff := 0
  ppl := 896
  slipDet := 0
  queue := []
  holdCount := 0
  slipField := false
  plan := ⟨1 + nominalCount sys .second, .first, false, false⟩
  owed := none
  early := none
  applyNext := false
  applyAt := none
  delParity := .second
  shiftExcess := 0
  pendCfg := none
  stepX := 0
  stepY := 0
  newVals := none
  openLine := none
  fixedLines := [⟨some 0, fNom sys⟩]
  nextRef := 1
  nextStart := 0
  lastLen := fNom sys
  hsync := false
  vsync := false
  vsyncLeft := 0

/-- R19, R44, R64, R82, R99. -/
def Timebase.reset (sys : System) : Timebase where
  sfe := Sfe.reset
  loop := Loop.reset sys
  ref := Ref.reset
  ft := Ft.reset
  tdu := Tdu.reset sys

/-- R120: the line released, nothing sampled. -/
def Wire.reset : Wire where
  high := true
  highFor := 0
  lowFor := 0
  sinceFall := 0
  inCell := 0
  drive := 0
  bits := []
  sampled := false
  tail := 0

/-- R120. -/
def Cbi.reset : Cbi where
  line := .wait
  txq := []
  passLock := false
  beaconDue := false
  beaconSent := false
  beaconAttempts := 0
  allowance := 4
  spentPosted := false
  burst := 0
  badCheck := ⟨0, false⟩
  truncated := ⟨0, false⟩
  abandoned := ⟨0, false⟩
  muted := false
  attempt := none
  objected := false
  wire := Wire.reset

/-- R136. -/
def Peer.reset : Peer where
  presence := .absent
  missed := 0
  seen := false
  last := none
  dropped := 0
  recalled := 0

/-- R136: every station number in the clear-acceptance set. -/
def Pt.reset : Pt where
  peers := Vector.replicate 16 Peer.reset
  store := []
  recalls := 0
  accept := BitVec.allOnes 16
  joinQuiet := 0
  blankets := []

/-- The contents of a FREE slot's record: none is in force. -/
def CueRec.blank : CueRec where
  top := 0
  height := 1
  left := 0
  width := 1
  layer := 0
  kind := .fill
  announce := false
  base := 0
  mask := 0
  start := .immediate
  startField := 0
  duration := 0
  next := none
  notifyStart := false
  notifyEnd := false
  demandEnd := false
  autoFree := false

/-- A slot with a record and no run. -/
def CueSlot.idle (st : CueSt) (cue : CueRec) : CueSlot where
  st := st
  cue := cue
  chain := none
  pred := none
  predEnded := false
  held := false
  fullPosted := false
  succDone := false
  remaining := 0
  beaconField := none
  claim := none
  endOrdered := false
  endAfter := false
  withdrawn := false
  dropAfter := false
  wdQueued := false

/-- A FREE slot. -/
def CueSlot.freed : CueSlot := CueSlot.idle .free CueRec.blank

/-- An IDLE chain. -/
def Chain.idle : Chain where
  st := .idle
  onAir := none
  armed := none
  waiting := none
  broken := false
  terminal := false
  due := none

/-- R152. -/
def Ce.reset : Ce where
  slots := Vector.replicate 32 CueSlot.freed
  free := List.finRange 32
  chains := Vector.replicate 4 Chain.idle
  trigger := false
  lostTriggers := 0

/-- The empty list of a line that is not keyed (R165). -/
def LineList.empty : LineList where
  spans := []
  fieldLine := 0
  D := 0
  ppl := 896
  slip := false
  parity := .second
  keyable := false

/-- R165: the lists of delivered lines 0 and 1 are empty (log 28). -/
def Sb.reset : Sb where
  occluders := []
  blankets := []
  own := []
  ready := [LineList.empty, LineList.empty]
  overflow := 0

/-- R172. -/
def Ky.reset : Ky where
  line := LineList.empty
  permitted := false
  stop := .clear
  keyDelay := 0
  delay := []
  key := false

/-- R184. -/
def Hp.reset : Hp where
  configured := false
  inbound := []
  held := none
  framer := .kind
  hstb := false
  pack := false
  prdy := false
  hack := false
  hd := none
  reports := []
  transfer := none
  fence := false
  fenceLeft := 0

/-- R120, R136, R152, R165, R172, R184. -/
def Desk.reset : Desk where
  cbi := Cbi.reset
  pt := Pt.reset
  ce := Ce.reset
  sb := Sb.reset
  ky := Ky.reset
  hp := Hp.reset

/-- The straps of `State.reset`. DESIGN CHOICE (log 5), unsafe: the spec gives no default strap setting. -/
def Straps.reset : Straps where
  stn := 0
  sys := .sys625
  tape := false

/-- The machine right after the release of hardware reset, with the straps `Straps.reset`. -/
def State.reset : State where
  pending := []
  inputs := []
  tieIx := 0
  resetHeld := false
  straps := Straps.reset
  time := Timebase.reset Straps.reset.sys
  desk := Desk.reset

end Sys2Proof.Machine
end

