-- ==== Sys2Proof/Machine/Ops.lean ====
section
/-! DEFINITION. The arithmetic that every block shares: rounding (R3), modular differences (R1), clamping
and counters, and the small operations on slots, chains and peer records. -/

namespace Sys2Proof.Machine

/-- R(num/den): round to nearest, ties toward positive infinity, floor(num/den + 1/2) (R3). -/
def roundR (num : Int) (den : Nat) : Int := (2 * num + den) / (2 * den)

/-- The ceiling of num/den, toward plus infinity (R157). -/
def ceilDiv (num den : Int) : Int := -((-num) / den)

/-- Fine units to ticks, R(x/256) (R98). -/
def ticksOf (fine : Int) : Int := roundR fine 256

/-- The signed modular difference of two timestamps in ticks (R1). -/
def tsDiff (a b : Ts) : Int := (a - b).toInt

/-- The signed modular difference of two timestamps in fine units (R1, R21). -/
def fineDiff (a b : FineTs) : Int := (a - b).toInt

/-- floor(P/256): a prediction as a tick timestamp (R21). -/
def floorTicks (p : FineTs) : Ts := BitVec.ofNat 20 (p.toNat / 256)

/-- A tick timestamp scaled to fine units (R1). -/
def fineOf (t : Ts) : FineTs := BitVec.ofNat 28 (t.toNat * 256)

/-- A modular fine timestamp moved by a signed number of fine units. -/
def moveFine (p : FineTs) (by_ : Int) : FineTs := p + BitVec.ofInt 28 by_

/-- Clamp to lo..hi. -/
def clampInt (lo hi x : Int) : Int := max lo (min hi x)

/-- A saturating count: one more, stopping at `limit` (00, "Saturating and wrapping counters"). -/
def satInc (limit n : Nat) : Nat := min limit (n + 1)

/-- A counter of R119: at 255 it wraps to 0 and sets its wrap flag. -/
def WrapCount.inc (w : WrapCount) : WrapCount :=
  if w.count ≥ 255 then ⟨0, true⟩ else ⟨w.count + 1, w.wrapped⟩

/-- "a is at or after b" for field counts (R2). -/
def atOrAfter (a b : FieldCount) : Bool := decide ((a - b).toNat ≤ 32767)

/-- The sample count between two sample timestamps, `b` the earlier (R4). -/
def samplesBetween (a b : Ts) : Nat := (a - b).toNat / 16

/-- The sets of claim ids: membership, insertion, removal (R104, R122). -/
def IdSet.has (s : IdSet) (i : Slot) : Bool := s.getLsbD i.val

/-- A set with an id put in. -/
def IdSet.insert (s : IdSet) (i : Slot) : IdSet := s ||| BitVec.twoPow 32 i.val

/-- A set with an id taken out. -/
def IdSet.erase (s : IdSet) (i : Slot) : IdSet := s &&& ~~~ BitVec.twoPow 32 i.val

/-- The set of the ids for which `p` holds. -/
def IdSet.ofPred (p : Slot → Bool) : IdSet :=
  (List.finRange 32).foldl (fun s i => if p i then IdSet.insert s i else s) 0

/-- The slots, stations and chains in increasing order. -/
def allSlots : List Slot := List.finRange 32

/-- The station numbers in increasing order. -/
def allStations : List Station := List.finRange 16

/-- The chain numbers in increasing order. -/
def allChains : List ChainNo := List.finRange 4

/-- A slot of the Cue Engine. -/
def Ce.slot (ce : Ce) (i : Slot) : CueSlot := ce.slots[i.val]

/-- The Cue Engine with a slot replaced. -/
def Ce.setSlot (ce : Ce) (i : Slot) (x : CueSlot) : Ce := { ce with slots := ce.slots.set i.val x }

/-- A chain of the Cue Engine. -/
def Ce.chain (ce : Ce) (c : ChainNo) : Chain := ce.chains[c.val]

/-- The Cue Engine with a chain replaced. -/
def Ce.setChain (ce : Ce) (c : ChainNo) (x : Chain) : Ce := { ce with chains := ce.chains.set c.val x }

/-- The record of a peer (R122). -/
def Pt.peer (pt : Pt) (n : Station) : Peer := pt.peers[n.val]

/-- The Peer Table with a record replaced. -/
def Pt.setPeer (pt : Pt) (n : Station) (x : Peer) : Pt := { pt with peers := pt.peers.set n.val x }

/-- The higher of two layers, either of which may be none (R122). -/
def higherLayer : Option Layer → Option Layer → Option Layer
  | none, b => b
  | some a, none => some a
  | some a, some b => some (if a.val < b.val then b else a)

/-- The state with its time half replaced. -/
def State.withTime (s : State) (t : Timebase) : State := { s with time := t }

/-- The state with its claim half replaced. -/
def State.withDesk (s : State) (d : Desk) : State := { s with desk := d }

/-- While RESET is held low every block keeps its reset values: no other event acts (R19, R99, R172,
R184; log 27). -/
def State.running (s : State) (f : State → State) : State := if s.resetHeld then s else f s

end Sys2Proof.Machine
end

