-- ==== Sys2Proof/Machine/Flags.lean ====
section
/-! DEFINITION. The conditions that the rules compute from the state: thresholds and amplitudes, windows,
keyable lines, who may send, live cues, and the levels of the pins that are views of other state. -/

namespace Sys2Proof.Machine

/-! ## Video input -/

/-- T, the slice threshold (R6). -/
def Sfe.threshold (x : Sfe) : Nat := (x.tip + x.blank) / 2

/-- A, the sync amplitude (R6). -/
def Sfe.amplitude (x : Sfe) : Int := (x.blank : Int) - x.tip

/-- The slicer is enabled in level tracking while A is 12 or more (R6). -/
def Sfe.slicerOn (x : Sfe) : Bool := x.mode == .levelTracking && decide (12 ≤ x.amplitude)

/-- A falling crossing: the slicer enabled, no pulse in progress, s(k-1) > T ≥ s(k) (R7). -/
def Sfe.falls (x : Sfe) (before now : Code) : Bool :=
  x.slicerOn && x.pulse.isNone && decide (x.threshold < before.toNat) && decide (now.toNat ≤ x.threshold)

/-- A rising crossing: the slicer enabled (R6), as it always is while a pulse is in progress, s(j-1) ≤ T < s(j) (R9). -/
def Sfe.rises (x : Sfe) (before now : Code) : Bool :=
  x.slicerOn && decide (before.toNat ≤ x.threshold) && decide (x.threshold < now.toNat)

/-- The grade of a pulse from its edge step and the amplitude in force (R8). -/
def gradeOf (step amp : Int) : Grade :=
  if amp ≤ 4 * step then .good else if amp ≤ 16 * step then .fair else .poor

/-- The class of a pulse by its width (R10); none for a GLITCH. -/
def classOf (width : Nat) : Option PulseClass :=
  if width < 24 then none else if width < 112 then some .narrow else if width ≤ 400 then some .line else some .broad

/-- The close time of the open line (R23). -/
def Loop.closeTime (l : Loop) : Ts := floorTicks l.P + BitVec.ofInt 20 (l.F / 1024)

/-- A pulse in progress whose snapshot names the line: the boundary waits for it (R23). -/
def Sfe.holdsLine (x : Sfe) (n : Nat) : Bool :=
  match x.pulse with
  | some p => p.snap.line == n
  | none => false

/-! ## Fields -/

/-- The keyable flag of a line (R68): first keyable line to third-last line of the nominal count. -/
def keyableLine (sys : System) (parity : Parity) (line : Nat) : Bool :=
  decide (firstKeyable sys ≤ line) && decide (line + 3 ≤ nominalCount sys parity)

/-- The last line of the beacon window, the 10th-last of the nominal count (R111). -/
def beaconWindowEnd (sys : System) (parity : Parity) : Nat := nominalCount sys parity - 10

/-- The beacon window: line 10 to the 10th-last line (R111). -/
def inBeaconWindow (sys : System) (parity : Parity) (line : Nat) : Bool :=
  decide (10 ≤ line) && decide (line ≤ beaconWindowEnd sys parity)

/-- A cadence matches FC (R155). -/
def cadenceMatches (fc : FieldCount) (base mask : Nibble) : Bool :=
  fc.extractLsb' 0 4 &&& mask == base &&& mask

/-- E does not lie one or two fields ahead of FC (R144, R155). -/
def effectiveReached (e fc : FieldCount) : Bool := (e - fc).toNat != 1 && (e - fc).toNat != 2

/-! ## Claim bus and host port -/

/-- R121: a station may send while it is not muted, not in FAULT, and configured. -/
def Desk.maySend (d : Desk) : Bool := d.hp.configured && !d.cbi.muted && d.cbi.line != .fault

/-- A CLEAR at the head of the queue, which an UNCONFIGURED station may still send (R112, R121). -/
def Cbi.clearAtHead (c : Cbi) : Bool :=
  match c.txq with
  | e :: _ => e.what == .clear
  | [] => false

/-- A queue entry concerns a claim id: CLAIM and WITHDRAW do, RECALL and CLEAR do not (R112). -/
def TxWhat.concerns : TxWhat → Slot → Bool
  | .claim id, i => id == i
  | .resend id, i => id == i
  | .withdraw id, i => id == i
  | .recall _ _, _ => false
  | .clear, _ => false

/-! ## Cues -/

/-- A cue is live in CLAIMING, SCHEDULED, ON_AIR and ENDING (R140). -/
def CueSt.live : CueSt → Bool
  | .claiming => true
  | .scheduled => true
  | .onAir => true
  | .ending => true
  | .free => false
  | .loaded => false
  | .armed => false

/-- The number of live cues of the station (R140). -/
def Ce.liveCount (ce : Ce) : Nat := (allSlots.filter (fun i => (ce.slot i).st.live)).length

/-- The number of live cues of a chain (R140). -/
def Ce.chainLive (ce : Ce) (c : ChainNo) : Nat :=
  (allSlots.filter (fun i => (ce.slot i).st.live && (ce.slot i).chain == some c)).length

/-- A slot's id is in the live set: announced, in SCHEDULED or ON_AIR (R143). -/
def CueSlot.inLiveSet (x : CueSlot) : Bool := x.cue.announce && (x.st == .scheduled || x.st == .onAir)

/-- The live set (R143). -/
def Ce.liveSet (ce : Ce) : IdSet := IdSet.ofPred (fun i => (ce.slot i).inLiveSet)

/-- The highest layer among the live set's transmitted claims (R104, R143). -/
def Ce.topLayer (ce : Ce) : Option Layer :=
  allSlots.foldl (fun m i =>
    if (ce.slot i).inLiveSet then higherLayer m (some (((ce.slot i).claim.map Claim.layer).getD (ce.slot i).cue.layer))
    else m) none

/-! ## Keyer -/

/-- A station-wide condition that suppresses every pixel at once: the stop flag acting, muted, or
UNCONFIGURED (R168, R169). -/
def Desk.keyingStopped (d : Desk) : Bool := d.ky.stop == .acting || d.cbi.muted || !d.hp.configured

/-- The reference states in which a line may be keyed (R46, R167). -/
def RefSt.mayKey : RefSt → Bool
  | .locked => true
  | .hold => true
  | .probe => true
  | .search => false
  | .acquire => false

/-! ## Pins that are views of other state -/

/-- LOR: asserted in every state but LOCKED, and while RESET is held low (R47, R64). -/
def State.lor (s : State) : Bool := s.resetHeld || s.time.ref.st != .locked

/-- FIELD: low for FIRST, high for SECOND, low while RESET is held (R88, R99). -/
def State.fieldPin (s : State) : Bool := !s.resetHeld && s.time.tdu.delParity == .second

/-- ATTN: asserted while the report queue holds a record (R183). -/
def State.attn (s : State) : Bool := !s.desk.hp.reports.isEmpty

end Sys2Proof.Machine
end

