-- ==== Sys2Proof/Machine/Operands.lean ====
section
/-! DEFINITION. The forms in which data crosses the pins: the payload layout of frames (R103, R104), the
check of R105, the request records (R173, R174) and the report records (R173, R174, R182). -/

namespace Sys2Proof.Machine

/-! ## Codes -/

/-- Reference state codes (R104, R174). -/
def RefSt.code : RefSt → Nat
  | .search => 0
  | .acquire => 1
  | .locked => 2
  | .hold => 3
  | .probe => 4

/-- The reference state of a code; 5, 6 and 7 are none (R123). -/
def refStOfCode : Nat → Option RefSt
  | 0 => some .search
  | 1 => some .acquire
  | 2 => some .locked
  | 3 => some .hold
  | 4 => some .probe
  | _ => none

/-- Parity codes: FIRST 0, SECOND 1 (R104, R174). -/
def parityCode : Parity → Nat
  | .first => 0
  | .second => 1

/-- Field state codes (R174). -/
def FieldSt.code : FieldSt → Nat
  | .search => 0
  | .locked => 1
  | .coast => 2

/-- REF_STATE causes (R174). -/
def RefCause.code : RefCause → Nat
  | .sourceFound => 0
  | .lockConfirmed => 1
  | .activityLost => 2
  | .pinned => 3
  | .misses => 4
  | .candidate => 5
  | .newSource => 6
  | .aged => 7
  | .probeConfirmed => 8
  | .probeFailed => 9

/-- FIELD_STATE causes (R174). -/
def FieldCause.code : FieldCause → Nat
  | .anchored => 0
  | .coasting => 1
  | .resumed => 2
  | .lost => 3
  | .fieldSlip => 4
  | .irregular => 5

/-- CUE events (R174). -/
def CueEvent.code : CueEvent → Nat
  | .onAir => 0
  | .ended => 1
  | .failed => 2

/-- CHAIN_DONE outcomes (R174). -/
def ChainOutcome.code : ChainOutcome → Nat
  | .complete => 0
  | .broken => 1
  | .aborted => 2

/-- Presence codes (R174). -/
def Presence.code : Presence → Nat
  | .absent => 0
  | .joining => 1
  | .present => 2
  | .silent => 3

/-- Refusal reasons (R174). -/
def Reason.code : Reason → Nat
  | .unknownKind => 0
  | .badLength => 1
  | .unconfigured => 2
  | .alreadyConfigured => 3
  | .muted => 4
  | .noSlot => 5
  | .live => 6
  | .notLoaded => 7
  | .busy => 8
  | .notRunning => 9
  | .queueFull => 10

/-- A flag: 0 clear, 1 set (R174). -/
def flagCode (b : Bool) : Nat := if b then 1 else 0

/-! ## Frames (R103 to R105) -/

/-- One bit as a word of one bit. -/
def bit1 (b : Bool) : BitVec 1 := BitVec.ofBool b

/-- The field of `len` bits that ends at position `last` of a payload of `w` bits, positions counted from
1 at the first bit sent (R104). -/
def payloadField {w : Nat} (p : BitVec w) (last len : Nat) : BitVec len := p.extractLsb' (w - last) len

/-- BEACON payload (R104). -/
def encodeBeacon (b : Beacon) : BitVec 64 :=
  BitVec.ofNat 3 b.st.code ++ bit1 b.fieldLocked ++ BitVec.ofNat 1 (parityCode b.parity) ++
    bit1 b.top.isSome ++ (0 : BitVec 2) ++ BitVec.ofNat 4 ((b.top.map Fin.val).getD 0) ++ (0 : BitVec 4) ++
    b.fc ++ b.live

/-- A BEACON payload read back, none when the reference state field holds 5, 6 or 7 (R104, R123). -/
def decodeBeacon (p : BitVec 64) : Option Beacon :=
  match refStOfCode (payloadField p 3 3).toNat with
  | none => none
  | some st => some {
      st := st
      fieldLocked := (payloadField p 4 1).toNat == 1
      parity := if (payloadField p 5 1).toNat == 1 then .second else .first
      top := if (payloadField p 6 1).toNat == 1 then some (payloadField p 12 4).toFin else none
      fc := payloadField p 32 16
      live := payloadField p 64 32 }

/-- CLAIM payload (R104). A right edge of 1024 is the 10-bit value 0 (R125). -/
def encodeClaim (c : Claim) (resend : Bool) : BitVec 72 :=
  BitVec.ofNat 5 c.id.val ++ bit1 resend ++ BitVec.ofNat 4 c.layer.val ++ BitVec.ofNat 9 c.top ++
    BitVec.ofNat 9 c.bottom ++ BitVec.ofNat 10 c.left ++ BitVec.ofNat 10 c.right ++ c.e ++ c.base ++ c.mask

/-- A CLAIM payload read back, with its resend flag (R104, R125: a right field of 0 stands for 1024). -/
def decodeClaim (p : BitVec 72) : Claim × Bool :=
  let right := (payloadField p 48 10).toNat
  ({ id := (payloadField p 5 5).toFin
     layer := (payloadField p 10 4).toFin
     top := (payloadField p 19 9).toNat
     bottom := (payloadField p 28 9).toNat
     left := (payloadField p 38 10).toNat
     right := if right = 0 then 1024 else right
     e := payloadField p 64 16
     base := payloadField p 68 4
     mask := payloadField p 72 4 },
   (payloadField p 6 1).toNat == 1)

/-- WITHDRAW payload (R104). -/
def encodeWithdraw (id : Slot) : BitVec 8 := (0 : BitVec 3) ++ BitVec.ofNat 5 id.val

/-- The id of a WITHDRAW payload (R104). -/
def decodeWithdraw (p : BitVec 8) : Slot := (payloadField p 8 5).toFin

/-- RECALL payload (R104). -/
def encodeRecall (target : Station) (id : Slot) : BitVec 16 :=
  BitVec.ofNat 4 target.val ++ BitVec.ofNat 5 id.val ++ (0 : BitVec 7)

/-- The target and id of a RECALL payload (R104). -/
def decodeRecall (p : BitVec 16) : Station × Slot := ((payloadField p 4 4).toFin, (payloadField p 9 5).toFin)

/-- The bits of a word, most significant first (R103). -/
def bitsOf {w : Nat} (x : BitVec w) : List Bool := (List.range w).map x.getMsbD

/-- A word of `w` bits from bits sent most significant first. -/
def wordOf (w : Nat) (bits : List Bool) : BitVec w :=
  BitVec.ofNat w (bits.foldl (fun n b => 2 * n + flagCode b) 0)

/-- Frame kind codes (R103). -/
def FrameContents.kind : FrameContents → Nat
  | .beacon _ => 1
  | .claim _ _ => 2
  | .withdraw _ => 3
  | .recall _ _ => 4
  | .clear => 5

/-- The payload bits of a frame (R104). -/
def FrameContents.payload : FrameContents → List Bool
  | .beacon b => bitsOf (encodeBeacon b)
  | .claim c resend => bitsOf (encodeClaim c resend)
  | .withdraw id => bitsOf (encodeWithdraw id)
  | .recall target id => bitsOf (encodeRecall target id)
  | .clear => []

/-- The number of payload bytes that each kind is defined to have (R103); none for an invalid kind. -/
def frameLength : Nat → Option Nat
  | 1 => some 8
  | 2 => some 9
  | 3 => some 1
  | 4 => some 2
  | 5 => some 0
  | _ => none

/-- One bit of the check: shift, and combine when the bit that left differs from the frame bit (R105). -/
def crcStep (r : BitVec 16) (b : Bool) : BitVec 16 :=
  if r.msb != b then (r <<< 1) ^^^ 0x1021#16 else r <<< 1

/-- The check of R105 over a list of bits, the register preset to all ones. -/
def crc (bits : List Bool) : BitVec 16 := bits.foldl crcStep (BitVec.allOnes 16)

/-- The access code: rank, continuation, station number (R103). -/
def accessCode (stn : Station) (a : Attempt) : List Bool :=
  [!a.firstRank, !a.continuing] ++ bitsOf (BitVec.ofNat 4 stn.val)

/-- The kind, length and payload fields of a frame, which the check covers (R103, R105). -/
def frameBody (c : FrameContents) : List Bool :=
  bitsOf (BitVec.ofNat 4 c.kind) ++ bitsOf (BitVec.ofNat 4 (c.payload.length / 8)) ++ c.payload

/-- The bits of a frame as its sender sends them, objection and end cells included (R103). -/
def frameBits (stn : Station) (a : Attempt) : List Bool :=
  accessCode stn a ++ frameBody a.contents ++ bitsOf (crc (frameBody a.contents)) ++ [true, true, true]

/-! ## Report records (R173, R174) -/

/-- A value in `n` bytes, most significant first; a negative value in two's complement (R173). -/
def beBytes (n : Nat) (x : Int) : List Byte :=
  (List.range n).reverse.map (fun i => BitVec.ofInt 8 (x / 256 ^ i))

/-- Kind codes of the reports, 0x81..0x94 in the order of the table (R173). -/
def Report.kind : Report → Nat
  | .slot _ => 0x81
  | .cue _ _ _ _ _ => 0x82
  | .chainDone _ _ _ => 0x83
  | .refState _ _ _ _ => 0x84
  | .fieldState _ _ _ _ _ _ => 0x85
  | .slipPending _ _ _ => 0x86
  | .slipDone _ _ _ => 0x87
  | .countAdopted _ _ _ _ => 0x88
  | .parityAdopted _ _ _ => 0x89
  | .peer _ _ _ _ _ _ => 0x8A
  | .clearSeen _ _ _ => 0x8B
  | .busFault _ _ => 0x8C
  | .muted _ _ => 0x8D
  | .allowanceSpent _ _ => 0x8E
  | .regionFull _ _ _ => 0x8F
  | .freqRange _ _ => 0x90
  | .fenceDone _ => 0x91
  | .refused _ _ _ => 0x92
  | .status _ => 0x93
  | .overflow _ _ => 0x94

/-- The subject of a report: the slot for CUE, the station for PEER, the chain for CHAIN_DONE; for every
other kind the kind alone (R182). -/
def Report.subject : Report → Nat
  | .cue i _ _ _ _ => i.val
  | .peer station _ _ _ _ _ => station.val
  | .chainDone chain _ _ => chain.val
  | _ => 0

/-- Kind and subject (R182). -/
def Report.key (r : Report) : Nat × Nat := (r.kind, r.subject)

/-- A byte of 0..255. -/
def byteOf (n : Nat) : List Byte := beBytes 1 n

/-- A field count, E or k in two bytes (R174). -/
def fcBytes (x : FieldCount) : List Byte := beBytes 2 x.toNat

/-- A chain number; 0 where none applies (R174). -/
def chainByte (c : Option ChainNo) : List Byte := byteOf ((c.map Fin.val).getD 0)

/-- An error counter with its wrap flag (R174, R180). -/
def wrapBytes (w : WrapCount) : List Byte := byteOf w.count ++ byteOf (flagCode w.wrapped)

/-- An adjustment entry in STATUS: SLIP 0, RECENTRE 1, SHIFT 2, and the amount (R174). -/
def AdjKind.bytes : AdjKind → List Byte
  | .slip => byteOf 0 ++ beBytes 2 0
  | .recentre => byteOf 1 ++ beBytes 2 0
  | .shift a => byteOf 2 ++ beBytes 2 a

/-- The STATUS fields in the order of R180, coded as R174 states. -/
def StatusFields.bytes (s : StatusFields) : List Byte :=
  byteOf s.st.code ++ byteOf s.fs.code ++ byteOf (parityCode s.parity) ++ fcBytes s.fc ++ beBytes 4 s.d ++
    beBytes 2 s.hoff ++ beBytes 4 s.F ++ byteOf s.pinned ++ byteOf s.jumps ++
    byteOf s.queue.length ++ s.queue.flatMap AdjKind.bytes ++ byteOf s.hold ++ beBytes 2 s.shiftExcess ++
    wrapBytes s.badCheck ++ wrapBytes s.truncated ++ wrapBytes s.abandoned ++ byteOf s.overflow ++
    byteOf s.lostTriggers ++ byteOf (flagCode s.configured) ++ byteOf (flagCode s.muted) ++
    byteOf (flagCode s.busFault)

/-- The fields of a report in the order its rule names them (R173, R174). The count of the field just
ended in FIELD_STATE takes two bytes: DESIGN CHOICE (log 16), unsafe, R174 gives it no width. -/
def Report.fields : Report → List Byte
  | .slot i => byteOf i.val
  | .cue i chain event fc e => byteOf i.val ++ chainByte chain ++ byteOf event.code ++ fcBytes fc ++ fcBytes e
  | .chainDone chain outcome fc => byteOf chain.val ++ byteOf outcome.code ++ fcBytes fc
  | .refState now left cause fc => byteOf now.code ++ byteOf left.code ++ byteOf cause.code ++ fcBytes fc
  | .fieldState fs cause fc count parity unclassified =>
      byteOf fs.code ++ byteOf cause.code ++ fcBytes fc ++ beBytes 2 count ++ byteOf (parityCode parity) ++
        byteOf unclassified
  | .slipPending d hold fc => beBytes 4 d ++ byteOf hold ++ fcBytes fc
  | .slipDone amount d fc => beBytes 4 amount ++ beBytes 4 d ++ fcBytes fc
  | .countAdopted before after k station => fcBytes before ++ fcBytes after ++ beBytes 2 k ++ byteOf station.val
  | .parityAdopted parity entries fc => byteOf (parityCode parity) ++ byteOf entries ++ fcBytes fc
  | .peer station before after missed stored fc =>
      byteOf station.val ++ byteOf before.code ++ byteOf after.code ++ byteOf missed ++ byteOf stored ++ fcBytes fc
  | .clearSeen sender honoured fc => byteOf sender.val ++ byteOf (flagCode honoured) ++ fcBytes fc
  | .busFault cleared fc => byteOf (flagCode cleared) ++ fcBytes fc
  | .muted fc frameKind => fcBytes fc ++ byteOf frameKind
  | .allowanceSpent fc frames => fcBytes fc ++ byteOf frames
  | .regionFull i chain fc => byteOf i.val ++ chainByte chain ++ fcBytes fc
  | .freqRange F high => beBytes 4 F ++ byteOf (flagCode high)
  | .fenceDone fc => fcBytes fc
  | .refused kind reason fc => [kind] ++ byteOf reason.code ++ fcBytes fc
  | .status s => s.bytes
  | .overflow kind fc => byteOf kind ++ fcBytes fc

/-- A report record as the host port sends it: kind, length (the bytes that follow it), repeat count,
fields (11.2, R182; log 17). -/
def QReport.bytes (q : QReport) : List Byte :=
  byteOf q.report.kind ++ byteOf (q.report.fields.length + 1) ++ byteOf q.again ++ q.report.fields

/-! ## Request records (R173, R174) -/

/-- The slot of a slot byte: its low five bits (R173). -/
def slotOfByte (b : Byte) : Slot := (b.extractLsb' 0 5).toFin

/-- The slot or next byte of LOAD_CUE: the top bit set means none (R173). -/
def slotOrNone (b : Byte) : Option Slot := if b.msb then none else some (slotOfByte b)

/-- The chain of a chain byte: its low two bits (R173). -/
def chainOfByte (b : Byte) : ChainNo := (b.extractLsb' 0 2).toFin

/-- The start mode in the low two bits of its byte (R174). -/
def startModeOf (b : Byte) : StartMode :=
  match (b.extractLsb' 0 2).toNat with
  | 0 => .immediate
  | 1 => .atField
  | 2 => .onTrigger
  | _ => .afterPrevious

/-- The payload of LOAD_CUE (R173, R174). -/
def parseLoadCue : List Byte → Option LoadCue
  | [slot, t1, t0, h1, h0, l1, l0, w1, w0, layer, flags, cad, mode, f1, f0, d1, d0, next] => some {
      slot := slotOrNone slot
      top := t1 ++ t0
      height := h1 ++ h0
      left := l1 ++ l0
      width := w1 ++ w0
      layer := layer
      kind := if flags.getMsbD 0 then .cutout else .fill
      announce := flags.getMsbD 1
      notifyStart := flags.getMsbD 2
      notifyEnd := flags.getMsbD 3
      demandEnd := flags.getMsbD 4
      autoFree := flags.getMsbD 5
      cadBase := cad.extractLsb' 4 4
      cadMask := cad.extractLsb' 0 4
      start := startModeOf mode
      startField := f1 ++ f0
      duration := d1 ++ d0
      next := slotOrNone next }
  | _ => none

/-- The command of a request record with its whole payload (R173), none for a record that is not well
formed. -/
def parseRequest (kind : Byte) (payload : List Byte) : Option Instr :=
  match kind.toNat, payload with
  | 0x01, [p1, p0, h1, h0, k, a1, a0] => some (.configure (p1 ++ p0) (h1 ++ h0) k (a1 ++ a0))
  | 0x02, [] => some .reinit
  | 0x03, [] => some .statusQuery
  | 0x04, bytes => (parseLoadCue bytes).map .loadCue
  | 0x05, [b] => some (.freeCue (slotOfByte b))
  | 0x06, [c, h] => some (.startChain (chainOfByte c) (slotOfByte h))
  | 0x07, [c] => some (.pauseChain (chainOfByte c))
  | 0x08, [c] => some (.resumeChain (chainOfByte c))
  | 0x09, [c] => some (.abortChain (chainOfByte c))
  | 0x0A, [b] => some (.withdrawCue (slotOfByte b))
  | 0x0B, [a1, a0] => some (.shift (a1 ++ a0))
  | 0x0C, [] => some .recentre
  | 0x0D, [n] => some (.holdSlips n)
  | 0x0E, [] => some .fence
  | 0x0F, [] => some .clearAll
  | _, _ => none

end Sys2Proof.Machine
end

