-- ==== Sys2Proof/Machine/Reports.lean ====
section
/-! DEFINITION. The report queue and the FENCE (R181, R182), which every block uses. -/

namespace Sys2Proof.Machine

/-! ## The report queue (R182) -/

/-- The union of two wrap flags under the later count (R180). -/
def WrapCount.mergeFlag (old new : WrapCount) : WrapCount := { new with wrapped := old.wrapped || new.wrapped }

/-- A STATUS that coalesces: wrap flags by union, shift excess by saturating sum (R180). -/
def StatusFields.merge (old new : StatusFields) : StatusFields :=
  { new with
    badCheck := old.badCheck.mergeFlag new.badCheck
    truncated := old.truncated.mergeFlag new.truncated
    abandoned := old.abandoned.mergeFlag new.abandoned
    shiftExcess := clampInt (-32768) 32767 (old.shiftExcess + new.shiftExcess) }

/-- The fields a queued record takes from a new report of its kind and subject (R180, R182). -/
def Report.mergeInto : Report → Report → Report
  | .status old, .status new => .status (old.merge new)
  | _, r => r

/-- A queued record after a report of its kind and subject (R182). -/
def QReport.again1 (r : Report) (q : QReport) : QReport := ⟨q.report.mergeInto r, satInc 255 q.again⟩

/-- A report of this kind and subject is in the queue (R182). -/
def queued (r : Report) (qs : List QReport) : Bool := qs.any (fun q => q.report.key == r.key)

/-- The key of OVERFLOW (R182). -/
def isOverflow (q : QReport) : Bool := q.report.kind == 0x94

/-- The queue after a report that coalesces (R182). -/
def coalesce (r : Report) (qs : List QReport) : List QReport :=
  qs.map (fun q => if q.report.key == r.key then q.again1 r else q)

/-- The queue after a report is discarded for want of room (R182). -/
def overflowed (r : Report) (fc : FieldCount) (qs : List QReport) : List QReport :=
  if qs.any isOverflow then
    qs.map (fun q => if isOverflow q then ⟨.overflow r.kind fc, satInc 255 q.again⟩ else q)
  else qs ++ [⟨.overflow r.kind fc, 0⟩]

/-- A report that is posted is placed or coalesces; otherwise it is discarded (R182). -/
def placesReport (r : Report) (qs : List QReport) : Bool := queued r qs || decide (qs.length < 15)

/-- The report queue after a report is posted (R182). -/
def postReport (fc : FieldCount) (r : Report) (qs : List QReport) : List QReport :=
  if queued r qs then coalesce r qs
  else if qs.length < 15 then qs ++ [⟨r, 0⟩]
  else overflowed r fc qs

/-- The host port with a report posted (R182). -/
def Hp.post (fc : FieldCount) (r : Report) (h : Hp) : Hp := { h with reports := postReport fc r h.reports }

/-- A block posts a report. -/
def Desk.post (fc : FieldCount) (r : Report) (d : Desk) : Desk := { d with hp := d.hp.post fc r }

/-- Reports posted one after the other. -/
def Desk.postAll (fc : FieldCount) (rs : List Report) (d : Desk) : Desk := rs.foldl (fun x r => x.post fc r) d

/-- REFUSED, which every refusal posts (R176). -/
def Desk.refuse (fc : FieldCount) (kind : Byte) (reason : Reason) (d : Desk) : Desk :=
  d.post fc (.refused kind reason fc)

/-! ## FENCE (R181) -/

/-- An adjustment entry or a frame has left its queue; when the last marked one leaves, FENCE_DONE is posted
(R181). -/
def Desk.itemLeft (fc : FieldCount) (marked : Bool) (d : Desk) : Desk :=
  if marked && d.hp.fence then
    if d.hp.fenceLeft ≤ 1 then
      { d with hp := { d.hp with fence := false, fenceLeft := 0 } }.post fc (.fenceDone fc)
    else { d with hp := { d.hp with fenceLeft := d.hp.fenceLeft - 1 } }
  else d

/-- Several items have left. -/
def Desk.itemsLeft (fc : FieldCount) (marks : List Bool) (d : Desk) : Desk :=
  marks.foldl (fun x m => x.itemLeft fc m) d

end Sys2Proof.Machine
end

