-- ==== Sys2Proof/Machine/TxQueue.lean ====
section
/-! DEFINITION. The transmit queue of the Claim Bus Interface: offering, passing, purging and removing
(R112 to R115). -/

namespace Sys2Proof.Machine

/-- A frame as it is queued (R108: attempt counts start at 0). -/
def TxEntry.fresh (what : TxWhat) (owner : TxOwner) : TxEntry where
  what := what
  owner := owner
  attempts := 0
  stage := .waiting
  marked := false
  doomed := false
  removeAsked := false
  silent := false

/-- The queue has room (R112). -/
def Cbi.hasRoom (c : Cbi) : Bool := decide (c.txq.length < 8)

/-- An entry is put at the tail. -/
def Cbi.enqueue (what : TxWhat) (owner : TxOwner) (c : Cbi) : Cbi :=
  { c with txq := c.txq ++ [TxEntry.fresh what owner] }

/-- Some entry concerns the id (R112). -/
def Cbi.concerned (id : Slot) (c : Cbi) : Bool := c.txq.any (fun e => e.what.concerns id)

/-- An entry that a passing WITHDRAW stays behind: a CLEAR or the frame in flight (R113). -/
def TxEntry.heldFirst (e : TxEntry) : Bool := e.what == .clear || e.stage == .inFlight

/-- A WITHDRAW placed ahead of every entry except a CLEAR and the frame in flight (R113). It stays ahead of a contending
frame that then wins and fails (R108): DESIGN CHOICE (log 70), unsafe. -/
def passAhead (w : TxEntry) : List TxEntry → List TxEntry
  | [] => [w]
  | e :: rest => if e.heldFirst then e :: passAhead w rest else w :: e :: rest

/-- A WITHDRAW offered for the id passes (R113). -/
def Cbi.withdrawPasses (id : Slot) (c : Cbi) : Bool := !c.passLock && !c.concerned id

/-- A WITHDRAW taken by the queue (R113). -/
def Cbi.enqueueWithdraw (id : Slot) (owner : TxOwner) (c : Cbi) : Cbi :=
  if c.withdrawPasses id then
    { c with txq := passAhead (TxEntry.fresh (.withdraw id) owner) c.txq, passLock := true }
  else c.enqueue (.withdraw id) owner

/-- A frame other than a CLEAR offered to the queue (R112, R113). -/
def Cbi.offer (what : TxWhat) (owner : TxOwner) (c : Cbi) : Cbi :=
  if c.hasRoom then
    match what with
    | .withdraw id => c.enqueueWithdraw id owner
    | other => c.enqueue other owner
  else c

/-- The frame of an attempt comes from the transmit queue; a beacon does not (R111, R112). -/
def FrameContents.fromQueue : FrameContents → Bool
  | .beacon _ => false
  | .claim _ _ => true
  | .withdraw _ => true
  | .recall _ _ => true
  | .clear => true

/-- A frame of the queue is in flight: the station is SENDING it, until its last end cell (R106, R112). -/
def Cbi.queueFlies (c : Cbi) : Bool :=
  c.line == .sending && (match c.attempt with
    | some a => a.contents.fromQueue
    | none => false)

/-- The pass-lock is cleared when the queue becomes empty: no entry, and no frame of it in flight (R112, R113). -/
def Cbi.settleLock (c : Cbi) : Cbi := if c.txq.isEmpty && !c.queueFlies then { c with passLock := false } else c

/-- The entries that a CLEAR or muting discards at once: those waiting (R114, R118). -/
def Cbi.waitingEntries (c : Cbi) : List TxEntry := c.txq.filter (fun e => e.stage == .waiting)

/-- What a CLEAR leaves in the queue: the frame contending or in flight, which is not tried again (R114). -/
def Cbi.keptEntries (c : Cbi) : List TxEntry :=
  (c.txq.filter (fun e => e.stage != .waiting)).map (fun e => { e with doomed := true })

/-- The purge of a CLEAR, which may empty the queue (R112 to R114). -/
def Cbi.purge (c : Cbi) : Cbi := { c with txq := c.keptEntries }.settleLock

/-- A CLEAR taken by the queue: the purge, then the CLEAR at the head (R114). -/
def Cbi.enqueueClear (c : Cbi) : Cbi := { c.purge with txq := TxEntry.fresh .clear .cueEngine :: c.purge.txq }

/-- The entry is the Cue Engine's CLAIM for an id; one that REINIT left to run out is no longer (R121). -/
def TxEntry.isClaim (id : Slot) (e : TxEntry) : Bool := e.what == TxWhat.claim id && !e.silent

/-- The queued CLAIM of the Cue Engine for an id, if one is there. -/
def Cbi.claimEntry (id : Slot) (c : Cbi) : Option TxEntry := c.txq.find? (TxEntry.isClaim id)

/-- The queue without the CLAIM for an id (R115). -/
def Cbi.dropClaim (id : Slot) (c : Cbi) : Cbi :=
  { c with txq := c.txq.filter (fun e => !e.isClaim id) }.settleLock

/-- The CLAIM for an id, if it is contending, is to be removed if it loses; one in flight runs to its end (R115). -/
def Cbi.askRemoval (id : Slot) (c : Cbi) : Cbi :=
  { c with txq := c.txq.map (fun e =>
      if e.isClaim id && e.stage == .contending then { e with removeAsked := true } else e) }

/-- The claim half with its bus interface replaced. -/
def Desk.withCbi (f : Cbi → Cbi) (d : Desk) : Desk := { d with cbi := f d.cbi }

end Sys2Proof.Machine
end

