-- ==== Sys2Proof/Machine/Cells.lean ====
section
/-! DEFINITION. One cell of the claim bus at this station: the bits it sends, what a receiver reads from the bits
sampled so far, and how long the station holds the line in a cell (R101, R103, R105, R107). -/

namespace Sys2Proof.Machine

/-- SCLK for which a cell is held low (R101). -/
def cellLow (recessive : Bool) : Nat := if recessive then 8 else 24

/-! ## What a receiver reads (R103, R107) -/

/-- The payload length that a received frame's length field gives, once it is complete (R103, R107). -/
def rxLength (bits : List Bool) : Nat := (wordOf 4 ((bits.drop 10).take 4)).toNat

/-- The kind of a received frame. -/
def rxKind (bits : List Bool) : Nat := (wordOf 4 ((bits.drop 6).take 4)).toNat

/-- The cells before the objection cell of a received frame. -/
def rxBeforeObjection (bits : List Bool) : Nat := 30 + 8 * rxLength bits

/-- The check of a received frame agrees (R105). -/
def rxCheckOk (bits : List Bool) : Bool :=
  let n := 8 + 8 * rxLength bits
  crc ((bits.drop 6).take n) == wordOf 16 ((bits.drop (6 + n)).take 16)

/-- The error that the kind and length fields show, if any (R107). -/
def rxFormError (bits : List Bool) : Option FrameFault :=
  match frameLength (rxKind bits) with
  | none => some .invalidKind
  | some n => if n = rxLength bits then none else some .wrongLength

/-- The sender of a received frame, from its access code (R103). -/
def rxSender (bits : List Bool) : Station := (wordOf 4 ((bits.drop 2).take 4)).toFin

/-- The payload bits of a received frame. -/
def rxPayload (bits : List Bool) : List Bool := (bits.drop 14).take (8 * rxLength bits)

/-! ## The station's part in a cell (R101) -/

/-- The objection cell of the frame on the line has been sampled: its end cells are all that is left (R103). -/
def Cbi.inEndCells (c : Cbi) : Bool := decide (0 < c.wire.tail)

/-- The bit that this station sends next, while it sends (R103). -/
def Cbi.nextBit (stn : Station) (c : Cbi) : Option Bool :=
  match c.attempt with
  | some a =>
    if (c.line = .contending ∨ c.line = .sending) ∧ c.inEndCells = false then
      some ((frameBits stn a).getD c.wire.bits.length true)
    else none
  | none => none

/-- A receiver sends dominant in the cell that begins (R107): in the objection cell after a check error, and in
every cell after a bad kind or length. -/
def Cbi.objects (c : Cbi) : Bool :=
  let bits := c.wire.bits
  c.line == .receiving && !c.muted &&
    (c.objected || (decide (14 ≤ bits.length) && bits.length == rxBeforeObjection bits && !rxCheckOk bits))

/-- How long the station holds the line in the cell that begins, if it takes part in it (R101): a sender's two end
cells are recessive (R103). -/
def Cbi.cellDrive (stn : Station) (c : Cbi) : Nat :=
  match c.nextBit stn with
  | some b => cellLow b
  | none => if c.objects then cellLow false else if c.line = .sending ∧ 2 ≤ c.wire.tail then cellLow true else 0

/-- The first fall of a frame begins its first cell: nothing of the frame has been sampled (R101, R102). -/
def Wire.startFrame (w : Wire) : Wire := { w with bits := [], tail := 0, sinceFall := 0, inCell := 0, sampled := false }

/-- The station holds the line in no cell: its own frame is over, lost or cut short, or the bus is idle (R101, R102, R106,
R108). -/
def Wire.release (w : Wire) : Wire := { w with drive := 0 }

/-- A cell begins and the station takes its part in it (R101). This SCLK is the first of those it holds low. -/
def Cbi.joinCell (stn : Station) (c : Cbi) : Cbi :=
  { c with wire := { c.wire with drive := max c.wire.drive (c.cellDrive stn - 1), tail := c.wire.tail - 1 } }

/-- A cell of this station falls due, 32 SCLK after the last one began: it pulls the line (R101). A receiver begins
no cell. -/
def Cbi.beginCell (stn : Station) (c : Cbi) : Cbi :=
  if c.line = .receiving then c else { c with wire := { c.wire with drive := max c.wire.drive (c.cellDrive stn) } }

end Sys2Proof.Machine
end

