-- ==== Sys2Proof/Machine/Cue.lean ====
section
/-! DEFINITION. The Cue Engine: slots, chains, claims, endings, the field boundary and the stops
(08_cues_and_chains.md). -/

namespace Sys2Proof.Machine

/-! ## Access -/

/-- A slot, a chain. -/
def Desk.slot (d : Desk) (i : Slot) : CueSlot := d.ce.slot i

/-- A chain. -/
def Desk.chain (d : Desk) (c : ChainNo) : Chain := d.ce.chain c

/-- A slot changed. -/
def Desk.modSlot (i : Slot) (f : CueSlot → CueSlot) (d : Desk) : Desk := { d with ce := d.ce.setSlot i (f (d.slot i)) }

/-- A chain changed. -/
def Desk.modChain (c : ChainNo) (f : Chain → Chain) (d : Desk) : Desk :=
  { d with ce := d.ce.setChain c (f (d.chain c)) }

/-- The slots of a chain's cues. -/
def Desk.inChain (d : Desk) (c : ChainNo) (i : Slot) : Bool := (d.slot i).chain == some c

/-- The chain that runs a slot is RUNNING. -/
def Desk.runsSlot (d : Desk) (i : Slot) : Bool :=
  match (d.slot i).chain with
  | some c => (d.chain c).st == .running
  | none => false

/-! ## Going live (R140, R143) -/

/-- REGION_FULL, once in each arming (R140). -/
def Desk.regionFull (fc : FieldCount) (i : Slot) (d : Desk) : Desk :=
  if (d.slot i).fullPosted then d
  else (d.modSlot i (fun x => { x with fullPosted := true })).post fc (.regionFull i (d.slot i).chain fc)

/-- The chain of a slot already has two live cues (R140). -/
def Desk.chainFull (d : Desk) (i : Slot) : Bool :=
  match (d.slot i).chain with
  | some c => decide (2 ≤ d.ce.chainLive c)
  | none => false

/-- A CLAIM offered; if the queue takes it the cue enters CLAIMING (R143). -/
def Desk.offerClaim (i : Slot) (d : Desk) : Desk :=
  if d.cbi.hasRoom then
    (d.withCbi (Cbi.enqueue (.claim i) .cueEngine)).modSlot i
      (fun x => { x with st := .claiming, beaconField := none, claim := none })
  else d

/-- A cue whose start condition holds tries to claim, within the limits of R140. One held by both limits at once posts
REGION_FULL: DESIGN CHOICE (log 53), unsafe. -/
def Desk.tryClaim (fc : FieldCount) (i : Slot) (d : Desk) : Desk :=
  if 16 ≤ d.ce.liveCount then d.regionFull fc i
  else if d.chainFull i then d
  else d.offerClaim i

/-- An ARMED announced cue of a RUNNING chain, with its condition held, tries to claim (R140, R143). -/
def Desk.tryStart (fc : FieldCount) (i : Slot) (d : Desk) : Desk :=
  let x := d.slot i
  if x.st = .armed ∧ x.held = true ∧ x.cue.announce = true ∧ d.runsSlot i = true then d.tryClaim fc i else d

/-- The WITHDRAW of an ENDING cue offered; it may pass (R113, R146). -/
def Desk.offerWithdraw (i : Slot) (d : Desk) : Desk :=
  let x := d.slot i
  if x.st = .ending ∧ x.wdQueued = false ∧ d.cbi.hasRoom = true then
    (d.withCbi (Cbi.enqueueWithdraw i .cueEngine)).modSlot i (fun y => { y with wdQueued := true })
  else d

/-- A moment at which held cues and refused frames are tried again: withdraws first, then the waiting cues
of RUNNING chains in slot order (R140). -/
def Desk.retry (fc : FieldCount) (d : Desk) : Desk :=
  allSlots.foldl (fun x i => x.tryStart fc i) (allSlots.foldl (fun x i => x.offerWithdraw i) d)

/-- A cue of the station has stopped being live since `before`. -/
def Desk.releasedSince (d before : Desk) : Bool :=
  allSlots.any (fun i => (before.slot i).st.live && !(d.slot i).st.live)

/-- A cue that has stopped being live is such a moment (R140); without one nothing is tried. -/
def Desk.retryIfReleased (fc : FieldCount) (d before : Desk) : Desk :=
  if d.releasedSince before then d.retry fc else d

/-! ## Arming (R142) -/

/-- The start condition, tested at a moment that is not a trigger edge (R142). -/
def CueSlot.startHolds (fc : FieldCount) (x : CueSlot) : Bool :=
  match x.cue.start with
  | .immediate => true
  | .atField => atOrAfter fc x.cue.startField
  | .onTrigger => false
  | .afterPrevious => x.predEnded

/-- A LOADED slot as its chain arms it (R142). -/
def CueSlot.armedFor (c : ChainNo) (pred : Option Slot) (predEnded : Bool) (x : CueSlot) : CueSlot :=
  { CueSlot.idle .armed x.cue with chain := some c, pred := pred, predEnded := predEnded }

/-- The start condition of an ARMED cue tested, unless its chain is PAUSED (R141, R142). One that was armed while PAUSED
is tested at the next boundary after RESUME_CHAIN: DESIGN CHOICE (log 52), unsafe. -/
def Desk.testStart (fc : FieldCount) (i : Slot) (d : Desk) : Desk :=
  let x := d.slot i
  if x.st = .armed ∧ d.runsSlot i = true ∧ x.startHolds fc = true then
    d.modSlot i (fun y => { y with held := true })
  else d

/-- A chain arms a slot, and its start condition is tested at once (R142). The offer of its CLAIM comes in its turn
(R140, R145) when a cue has stopped being live, and otherwise at once (`tryArmed`). -/
def Desk.arm (fc : FieldCount) (c : ChainNo) (i : Slot) (pred : Option Slot) (predEnded : Bool) (d : Desk) : Desk :=
  ((d.modSlot i (CueSlot.armedFor c pred predEnded)).modChain c
    (fun x => { x with armed := some i, waiting := none })).testStart fc i

/-- The cue that a chain has just armed offers its CLAIM, if its start condition holds (R143). -/
def Desk.tryArmed (fc : FieldCount) (c : ChainNo) (d : Desk) : Desk :=
  match (d.chain c).armed with
  | some i => d.tryStart fc i
  | none => d

/-- The successor of a cue of chain `c`: armed, or waiting for its slot, or the chain is broken; a cue with
no next has none (R142). -/
def Desk.armSuccessor (fc : FieldCount) (c : ChainNo) (p : Slot) (next : Option Slot) (predEnded : Bool)
    (d : Desk) : Desk :=
  match next with
  | none => d.modChain c (fun x => { x with terminal := true })
  | some n =>
    match (d.slot n).st with
    | .loaded => d.arm fc c n (some p) predEnded
    | .free => d.modChain c (fun x => { x with broken := true })
    | _ => d.modChain c (fun x => { x with waiting := some ⟨n, p, predEnded⟩ })

/-- The succession of a live cue, once in its run (R142, R145). -/
def Desk.succeed (fc : FieldCount) (i : Slot) (predEnded : Bool) (d : Desk) : Desk :=
  let x := d.slot i
  match x.chain with
  | some c =>
    if x.succDone then d
    else (d.modSlot i (fun y => { y with succDone := true })).armSuccessor fc c i x.cue.next predEnded
  | none => d

/-- How a chain with no live cue ends, if it does (R142, R148). -/
def Chain.outcome (x : Chain) : Option ChainOutcome :=
  match x.st with
  | .idle => none
  | .aborting => some .aborted
  | .running => if x.broken then some .broken else if x.terminal then some .complete else none
  | .paused => if x.broken then some .broken else if x.terminal then some .complete else none

/-- A chain none of whose cues is live goes IDLE when it is over (R142, R148). -/
def Desk.checkChain (fc : FieldCount) (c : ChainNo) (d : Desk) : Desk :=
  match (d.chain c).outcome with
  | none => d
  | some o =>
    if d.ce.chainLive c = 0 then (d.modChain c (fun _ => Chain.idle)).post fc (.chainDone c o fc) else d

/-- Every chain is looked at (R142). -/
def Desk.checkChains (fc : FieldCount) (d : Desk) : Desk := allChains.foldl (fun x c => x.checkChain fc c) d

/-- A chain's waiting successor when its slot is LOADED again or FREE (R142). -/
def Desk.wakeChain (fc : FieldCount) (i : Slot) (d : Desk) (c : ChainNo) : Desk :=
  match (d.chain c).waiting with
  | some w =>
    if w.slot = i then
      match (d.slot i).st with
      | .loaded => d.arm fc c i (some w.pred) w.predEnded
      | .free => (d.modChain c (fun x => { x with waiting := none, broken := true })).checkChain fc c
      | _ => d
    else d
  | none => d

/-- The chains that wait on a slot, in the order of their numbers (R142): the lowest arms it, the others go on waiting.
DESIGN CHOICE (log 51), unsafe. -/
def Desk.wake (fc : FieldCount) (i : Slot) (d : Desk) : Desk := allChains.foldl (fun x c => x.wakeChain fc i c) d

/-! ## Endings (R146) -/

/-- The E of the transmitted claim; 0 where it does not apply (R143, R174). -/
def CueSlot.reportE (x : CueSlot) : FieldCount := (x.claim.map Claim.e).getD 0

/-- The CUE report of an event. -/
def Desk.cueReport (fc : FieldCount) (i : Slot) (ev : CueEvent) (d : Desk) : Desk :=
  d.post fc (.cue i (d.slot i).chain ev fc (d.slot i).reportE)

/-- The slot goes FREE at the tail of the free list (R139). -/
def Desk.freeSlot (i : Slot) (d : Desk) : Desk :=
  { d with ce := { d.ce.setSlot i CueSlot.freed with free := d.ce.free ++ [i] } }

/-- The slot goes back to LOADED, its run over. -/
def Desk.unloadRun (i : Slot) (d : Desk) : Desk := d.modSlot i (fun x => CueSlot.idle .loaded x.cue)

/-- ENDED (R146): the report, and the slot LOADED, or FREE with auto-free; chains that wait on it. -/
def Desk.ended (fc : FieldCount) (i : Slot) (d : Desk) : Desk :=
  let x := d.slot i
  let told := if x.cue.notifyEnd then d.cueReport fc i .ended else d
  (if x.cue.autoFree then told.freeSlot i else told.unloadRun i).wake fc i

/-- FAILED (R143): CUE(FAILED) is posted and the slot is LOADED. -/
def Desk.failed (fc : FieldCount) (i : Slot) (d : Desk) : Desk :=
  ((d.cueReport fc i .failed).unloadRun i).wake fc i

/-- A cue that waits on the predecessor `p` of its chain learns that it has ended (R142, R144). -/
def markPredEnded (c : ChainNo) (p : Slot) (x : CueSlot) : CueSlot :=
  if x.chain = some c ∧ x.pred = some p then { x with predEnded := true } else x

/-- A chain whose cue `i` has ended (R142, R146): it is on air and armed no more, and its waiting successor
learns of it. -/
def Chain.cueEnded (i : Slot) (x : Chain) : Chain :=
  { x with
    onAir := if x.onAir = some i then none else x.onAir
    armed := if x.armed = some i then none else x.armed
    waiting := x.waiting.map (fun w => if w.pred = i then { w with predEnded := true } else w) }

/-- The chain of a cue takes it as ended (R142, R146). -/
def Desk.endForChain (i : Slot) (d : Desk) : Desk :=
  match (d.slot i).chain with
  | some c =>
    { d with ce := { d.ce with slots := d.ce.slots.map (markPredEnded c i) } }.modChain c (Chain.cueEnded i)
  | none => d

/-- The successor of a cue that ended before it was ever on air is armed then, but in an ABORTING chain
(R147). -/
def Desk.succeedNow (fc : FieldCount) (i : Slot) (d : Desk) : Desk :=
  match (d.slot i).chain with
  | some c => if (d.chain c).st = .aborting then d else d.succeed fc i true
  | none => d

/-- The chain that runs a slot, looked at. -/
def Desk.checkChainOf (fc : FieldCount) (c : Option ChainNo) (d : Desk) : Desk :=
  match c with
  | some n => d.checkChain fc n
  | none => d

/-- A cue ends as ENDED away from a boundary, its chain going on (R147). -/
def Desk.endNow (fc : FieldCount) (i : Slot) (d : Desk) : Desk :=
  (((d.endForChain i).succeedNow fc i).ended fc i).checkChainOf fc (d.slot i).chain

/-- A cue fails; the chain treats it as ended (R143). -/
def Desk.failNow (fc : FieldCount) (i : Slot) (d : Desk) : Desk :=
  (((d.endForChain i).succeedNow fc i).failed fc i).checkChainOf fc (d.slot i).chain

/-- A cue in SCHEDULED or ON_AIR ends (R146): an announced one enters ENDING and offers its WITHDRAW, an
unannounced one is ENDED. The succession is the caller's. -/
def Desk.beginEnd (fc : FieldCount) (i : Slot) (d : Desk) : Desk :=
  let y := d.endForChain i
  if (d.slot i).cue.announce then (y.modSlot i (fun x => { x with st := .ending, wdQueued := false })).offerWithdraw i
  else y.ended fc i

/-! ## Outcomes of frames (R143, R146, R147, R150) -/

/-- A CLAIM was sent with these contents (R143, R147, R150). -/
def Desk.claimSent (fc : FieldCount) (i : Slot) (c : Claim) (d : Desk) : Desk :=
  let x := d.slot i
  if x.st ≠ .claiming then d
  else if x.dropAfter then (d.modSlot i (fun y => { y with claim := some c })).endNow fc i
  else if x.endAfter then
    ((((d.modSlot i (fun y => { y with st := .ending, claim := some c, wdQueued := false })).offerWithdraw
      i).endForChain i).succeedNow fc i).checkChainOf fc x.chain
  else d.modSlot i (fun y => { y with st := .scheduled, claim := some c })

/-- A CLAIM was abandoned (R143). -/
def Desk.claimAbandoned (fc : FieldCount) (i : Slot) (d : Desk) : Desk :=
  if (d.slot i).st = .claiming then d.failNow fc i else d

/-- A CLAIM was removed or discarded: the cue is ENDED (R147, R150). -/
def Desk.claimGone (fc : FieldCount) (i : Slot) (d : Desk) : Desk :=
  if (d.slot i).st = .claiming then d.endNow fc i else d

/-- A WITHDRAW was sent, abandoned or discarded: the cue is ENDED (R146). -/
def Desk.withdrawDone (fc : FieldCount) (i : Slot) (d : Desk) : Desk :=
  if (d.slot i).st = .ending then (d.ended fc i).checkChainOf fc (d.slot i).chain else d

/-- A frame of the Cue Engine was discarded (R114, R118). -/
def Desk.frameDiscarded (fc : FieldCount) (what : TxWhat) (d : Desk) : Desk :=
  match what with
  | .claim i => d.claimGone fc i
  | .withdraw i => d.withdrawDone fc i
  | .resend _ => d
  | .recall _ _ => d
  | .clear => d

/-- A beacon succeeded: the cues of its live set that have no beacon field take its FC (R111, R143). -/
def CueSlot.takeBeacon (b : Beacon) (i : Slot) (x : CueSlot) : CueSlot :=
  if IdSet.has b.live i = true ∧ x.inLiveSet = true ∧ x.beaconField = none then { x with beaconField := some b.fc } else x

/-- The Cue Engine told of its beacon (R143). -/
def Desk.beaconSent (b : Beacon) (d : Desk) : Desk :=
  allSlots.foldl (fun x i => x.modSlot i (CueSlot.takeBeacon b i)) d

/-! ## The field boundary (R145) -/

/-- A RUNNING chain takes the pending edge: its on-air cue has demand-end, or its armed cue starts
ON_TRIGGER (R149). The armed cue (R141) is kept through CLAIMING and SCHEDULED, until it is on air or ended: DESIGN CHOICE
(log 71), safe. -/
def Desk.takesEdge (d : Desk) (c : ChainNo) : Bool :=
  let x := d.chain c
  let demands := match x.onAir with
    | some i => (d.slot i).cue.demandEnd
    | none => false
  let starts := match x.armed with
    | some i => (d.slot i).cue.start == .onTrigger
    | none => false
  x.st == .running && (demands || starts)

/-- The chains that consume the pending edge at this boundary (R149). -/
def Desk.consumers (d : Desk) : List ChainNo :=
  if d.ce.trigger then allChains.filter d.takesEdge else []

/-- The armed ON_TRIGGER cue of a chain that consumes the edge: its start condition holds (R142, R149). -/
def Desk.triggerStart (d : Desk) (c : ChainNo) : Desk :=
  match (d.chain c).armed with
  | some i => if (d.slot i).cue.start = .onTrigger then d.modSlot i (fun x => { x with held := true }) else d
  | none => d

/-- Step 1 (R145, R149): the edge is consumed or discarded. -/
def Desk.stepTrigger (consumers : List ChainNo) (d : Desk) : Desk :=
  let y := consumers.foldl Desk.triggerStart d
  { y with ce := { y.ce with trigger := false } }

/-- Step 2 (R145): a count down. -/
def Desk.countDown (d : Desk) (i : Slot) : Desk :=
  let x := d.slot i
  if x.st = .onAir ∧ d.runsSlot i = true ∧ x.cue.duration ≠ 0 then
    d.modSlot i (fun y => { y with remaining := y.remaining - 1 })
  else d

/-- The chain of a slot is among these. -/
def CueSlot.chainIn (cs : List ChainNo) (x : CueSlot) : Bool :=
  match x.chain with
  | some c => cs.contains c
  | none => false

/-- A cue is due to end at this boundary (R145, step 3). -/
def Desk.dueToEnd (consumers : List ChainNo) (d : Desk) (i : Slot) : Bool :=
  let x := d.slot i
  (x.endOrdered && (x.st == .scheduled || x.st == .onAir)) ||
  (x.st == .onAir && d.runsSlot i &&
    ((x.cue.duration != 0 && x.remaining == 0) || (x.cue.demandEnd && x.chainIn consumers)))

/-- A cue that has ended at the boundary: what step 4 needs of it. -/
structure EndedCue where
  slot : Slot
  chain : Option ChainNo
  next : Option Slot
  succDone : Bool
deriving DecidableEq, Repr

/-- The cues due to end, in slot order (log 21). -/
def Desk.endings (consumers : List ChainNo) (d : Desk) : List EndedCue :=
  (allSlots.filter (d.dueToEnd consumers)).map
    (fun i => ⟨i, (d.slot i).chain, (d.slot i).cue.next, (d.slot i).succDone⟩)

/-- Step 3 for one cue. -/
def Desk.stepEnd (fc : FieldCount) (d : Desk) (e : EndedCue) : Desk :=
  (d.beginEnd fc e.slot).checkChainOf fc e.chain

/-- Step 4 for one cue (R145): in a RUNNING chain its successor is armed; in a PAUSED one that waits for the
chain to run again (log 20). A cue with no next has no successor in either (R142). -/
def Desk.stepSucceed (fc : FieldCount) (d : Desk) (e : EndedCue) : Desk :=
  match e.chain with
  | none => d
  | some c =>
    if e.succDone then d
    else
      let marked := if (d.slot e.slot).st = .ending then d.modSlot e.slot (fun x => { x with succDone := true }) else d
      match (d.chain c).st with
      | .running => (marked.armSuccessor fc c e.slot e.next true).checkChain fc c
      | .paused =>
        match e.next with
        | none => (marked.armSuccessor fc c e.slot none true).checkChain fc c
        | some n => marked.modChain c (fun x => { x with due := some ⟨e.slot, some n⟩ })
      | .idle => d
      | .aborting => d

/-- A cue meets R144 at this boundary: an announced cue by its E, its beacon and its predecessor; an
unannounced one if its condition had held before this boundary (log 32). -/
def Desk.mayGoOnAir (fc : FieldCount) (ripe : List Slot) (d : Desk) (i : Slot) : Bool :=
  let x := d.slot i
  let beaconOk := match x.beaconField with
    | some f => f != fc
    | none => false
  let claimOk := match x.claim with
    | some c => effectiveReached c.e fc
    | none => false
  d.runsSlot i && x.predEnded &&
    ((x.st == .scheduled && claimOk && beaconOk && !x.endOrdered) ||
     (x.st == .armed && !x.cue.announce && x.held && ripe.contains i))

/-- A cue goes on air (R144). -/
def Desk.goOnAir (fc : FieldCount) (i : Slot) (d : Desk) : Desk :=
  let x := d.slot i
  let y := d.modSlot i (fun z => { z with st := .onAir, remaining := z.cue.duration })
  let z := match x.chain with
    | some c => y.modChain c (fun w => { w with
        onAir := some i
        armed := if w.armed = some i then none else w.armed })
    | none => y
  if x.cue.notifyStart then z.cueReport fc i .onAir else z

/-- Step 6 for one cue (R144, R145), with the limits of R140 for an unannounced one; both at once
post REGION_FULL (log 53). It is held by a limit, and posts REGION_FULL, only here, at a boundary at which it could
otherwise go on air: DESIGN CHOICE (log 61), unsafe. -/
def Desk.stepOnAir (fc : FieldCount) (ripe : List Slot) (d : Desk) (i : Slot) : Desk :=
  if d.mayGoOnAir fc ripe i then
    if (d.slot i).st = .scheduled then d.goOnAir fc i
    else if 16 ≤ d.ce.liveCount then d.regionFull fc i
    else if d.chainFull i then d
    else d.goOnAir fc i
  else d

/-- Step 7 for one cue (R145): pre-roll. Step 5 is over, so an offer is made at once (08, section 8.9). -/
def Desk.stepPreroll (fc : FieldCount) (d : Desk) (i : Slot) : Desk :=
  let x := d.slot i
  if x.st = .onAir ∧ d.runsSlot i = true ∧ x.cue.duration ≠ 0 ∧ 1 ≤ x.remaining ∧ x.remaining ≤ 3 ∧
      x.succDone = false then
    match x.chain with
    | some c => (d.succeed fc i false).tryArmed fc c
    | none => d
  else d

/-- The ARMED cues whose start condition had held before this boundary. -/
def Desk.heldSlots (d : Desk) : List Slot := allSlots.filter (fun i => (d.slot i).st == .armed && (d.slot i).held)

/-- Steps 1 to 4 of the boundary work (R145). A cue that ends here offers its WITHDRAW as it ends, ahead of a WITHDRAW that
has waited for room and is offered again in step 5 (R140, R146): DESIGN CHOICE (log 66), unsafe. -/
def Desk.boundaryEndings (fc : FieldCount) (d : Desk) : Desk :=
  let consumers := d.consumers
  let counted := allSlots.foldl Desk.countDown (d.stepTrigger consumers)
  let due := counted.endings consumers
  due.foldl (Desk.stepSucceed fc) (due.foldl (Desk.stepEnd fc) counted)

/-- Steps 5 to 7 of the boundary work (R145). -/
def Desk.boundaryStarts (fc : FieldCount) (ripe : List Slot) (d : Desk) : Desk :=
  let tested := allSlots.foldl (fun x i => x.testStart fc i) d
  let onAir := allSlots.foldl (Desk.stepOnAir fc ripe) (tested.retry fc)
  allSlots.foldl (Desk.stepPreroll fc) onAir

/-- The Cue Engine's work at a field boundary (R145). -/
def Desk.ceBoundary (fc : FieldCount) (d : Desk) : Desk := (d.boundaryEndings fc).boundaryStarts fc d.heldSlots

/-! ## Requests (R138, R139, R141, R147, R148) -/

/-- A LOAD_CUE's record after the adjustments of R138. -/
def cueRecord (ppl : Nat) (r : LoadCue) : CueRec :=
  let top := min 319 r.top.toNat
  let left := min (ppl - 1) r.left.toNat
  { top := top
    height := min (max 1 r.height.toNat) (320 - top)
    left := left
    width := min (max 1 r.width.toNat) (ppl - left)
    layer := if h : r.layer.toNat < 16 then ⟨r.layer.toNat, h⟩ else 15
    kind := r.kind
    announce := r.announce
    base := r.cadBase
    mask := r.cadMask
    start := r.start
    startField := r.startField
    duration := r.duration.toNat
    next := r.next
    notifyStart := r.notifyStart
    notifyEnd := r.notifyEnd
    demandEnd := r.demandEnd
    autoFree := r.autoFree }

/-- A slot loaded: it leaves the free list, the others keeping their order (R139). -/
def Desk.loadSlot (i : Slot) (cue : CueRec) (d : Desk) : Desk :=
  { d with ce := { d.ce.setSlot i (CueSlot.idle .loaded cue) with free := d.ce.free.filter (· != i) } }

/-- LOAD_CUE (R138, R139). -/
def Desk.loadCue (fc : FieldCount) (ppl : Nat) (r : LoadCue) (d : Desk) : Desk :=
  match r.slot with
  | none =>
    match d.ce.free with
    | [] => d.refuse fc 0x04 .noSlot
    | i :: _ => (d.loadSlot i (cueRecord ppl r)).post fc (.slot i)
  | some i =>
    match (d.slot i).st with
    | .free => d.loadSlot i (cueRecord ppl r)
    | .loaded => d.loadSlot i (cueRecord ppl r)
    | .armed => d.refuse fc 0x04 .busy
    | _ => d.refuse fc 0x04 .live

/-- FREE_CUE (R139). -/
def Desk.freeCue (fc : FieldCount) (i : Slot) (d : Desk) : Desk :=
  match (d.slot i).st with
  | .loaded => d.freeSlot i
  | .free => d.refuse fc 0x05 .notLoaded
  | .armed => d.refuse fc 0x05 .busy
  | _ => d.refuse fc 0x05 .live

/-- START_CHAIN (R141). -/
def Desk.startChain (fc : FieldCount) (c : ChainNo) (head : Slot) (d : Desk) : Desk :=
  match (d.chain c).st with
  | .idle =>
    match (d.slot head).st with
    | .free => d.refuse fc 0x06 .notLoaded
    | .loaded => ((d.modChain c (fun x => { x with st := .running })).arm fc c head none true).tryArmed fc c
    | _ => d.refuse fc 0x06 .live
  | _ => d.refuse fc 0x06 .busy

/-- PAUSE_CHAIN (R141). -/
def Desk.pauseChain (fc : FieldCount) (c : ChainNo) (d : Desk) : Desk :=
  match (d.chain c).st with
  | .idle => d.refuse fc 0x07 .notRunning
  | .running => d.modChain c (fun x => { x with st := .paused })
  | .paused => d
  | .aborting => d.refuse fc 0x07 .busy

/-- The successor that waited for a paused chain to run again (log 20). -/
def Desk.armDue (fc : FieldCount) (c : ChainNo) (d : Desk) : Desk :=
  match (d.chain c).due with
  | some e =>
    (((d.modChain c (fun x => { x with due := none })).armSuccessor fc c e.pred e.next true).tryArmed fc c).checkChain
      fc c
  | none => d

/-- RESUME_CHAIN (R141). It tests no start condition (log 52) but that of a successor that it arms (log 20). -/
def Desk.resumeChain (fc : FieldCount) (c : ChainNo) (d : Desk) : Desk :=
  match (d.chain c).st with
  | .idle => d.refuse fc 0x08 .notRunning
  | .running => d
  | .paused => (d.modChain c (fun x => { x with st := .running })).armDue fc c
  | .aborting => d.refuse fc 0x08 .busy

/-- A CLAIMING cue marked to end after its frame's outcome, by an abort or by WITHDRAW_CUE (R147, R148). -/
def CueSlot.markEnd (abort : Bool) (x : CueSlot) : CueSlot :=
  { x with endAfter := true, withdrawn := x.withdrawn || !abort }

/-- A CLAIMING cue that is to end: a waiting frame is removed and the cue is ENDED; another is followed by a
withdraw (R115, R147, R148). An abort also asks for a contending frame to be removed if it loses. A FENCE that waited
for the frame posts FENCE_DONE before the cue's reports: DESIGN CHOICE (log 60), unsafe. -/
def Desk.endClaiming (fc : FieldCount) (abort : Bool) (i : Slot) (d : Desk) : Desk :=
  match d.cbi.claimEntry i with
  | some e =>
    if e.stage = .waiting then ((d.withCbi (Cbi.dropClaim i)).itemLeft fc e.marked).claimGone fc i
    else
      let y := d.modSlot i (CueSlot.markEnd abort)
      if abort then y.withCbi (Cbi.askRemoval i) else y
  | none => d.modSlot i (CueSlot.markEnd abort)

/-- WITHDRAW_CUE (R147), by the slot's own state also in an aborted chain (R148): a second one for the same cue changes
nothing. -/
def Desk.withdrawCue (fc : FieldCount) (i : Slot) (d : Desk) : Desk :=
  match (d.slot i).st with
  | .free => d.refuse fc 0x0A .notLoaded
  | .loaded => d.refuse fc 0x0A .notRunning
  | .armed => d.refuse fc 0x0A .notRunning
  | .scheduled => d.modSlot i (fun x => { x with endOrdered := true })
  | .onAir => d.modSlot i (fun x => { x with endOrdered := true })
  | .claiming => if (d.slot i).withdrawn then d else (d.endClaiming fc false i).retryIfReleased fc d
  | .ending => d

/-- A chain goes to ABORTING: it arms nothing more (R148). -/
def Chain.abort (x : Chain) : Chain := { x with st := .aborting, armed := none, waiting := none, due := none }

/-- An aborted cue by its state (R148, R151): `atOnce` for a CLEAR, where cues on air end at once. -/
def Desk.abortCue (fc : FieldCount) (atOnce : Bool) (d : Desk) (i : Slot) : Desk :=
  match (d.slot i).st with
  | .armed => ((d.unloadRun i).wake fc i).tryStart fc i
  | .scheduled => if atOnce then d.beginEnd fc i else d.modSlot i (fun x => { x with endOrdered := true })
  | .onAir => if atOnce then d.beginEnd fc i else d.modSlot i (fun x => { x with endOrdered := true })
  | .claiming => d.endClaiming fc true i
  | .ending => d
  | .loaded => d
  | .free => d

/-- A chain aborted with all its cues (R148, R151). -/
def Desk.abortWith (fc : FieldCount) (atOnce : Bool) (d : Desk) (c : ChainNo) : Desk :=
  if (d.chain c).st = .idle then d
  else
    let y := d.modChain c Chain.abort
    ((allSlots.filter (y.inChain c)).foldl (Desk.abortCue fc atOnce) y).checkChain fc c

/-- ABORT_CHAIN (R141, R148). -/
def Desk.abortChain (fc : FieldCount) (c : ChainNo) (d : Desk) : Desk :=
  match (d.chain c).st with
  | .idle => d.refuse fc 0x09 .notRunning
  | .aborting => d.refuse fc 0x09 .busy
  | _ => (d.abortWith fc false c).retryIfReleased fc d

/-! ## Stopping everything (R150, R151) -/

/-- A cue under CLEAR_ALL or muting, by its state (R150). -/
def Desk.stopCue (fc : FieldCount) (d : Desk) (i : Slot) : Desk :=
  match (d.slot i).st with
  | .armed => d.unloadRun i
  | .scheduled => (d.endForChain i).ended fc i
  | .onAir => (d.endForChain i).ended fc i
  | .claiming => d.modSlot i (fun x => { x with dropAfter := true })
  | .ending => if (d.slot i).wdQueued then d else d.ended fc i
  | .loaded => d
  | .free => d

/-- Every chain not IDLE goes to ABORTING (R150). -/
def Desk.abortChains (d : Desk) : Desk :=
  allChains.foldl (fun x c => if (x.chain c).st = .idle then x else x.modChain c Chain.abort) d

/-- An honoured CLEAR aborts every chain not IDLE, its cues ending at once (R151), each with its own WITHDRAW ahead of one
that has waited for room: DESIGN CHOICE (log 66), unsafe. -/
def Desk.abortAllAtOnce (fc : FieldCount) (d : Desk) : Desk :=
  (allChains.foldl (Desk.abortWith fc true) d.abortChains).retryIfReleased fc d

/-- Every cue stopped by its state (R150). -/
def Desk.stopCues (fc : FieldCount) (d : Desk) : Desk := allSlots.foldl (Desk.stopCue fc) d.abortChains

/-- The owners of discarded frames, and the FENCE, are told (R114, R118, R181), in the order of the queue: DESIGN CHOICE
(log 49), unsafe; for each frame the FENCE first: DESIGN CHOICE (log 60), unsafe. -/
def Desk.tellDiscards (fc : FieldCount) (es : List TxEntry) (d : Desk) : Desk :=
  es.foldl (fun x e =>
    let y := x.itemLeft fc e.marked
    if e.owner = .cueEngine ∧ e.silent = false then y.frameDiscarded fc e.what else y) d

/-- KEY goes low and the delay line is emptied (R168, R169, R171). -/
def Ky.silence (k : Ky) : Ky := { k with key := false, delay := k.delay.map (fun _ => false) }

/-- The Keyer keys nothing from this moment (R150, R168). A stop that already acts, its delay line draining, is made
immediate too: DESIGN CHOICE (log 63), unsafe. -/
def Desk.stopKeyerNow (d : Desk) : Desk := { d with ky := { d.ky.silence with stop := .acting } }

/-- The Keyer keys nothing from the next line (R134, R151, R168); a stop already acting stays so (log 22). -/
def Desk.stopKeyerNextLine (d : Desk) : Desk :=
  { d with ky := { d.ky with stop := if d.ky.stop = .acting then .acting else .nextLine } }

/-- CLEAR_ALL (R150). The CHAIN_DONE of a chain that no discarded frame ends comes after every CUE(ENDED), in the order of
the chains: DESIGN CHOICE (log 67), unsafe. -/
def Desk.clearAll (fc : FieldCount) (d : Desk) : Desk :=
  let y := (d.stopCues fc).stopKeyerNow
  (((y.withCbi Cbi.enqueueClear).tellDiscards fc y.cbi.waitingEntries).checkChains fc).retryIfReleased fc d

/-- Muting (R118, R151): as CLEAR_ALL, the order of its reports too (log 67), with the queue emptied and no CLEAR
offered. -/
def Desk.muteCues (fc : FieldCount) (d : Desk) : Desk :=
  let y := (d.stopCues fc).stopKeyerNow
  (((y.withCbi (fun c => { c with txq := [], passLock := false })).tellDiscards fc y.cbi.txq).checkChains fc).retryIfReleased fc d

/-- REINIT's reset of the Cue Engine (R153). -/
def Desk.resetCues (d : Desk) : Desk := { d with ce := { Ce.reset with lostTriggers := d.ce.lostTriggers } }

/-- A falling edge on TRIG (R149). -/
def Ce.triggerEdge (ce : Ce) : Ce :=
  if ce.trigger then { ce with lostTriggers := satInc 255 ce.lostTriggers } else { ce with trigger := true }

end Sys2Proof.Machine
end

