-- ==== Sys2Proof/Machine/Peer.lean ====
section
/-! DEFINITION. The Peer Table: records, the claim store, reconciliation, recalls, blanket ranks and CLEAR
(07_peers_and_their_claims.md). -/

namespace Sys2Proof.Machine

/-! ## The claim store (R125, R126) -/

/-- An entry is the one of this station and id. -/
def StoreEntry.isOf (n : Station) (i : Slot) (e : StoreEntry) : Bool := e.station == n && e.claim.id == i

/-- A claim of this station and id is stored. -/
def Pt.stores (pt : Pt) (n : Station) (i : Slot) : Bool := pt.store.any (StoreEntry.isOf n i)

/-- The stored entries of a station. -/
def Pt.entriesOf (pt : Pt) (n : Station) : List StoreEntry := pt.store.filter (fun e => e.station == n)

/-- The store without a station's entries. -/
def Pt.removeStation (n : Station) (pt : Pt) : Pt := { pt with store := pt.store.filter (fun e => e.station != n) }

/-- The store without one entry. -/
def Pt.removeEntry (n : Station) (i : Slot) (pt : Pt) : Pt :=
  { pt with store := pt.store.filter (fun e => !e.isOf n i) }

/-- A peer record changed. -/
def Pt.modPeer (n : Station) (f : Peer → Peer) (pt : Pt) : Pt := pt.setPeer n (f (pt.peer n))

/-- An id put into a station's dropped set. -/
def Pt.drop (n : Station) (i : Slot) (pt : Pt) : Pt :=
  pt.modPeer n (fun p => { p with dropped := IdSet.insert p.dropped i })

/-- An id taken out of a station's dropped set. -/
def Pt.undrop (n : Station) (i : Slot) (pt : Pt) : Pt :=
  pt.modPeer n (fun p => { p with dropped := IdSet.erase p.dropped i })

/-- The rank of entries (R126): layer higher first, station lower first, id lower first. -/
def StoreEntry.ranksAbove (a b : StoreEntry) : Bool :=
  decide (b.claim.layer.val < a.claim.layer.val) ||
  (a.claim.layer == b.claim.layer &&
    (decide (a.station.val < b.station.val) || (a.station == b.station && decide (a.claim.id.val < b.claim.id.val))))

/-- The lowest-ranked of entries (R126). -/
def lowestEntry : List StoreEntry → Option StoreEntry
  | [] => none
  | e :: rest =>
    match lowestEntry rest with
    | none => some e
    | some m => if m.ranksAbove e then some e else some m

/-- The key by which the model keeps the store in order; the manual's store keeps none (R125). -/
def StoreEntry.order (e : StoreEntry) : Nat := e.station.val * 32 + e.claim.id.val

/-- An entry put in its place; one with the same key is replaced (R125). -/
def insertEntry (x : StoreEntry) : List StoreEntry → List StoreEntry
  | [] => [x]
  | e :: rest =>
    if x.order < e.order then x :: e :: rest
    else if x.order = e.order then x :: rest
    else e :: insertEntry x rest

/-- The mark of R155 that a claim has when it is stored: kept from an entry it replaces with the same E. -/
def Pt.markFor (pt : Pt) (n : Station) (c : Claim) : Bool :=
  pt.store.any (fun e => e.isOf n c.id && e.applied && e.claim.e == c.e)

/-- A claim stored; its id leaves the sender's dropped set (R125). -/
def Pt.storeClaim (n : Station) (c : Claim) (pt : Pt) : Pt :=
  { pt with store := insertEntry ⟨n, c, pt.markFor n c⟩ pt.store }.undrop n c.id

/-- A claim is well formed (R125). -/
def Claim.formed (c : Claim) : Bool :=
  decide (c.top ≤ 319) && decide (c.bottom ≤ 319) && decide (c.top ≤ c.bottom) && decide (c.left < c.right)

/-- A claim that finds the store full (R126): it evicts the lowest-ranked entry, or is refused. -/
def Pt.contend (n : Station) (c : Claim) (pt : Pt) : Pt :=
  match lowestEntry pt.store with
  | none => pt.storeClaim n c
  | some low =>
    if (⟨n, c, false⟩ : StoreEntry).ranksAbove low then
      ((pt.removeEntry low.station low.claim.id).drop low.station low.claim.id).storeClaim n c
    else pt.drop n c.id

/-- A well-formed claim placed (R125). -/
def Pt.placeClaim (n : Station) (c : Claim) (pt : Pt) : Pt :=
  if pt.stores n c.id then pt.storeClaim n c
  else if pt.store.length < 64 then pt.storeClaim n c
  else pt.contend n c

/-- The live set of a station's last beacon; empty while there is none (R122). -/
def Peer.live (p : Peer) : IdSet := (p.last.map Beacon.live).getD 0

/-- A CLAIM handed to the table (R125). -/
def Pt.takeClaim (n : Station) (c : Claim) (resend : Bool) (pt : Pt) : Pt :=
  if !c.formed then (pt.removeEntry n c.id).drop n c.id
  else if resend && !IdSet.has (pt.peer n).live c.id then pt
  else pt.placeClaim n c

/-- A WITHDRAW handed to the table (R127). -/
def Pt.takeWithdraw (n : Station) (i : Slot) (pt : Pt) : Pt :=
  (pt.removeEntry n i).modPeer n (fun p => { p with
    dropped := IdSet.erase p.dropped i
    last := p.last.map (fun b => { b with live := IdSet.erase b.live i }) })

/-! ## Beacons (R123, R128, R129) -/

/-- Presence after a good beacon (R123). -/
def presenceAfter (p : Presence) (seen : Bool) : Presence :=
  match p with
  | .absent => .joining
  | .joining => if seen then .joining else .present
  | .present => .present
  | .silent => .present

/-- The PEER report of a change of presence, if there is one (R123). -/
def Desk.peerReport (fc : FieldCount) (n : Station) (before : Presence) (d : Desk) : Desk :=
  let p := d.pt.peer n
  if p.presence = before then d
  else d.post fc (.peer n before p.presence p.missed (d.pt.entriesOf n).length fc)

/-- The claim half with its Peer Table replaced. -/
def Desk.withPt (f : Pt → Pt) (d : Desk) : Desk := { d with pt := f d.pt }

/-- Presence, missed count and beacon-seen flag at a good beacon (R123). -/
def Peer.hear (p : Peer) : Peer := { p with presence := presenceAfter p.presence p.seen, missed := 0, seen := true }

/-- Steps 1 and 2 of reconciliation (R128). -/
def Pt.reconcile (n : Station) (live : IdSet) (pt : Pt) : Pt :=
  { pt with store := pt.store.filter (fun e => e.station != n || IdSet.has live e.claim.id) }.modPeer n
    (fun p => { p with dropped := p.dropped &&& live })

/-- An id of a station's live set is missing (R128). -/
def Pt.missing (pt : Pt) (n : Station) (i : Slot) : Bool :=
  IdSet.has (pt.peer n).live i && !pt.stores n i && !IdSet.has (pt.peer n).dropped i

/-- A RECALL may be offered for a missing id (R129). -/
def Desk.mayRecall (d : Desk) (n : Station) (i : Slot) : Bool :=
  d.pt.missing n i && d.hp.configured && !d.cbi.muted && !IdSet.has (d.pt.peer n).recalled i &&
    decide (d.pt.recalls < 4) && d.cbi.hasRoom

/-- A RECALL offered for an id if R129 allows. -/
def Desk.offerRecall (n : Station) (d : Desk) (i : Slot) : Desk :=
  if d.mayRecall n i then
    (d.withCbi (Cbi.enqueue (.recall n i) .peerTable)).withPt (fun pt =>
      { pt.modPeer n (fun p => { p with recalled := IdSet.insert p.recalled i }) with recalls := pt.recalls + 1 })
  else d

/-- A good BEACON at the Peer Table (R123, R128, R129). The Field Tracker's part is the caller's. -/
def Desk.takeBeacon (fc : FieldCount) (n : Station) (b : Beacon) (d : Desk) : Desk :=
  let heard := (d.withPt (Pt.modPeer n Peer.hear)).peerReport fc n (d.pt.peer n).presence
  let known := heard.withPt (fun pt => (pt.modPeer n (fun p => { p with last := some b })).reconcile n b.live)
  allSlots.foldl (Desk.offerRecall n) known

/-! ## Recalls aimed at this station (R130) -/

/-- A CLAIM or WITHDRAW concerning the id is queued and not in flight (R130). -/
def Cbi.answersAlready (i : Slot) (c : Cbi) : Bool :=
  c.txq.any (fun e => e.what.concerns i && e.stage != .inFlight)

/-- A RECALL (R130). -/
def Desk.takeRecall (stn target : Station) (i : Slot) (d : Desk) : Desk :=
  if target ≠ stn ∨ d.hp.configured = false ∨ d.cbi.muted = true ∨ d.cbi.answersAlready i = true then d
  else if (d.slot i).inLiveSet then d.withCbi (Cbi.offer (.resend i) .peerTable)
  else d.withCbi (Cbi.offer (.withdraw i) .peerTable)

/-! ## CLEAR (R134) -/

/-- A sender's entry in the clear-acceptance set (R134). -/
def Pt.accepts (pt : Pt) (n : Station) : Bool := pt.accept.getLsbD n.val

/-- An honoured CLEAR in the table (R134). -/
def Pt.forget (n : Station) (pt : Pt) : Pt :=
  (pt.removeStation n).modPeer n (fun p => { p with
    dropped := 0
    last := p.last.map (fun b => { b with live := 0, top := none }) })

/-- A CLEAR (R134, R151, R168). The Cue Engine's CUE and CHAIN_DONE are posted before CLEAR_SEEN: DESIGN CHOICE (log 50),
unsafe. -/
def Desk.takeClear (fc : FieldCount) (n : Station) (d : Desk) : Desk :=
  if d.pt.accepts n then
    (((d.abortAllAtOnce fc).stopKeyerNextLine).withPt (Pt.forget n)).post fc (.clearSeen n true fc)
  else d.post fc (.clearSeen n false fc)

/-! ## The field boundary (R124, R132, R133, R135) -/

/-- A record emptied (R124). -/
def Peer.empty (p : Peer) : Peer := { p with dropped := 0, last := none }

/-- Presence and missed count of a record that ages (R124). -/
def Peer.age (p : Peer) : Peer :=
  match p.presence with
  | .absent => p
  | .joining => { p.empty with presence := .absent, missed := 1 }
  | .present => { p with presence := .silent, missed := 1 }
  | .silent =>
    if satInc 8 p.missed ≥ 8 then { p.empty with presence := .absent, missed := 8 }
    else { p with missed := satInc 8 p.missed }

/-- One record at a field boundary, with its PEER report (R124; log 19 for its place). -/
def Desk.agePeer (fc : FieldCount) (stn : Station) (d : Desk) (n : Station) : Desk :=
  if n = stn ∨ (d.pt.peer n).seen = true then d
  else
    let aged := d.withPt (Pt.modPeer n Peer.age)
    let swept := if (aged.pt.peer n).presence = .absent then aged.withPt (Pt.removeStation n) else aged
    swept.peerReport fc n (d.pt.peer n).presence

/-- The highest layer among entries. -/
def topOf (es : List StoreEntry) : Option Layer := es.foldl (fun m e => higherLayer m (some e.claim.layer)) none

/-- A peer's known layer (R122). -/
def Pt.knownLayer (pt : Pt) (n : Station) : Option Layer :=
  higherLayer ((pt.peer n).last.bind Beacon.top) (topOf (pt.entriesOf n))

/-- Some live id of the peer is missing or dropped (R132). -/
def Pt.unsure (pt : Pt) (n : Station) : Bool :=
  allSlots.any (fun i => pt.missing n i || (IdSet.has (pt.peer n).live i && IdSet.has (pt.peer n).dropped i))

/-- The layer of a peer's blanket rank, if it has one (R132; log 18 for a PRESENT peer with none known). -/
def Pt.blanketLayer (pt : Pt) (n : Station) : Option Layer :=
  match (pt.peer n).presence with
  | .absent => none
  | .joining => pt.knownLayer n
  | .silent => some ((pt.knownLayer n).getD 15)
  | .present =>
    if pt.unsure n then
      match pt.knownLayer n with
      | some l => some l
      | none => Config.presentUnknownBlanket n
    else none

/-- The blanket ranks of the coming field (R132). -/
def Pt.formBlankets (stn : Station) (pt : Pt) : List Blanket :=
  (allStations.filter (· != stn)).filterMap (fun n => (pt.blanketLayer n).map (fun l => ⟨l, n⟩))

/-- The flags and counts of the field cleared, and join quiet stepped (R124, R129, R133, R135). -/
def Pt.newField (stn : Station) (pt : Pt) : Pt :=
  { pt with
    blankets := pt.formBlankets stn
    peers := pt.peers.map (fun p => { p with seen := false, recalled := 0 })
    recalls := 0
    joinQuiet := pt.joinQuiet - 1 }

/-- The Peer Table's work at a field boundary (R133). The records age, and post PEER, in the order of their station
numbers: DESIGN CHOICE (log 43), unsafe. -/
def Desk.ptBoundary (fc : FieldCount) (stn : Station) (d : Desk) : Desk :=
  (allStations.foldl (Desk.agePeer fc stn) d).withPt (Pt.newField stn)

end Sys2Proof.Machine
end

