-- ==== Sys2Proof/Machine/Span.lean ====
section
/-! DEFINITION. The Span Builder: the snapshot, outranking, the conversions and one line's list
(09_occlusion_and_key_spans.md). -/

namespace Sys2Proof.Machine

/-! ## The snapshot (R154, R155) -/

/-- A stored claim is applicable in the field (R155). -/
def StoreEntry.applicable (fc : FieldCount) (e : StoreEntry) : Bool :=
  cadenceMatches fc e.claim.base e.claim.mask && (e.applied || effectiveReached e.claim.e fc)

/-- An entry after a snapshot: one that was applicable keeps the mark (R155). -/
def StoreEntry.afterSnapshot (fc : FieldCount) (e : StoreEntry) : StoreEntry :=
  { e with applied := e.applied || e.applicable fc }

/-- The own region of a cue in ON_AIR whose cadence matches FC (R154, R155). -/
def CueSlot.region (fc : FieldCount) (i : Slot) (x : CueSlot) : Option OwnRegion :=
  if x.st = .onAir ∧ cadenceMatches fc x.cue.base x.cue.mask = true then
    some {
      slot := i
      top := x.cue.top
      bottom := x.cue.top + x.cue.height - 1
      left := x.cue.left
      width := x.cue.width
      layer := x.cue.layer
      kind := x.cue.kind
      clip := if x.cue.announce then x.claim.map (fun c => (c.left, c.right)) else none }
  else none

/-- The own regions of a snapshot (R154). -/
def Ce.regions (fc : FieldCount) (ce : Ce) : List OwnRegion :=
  allSlots.filterMap (fun i => (ce.slot i).region fc i)

/-- The snapshot at a field boundary (R154). -/
def Desk.snapshot (fc : FieldCount) (d : Desk) : Desk :=
  { d with
    sb := { d.sb with
      occluders := d.pt.store.filter (fun e => e.applicable fc)
      blankets := d.pt.blankets
      own := d.ce.regions fc }
    pt := { d.pt with store := d.pt.store.map (StoreEntry.afterSnapshot fc) } }

/-! ## Outranking (R156) -/

/-- A layer and station outrank an own region of station `stn` (R156). An unannounced region, one without a
transmitted claim, is outranked by everything. -/
def outranks (stn : Station) (layer : Layer) (station : Station) (r : OwnRegion) : Bool :=
  r.clip.isNone || decide (r.layer.val < layer.val) || (layer == r.layer && decide (station.val < stn.val))

/-! ## Conversions (R157 to R160) -/

/-- The values of a line that the conversions use (R157): D in fine units, H_off in ticks. -/
structure LineVals where
  F : Int
  D : Int
  hoff : Int
  ppl : Nat
deriving DecidableEq, Repr

/-- The place of a bus unit on the pixel grid, times F (R157). -/
def LineVals.place (v : LineVals) (u : Nat) : Int := (((u : Int) * 32 - v.hoff) * 256 - v.D) * v.ppl

/-- An interval of own pixels, both ends included. -/
abbrev Ivl := Int × Int

/-- An interval cut to another; the result may be empty. -/
def cutTo (lo hi : Int) (i : Ivl) : Ivl := (max lo i.1, min hi i.2)

/-- An interval holds a pixel. -/
def Ivl.nonempty (i : Ivl) : Bool := decide (i.1 ≤ i.2)

/-- The occluded range of a claim, rounded outward (R158). -/
def LineVals.occluded (v : LineVals) (left right : Nat) : Ivl :=
  cutTo 0 (v.ppl - 1) (v.place left / v.F, ceilDiv (v.place right) v.F - 1)

/-- The clip range of an own claim, rounded inward (R160). -/
def LineVals.clipRange (v : LineVals) (left right : Nat) : Ivl :=
  cutTo 0 (v.ppl - 1) (ceilDiv (v.place left) v.F, v.place right / v.F - 1)

/-- The extent of an own claim, formed at an attempt's first fall (R159). -/
def ownExtent (F hoff : Int) (ppl left width : Nat) : Nat × Nat :=
  let origin := hoff * 256 * ppl
  (((origin + left * F) / (8192 * ppl) - 8 |> clampInt 0 1023).toNat,
   ((ceilDiv (origin + ((left : Int) + width) * F) (8192 * ppl)) + 8 |> clampInt 1 1024).toNat)

/-! ## One line's list (R161 to R164) -/

/-- What is left of an interval without another. -/
def without (o i : Ivl) : List Ivl :=
  if i.2 < o.1 ∨ o.2 < i.1 then [i]
  else (if i.1 < o.1 then [(i.1, o.1 - 1)] else []) ++ (if o.2 < i.2 then [(o.2 + 1, i.2)] else [])

/-- What is left of intervals without another, which may be empty. -/
def subtract (is : List Ivl) (o : Ivl) : List Ivl :=
  if Ivl.nonempty o then is.flatMap (without o) else is

/-- The field line lies in top..bottom. -/
def coversLine (line top bottom : Nat) : Bool := decide (top ≤ line) && decide (line ≤ bottom)

/-- The ranges that occlude a region on a line (R156, R158, R161). -/
def Sb.rangesOver (stn : Station) (v : LineVals) (line : Nat) (r : OwnRegion) (x : Sb) : List Ivl :=
  (x.occluders.filter (fun o => coversLine line o.claim.top o.claim.bottom && outranks stn o.claim.layer o.station r)).map
      (fun o => v.occluded o.claim.left o.claim.right) ++
  (x.blankets.filter (fun b => outranks stn b.layer b.station r)).map (fun _ => ((0 : Int), (v.ppl : Int) - 1))

/-- The clip of a region on a line: its own claim, or the whole line for an unannounced one (R160, R161). -/
def OwnRegion.clipOn (v : LineVals) (r : OwnRegion) : Ivl :=
  match r.clip with
  | some (left, right) => v.clipRange left right
  | none => (0, (v.ppl : Int) - 1)

/-- The pieces of a region on a line (R161): start, subtract, clip. -/
def Sb.pieces (stn : Station) (v : LineVals) (line : Nat) (x : Sb) (r : OwnRegion) : List Ivl :=
  if coversLine line r.top r.bottom then
    let start : Ivl := cutTo 0 (v.ppl - 1) ((r.left : Int), (r.left : Int) + r.width - 1)
    let kept := (x.rangesOver stn v line r).foldl subtract ([start].filter Ivl.nonempty)
    let clip := r.clipOn v
    (kept.map (cutTo clip.1 clip.2)).filter Ivl.nonempty
  else []

/-- An interval joined to sorted intervals with gaps between them (R162). -/
def joinIvl : Ivl → List Ivl → List Ivl
  | i, [] => [i]
  | i, c :: rest =>
    if i.2 + 1 < c.1 then i :: c :: rest
    else if c.2 + 1 < i.1 then c :: joinIvl i rest
    else joinIvl (min i.1 c.1, max i.2 c.2) rest

/-- The maximal runs of a union of intervals, in order (R162). -/
def unionRuns (is : List Ivl) : List Ivl := is.foldl (fun acc i => joinIvl i acc) []

/-- A span put in its place by left edge. -/
def insertSpan : Span → List Span → List Span
  | s, [] => [s]
  | s, t :: rest => if s.left ≤ t.left then s :: t :: rest else t :: insertSpan s rest

/-- The pieces of the own regions of one kind (R161). -/
def Sb.kindPieces (stn : Station) (v : LineVals) (line : Nat) (k : CueKind) (x : Sb) : List Ivl :=
  (x.own.filter (fun r => r.kind == k)).flatMap (x.pieces stn v line)

/-- The spans of a line before the limit of 16 (R161, R162). -/
def Sb.spans (stn : Station) (v : LineVals) (line : Nat) (x : Sb) : List Span :=
  let fills := unionRuns (x.kindPieces stn v line .fill)
  let cutouts := fills.foldl subtract (unionRuns (x.kindPieces stn v line .cutout))
  (fills.map (fun i => (⟨i.1, i.2, .fill⟩ : Span))).foldr insertSpan
    (cutouts.map (fun i => (⟨i.1, i.2, .cutout⟩ : Span)))

/-- A line beyond the quarter-line rule (R164, R167): |D| over 8192 ticks. -/
def tooFar (D : Int) : Bool := decide (2097152 < D.natAbs)

/-- The list of a line, with what is handed over with it (R157, R161 to R164). -/
def Sb.lineSpans (stn : Station) (v : LineVals) (line : Nat) (keyable : Bool) (x : Sb) : List Span :=
  if keyable && !tooFar v.D then x.spans stn v line else []

/-- The list of the next delivered line is built and handed to the line's start (R157, R163, R164). -/
def Sb.build (stn : Station) (v : LineVals) (line : Nat) (keyable slip : Bool) (parity : Parity) (x : Sb) : Sb :=
  let all := x.lineSpans stn v line keyable
  { x with
    ready := x.ready ++ [⟨all.take 16, line, v.D, v.ppl, slip, parity, keyable⟩]
    overflow := if 16 < all.length then satInc 255 x.overflow else x.overflow }

/-- The empty list of an inserted delivered line (R86). The line number, D and PPL with it, on a line paired with no
reference line, are those of the next paired line, and it is not keyable: DESIGN CHOICE (log 62), unsafe. -/
def Sb.buildInserted (v : LineVals) (line : Nat) (slip : Bool) (parity : Parity) (x : Sb) : Sb :=
  { x with ready := x.ready ++ [⟨[], line, v.D, v.ppl, slip, parity, false⟩] }

/-- REINIT empties the own regions of the snapshot (R166). A list built before and not yet handed to the Keyer keeps its
spans: DESIGN CHOICE (log 55), unsafe. -/
def Sb.reinit (x : Sb) : Sb := { x with own := [] }

end Sys2Proof.Machine
end

