-- ==== Sys2Proof/Machine/Cbi.lean ====
section
/-! DEFINITION. The Claim Bus Interface: the states of the line, attempts and their outcomes, the beacon,
faults and muting (06_the_claim_bus.md). -/

namespace Sys2Proof.Machine

/-- What the bus interface reads from the time half and the straps when an attempt begins (R104, R111, R143,
R159). `ppl` is the configured PPL. -/
structure BusView where
  stn : Station
  st : RefSt
  fs : FieldSt
  parity : Parity
  fc : FieldCount
  F : Int
  hoff : Int
  ppl : Nat
deriving DecidableEq, Repr

/-! ## What is sent -/

/-- The contents of an own CLAIM (R143, R159): E is FC + 2. -/
def CueSlot.claimOf (v : BusView) (i : Slot) (x : CueSlot) : Claim :=
  let extent := ownExtent v.F v.hoff v.ppl x.cue.left x.cue.width
  { id := i
    layer := x.cue.layer
    top := x.cue.top
    bottom := x.cue.top + x.cue.height - 1
    left := extent.1
    right := extent.2
    e := v.fc + 2
    base := x.cue.base
    mask := x.cue.mask }

/-- The contents of a beacon (R104, R111). -/
def Desk.beaconOf (v : BusView) (d : Desk) : Beacon where
  st := v.st
  fieldLocked := v.fs == .locked
  parity := v.parity
  top := d.ce.topLayer
  fc := v.fc
  live := d.ce.liveSet

/-- The contents of an attempt, taken at its first fall (R104, R130, R143). -/
def Desk.contentsOf (v : BusView) (what : TxWhat) (d : Desk) : FrameContents :=
  match what with
  | .claim i => .claim ((d.slot i).claimOf v i) false
  | .resend i => .claim ((d.slot i).claim.getD ((d.slot i).claimOf v i)) true
  | .withdraw i => .withdraw i
  | .recall target i => .recall target i
  | .clear => .clear

/-- The frame chosen to contend (R112, R121): none stands for the beacon inside `some`. -/
def Desk.chosen (d : Desk) : Option (Option TxWhat) :=
  if d.cbi.muted ∨ d.cbi.line = .fault then none
  else if d.cbi.clearAtHead then some (some .clear)
  else if d.hp.configured = false then none
  else if d.cbi.beaconDue then some none
  else d.cbi.txq.head?.map (fun e => some e.what)

/-- Beacons and CLEARs always go at first rank (R109). -/
def TxWhat.alwaysFirst (w : Option TxWhat) : Bool := w == none || w == some .clear

/-- The attempt of the chosen frame (R104, R109, R110). -/
def Desk.attemptOf (v : BusView) (w : Option TxWhat) (d : Desk) : Attempt :=
  let first := TxWhat.alwaysFirst w || decide (0 < d.cbi.allowance)
  { firstRank := first
    continuing := !first && decide (0 < d.cbi.burst)
    contents := match w with
      | none => .beacon (d.beaconOf v)
      | some what => d.contentsOf v what }

/-- The first entry of the queue contends. -/
def contendHead : List TxEntry → List TxEntry
  | [] => []
  | e :: rest => { e with stage := .contending } :: rest

/-- In IDLE a station that has a frame ready and may send begins it at once by pulling the line low (R102): for as long
as that holds, and no longer (log 31). -/
def Desk.pulls (d : Desk) : Bool := d.cbi.line == .idle && d.chosen.isSome

/-- CLB pulled low by this station: in a cell, or for the first fall of a frame (R101, R102). -/
def State.clbPulled (s : State) : Bool := decide (0 < s.desk.cbi.wire.drive) || s.desk.pulls

/-- CONTENDING with an attempt begun (R102, R110). -/
def Desk.contend (v : BusView) (w : Option TxWhat) (d : Desk) : Desk :=
  let a := d.attemptOf v w
  d.withCbi (fun c => { c with
    line := .contending
    attempt := some a
    objected := false
    txq := if w.isSome then contendHead c.txq else c.txq
    burst := if a.firstRank then 0 else c.burst })

/-- CONTENDING, or RECEIVING with no frame ready or none permitted (R102). -/
def Desk.joinContest (v : BusView) (d : Desk) : Desk :=
  match d.chosen with
  | some w => d.contend v w
  | none => d.withCbi (fun c => { c with line := .receiving, attempt := none, objected := false })

/-- The first fall of a frame seen in IDLE: the station changes state with its first cell begun (R101, R102). -/
def Desk.firstFall (v : BusView) (d : Desk) : Desk :=
  if d.cbi.line = .idle then
    ((d.withCbi (fun c => { c with wire := c.wire.startFrame })).joinContest v).withCbi (Cbi.joinCell v.stn)
  else d

/-- The bus is idle: IDLE, in which no cell is left to hold, and a burst with an empty queue is ended (R102, R110,
R117). -/
def Cbi.enterIdle (c : Cbi) : Cbi :=
  { c with line := .idle, burst := if c.txq.isEmpty then 0 else c.burst, wire := c.wire.release }

/-- The bus becomes idle in WAIT (R102, R110): a ready frame is begun (`Desk.pulls`). -/
def Desk.becomeIdle (d : Desk) : Desk := if d.cbi.line = .wait then d.withCbi Cbi.enterIdle else d

/-! ## The entry of the attempt -/

/-- The entry contending or in flight. -/
def Cbi.active (c : Cbi) : Option TxEntry := c.txq.find? (fun e => e.stage != .waiting)

/-- The queue without the entry contending or in flight (R108). -/
def Cbi.dropActive (c : Cbi) : Cbi := { c with txq := c.waitingEntries }.settleLock

/-- The entry contending or in flight, changed. -/
def Cbi.modActive (f : TxEntry → TxEntry) (c : Cbi) : Cbi :=
  { c with txq := c.txq.map (fun e => if e.stage = .waiting then e else f e) }

/-- An entry leaves the queue, and a waiting FENCE counts it (R181), before the frame's owner is told: DESIGN CHOICE
(log 60), unsafe. -/
def Desk.leaveQueue (fc : FieldCount) (e : TxEntry) (d : Desk) : Desk := (d.withCbi Cbi.dropActive).itemLeft fc e.marked

/-- The frame's owner is the Cue Engine and is told of outcomes (R108, R121). -/
def TxEntry.tells (e : TxEntry) : Bool := e.owner == .cueEngine && !e.silent

/-- A frame of the Cue Engine is discarded or removed, and held frames are tried again (R114, R115, R140; a CLEAR: log 72). -/
def Desk.tellGone (fc : FieldCount) (e : TxEntry) (d : Desk) : Desk :=
  if e.tells then (d.frameDiscarded fc e.what).retry fc else d

/-- A frame abandoned after its 4th failed attempt (R108), a CLEAR among them (log 72). -/
def Desk.tellAbandoned (fc : FieldCount) (e : TxEntry) (d : Desk) : Desk :=
  if e.tells then
    (match e.what with
    | .claim i => d.claimAbandoned fc i
    | .withdraw i => d.withdrawDone fc i
    | .resend _ => d
    | .recall _ _ => d
    | .clear => d).retry fc
  else d

/-- A frame sent, with the contents of the attempt (R108, R143, R146). Held cues and refused frames are tried again at the
outcome of a CLEAR too, as of any frame of the Cue Engine (R140), though R150 has it change nothing there: DESIGN CHOICE
(log 72), unsafe. -/
def Desk.tellSent (fc : FieldCount) (e : TxEntry) (contents : FrameContents) (d : Desk) : Desk :=
  if e.tells then
    (match e.what, contents with
    | .claim i, .claim c _ => d.claimSent fc i c
    | .withdraw i, _ => d.withdrawDone fc i
    | _, _ => d).retry fc
  else d

/-! ## Arbitration and outcomes (R106, R108) -/

/-- The frame that is no longer sent waits again, or leaves the queue (R114, R115, R121). -/
def Desk.releaseEntry (fc : FieldCount) (leaves : TxEntry → Bool) (d : Desk) : Desk :=
  match d.cbi.active with
  | none => d
  | some e =>
    if leaves e then (d.leaveQueue fc e).tellGone fc e
    else d.withCbi (Cbi.modActive (fun x => { x with stage := .waiting }))

/-- The frame of a lost access code (R106, R114, R115, R121). -/
def Desk.loseEntry (fc : FieldCount) (d : Desk) : Desk :=
  d.releaseEntry fc (fun e => e.removeAsked || e.doomed || e.silent)

/-- The frame of a failed attempt at its last end cell (R106, R114, R121): a CLEAR or a REINIT may have come. -/
def Desk.landEntry (fc : FieldCount) (d : Desk) : Desk := d.releaseEntry fc (fun e => e.doomed || e.silent)

/-- The station no longer drives and receives the rest of the frame (R106, R108). -/
def Cbi.stopDriving (c : Cbi) : Cbi :=
  { c with line := .receiving, attempt := none, objected := false, wire := c.wire.release }

/-- The access code lost: the station receives (R106). -/
def Desk.loseAccess (fc : FieldCount) (d : Desk) : Desk :=
  if d.cbi.line = .contending then (d.withCbi Cbi.stopDriving).loseEntry fc
  else d

/-- The allowance debit of a first-rank win, with ALLOWANCE_SPENT (R109). -/
def Desk.debit (fc : FieldCount) (d : Desk) : Desk :=
  let left := d.cbi.allowance - 1
  let y := d.withCbi (fun c => { c with allowance := left })
  if left = 0 ∧ d.cbi.spentPosted = false then
    (y.withCbi (fun c => { c with spentPosted := true })).post fc (.allowanceSpent fc d.cbi.txq.length)
  else y

/-- The allowance or the burst at a won access code (R109, R110). -/
def Desk.charge (fc : FieldCount) (a : Attempt) (d : Desk) : Desk :=
  match a.contents with
  | .beacon _ => d
  | .clear => d
  | _ =>
    if a.firstRank then d.debit fc
    else d.withCbi (fun c => { c with burst := if a.continuing then c.burst - 1 else 3 })

/-- The access code won: the frame is in flight (R106). -/
def Desk.winAccess (fc : FieldCount) (d : Desk) : Desk :=
  if d.cbi.line = .contending then
    let y := d.withCbi (fun c =>
      { c.modActive (fun x => { x with stage := .inFlight, removeAsked := false }) with line := .sending })
    match d.cbi.attempt with
    | some a => y.charge fc a
    | none => y
  else d

/-- A beacon attempt succeeded (R111). -/
def Desk.beaconDone (b : Beacon) (d : Desk) : Desk :=
  (d.withCbi (fun c => { c with beaconSent := true, beaconDue := false })).beaconSent b

/-- The recessive objection cell of an own frame (R108): the frame leaves the queue and its owner is told. The frame
is still in flight, until its last end cell (R106). -/
def Desk.attemptSent (fc : FieldCount) (d : Desk) : Desk :=
  match d.cbi.attempt with
  | none => d
  | some a =>
    match a.contents with
    | .beacon b => d.beaconDone b
    | contents =>
      match d.cbi.active with
      | some e => (d.leaveQueue fc e).tellSent fc e contents
      | none => d

/-- An own frame is over: WAIT, and the line released (R101, R102). -/
def Cbi.leaveFrame (c : Cbi) : Cbi := { c with line := .wait, attempt := none, wire := c.wire.release }

/-- The last end cell of an own frame (R102, R106): WAIT. A frame of the queue whose attempt failed waits again, or
leaves, and the queue may have become empty (R112, R114, R121). -/
def Desk.endOwnFrame (fc : FieldCount) (d : Desk) : Desk :=
  if d.cbi.line = .sending then
    let y := d.withCbi Cbi.leaveFrame
    if d.cbi.queueFlies then (y.landEntry fc).withCbi Cbi.settleLock else y
  else d

/-- The attempt succeeded, to the end of its frame (R102, R106, R108; log 46). -/
def Desk.succeedAttempt (fc : FieldCount) (d : Desk) : Desk :=
  if d.cbi.line = .sending then (d.attemptSent fc).endOwnFrame fc else d

/-- An abandoned frame counted (R108, R119). -/
def Cbi.countAbandoned (c : Cbi) : Cbi := { c with abandoned := c.abandoned.inc }

/-- A beacon attempt failed (R108, R111): not tried again once its flag is clear. An attempt in flight at REINIT that
fails once CONFIGURE has made a beacon due again counts against that beacon: DESIGN CHOICE (log 45), unsafe. -/
def Cbi.beaconFailed (c : Cbi) : Cbi :=
  if c.beaconDue then
    if c.beaconAttempts + 1 ≥ 4 then { c.countAbandoned with beaconDue := false, beaconAttempts := 4 }
    else { c with beaconAttempts := c.beaconAttempts + 1 }
  else c

/-- The frame of a failed attempt (R108, R114, R121). After an objection it stays in flight to its last end cell
(R106); after a collision it is no longer sent. -/
def Desk.failEntry (fc : FieldCount) (d : Desk) : Desk :=
  match d.cbi.active with
  | none => d
  | some e =>
    if e.silent || e.doomed then (d.leaveQueue fc e).tellGone fc e
    else if e.attempts + 1 ≥ 4 then ((d.leaveQueue fc e).withCbi Cbi.countAbandoned).tellAbandoned fc e
    else d.withCbi (Cbi.modActive (fun x => { x with
      stage := if d.cbi.queueFlies then x.stage else .waiting
      attempts := x.attempts + 1 }))

/-- The failure of an attempt is counted (R108, R111). -/
def Desk.countFailure (fc : FieldCount) (attempt : Option Attempt) (d : Desk) : Desk :=
  match attempt with
  | none => d
  | some a =>
    match a.contents with
    | .beacon _ => d.withCbi Cbi.beaconFailed
    | _ => (d.failEntry fc).withCbi Cbi.settleLock

/-- A collision (R108): the station stops driving and receives the rest. -/
def Desk.collide (fc : FieldCount) (d : Desk) : Desk :=
  (d.withCbi Cbi.stopDriving).countFailure fc d.cbi.attempt

/-- A dominant objection cell of an own frame (R108): the attempt has failed, and the frame is in flight until its
last end cell (R106). -/
def Desk.attemptObjected (fc : FieldCount) (d : Desk) : Desk :=
  (d.withCbi (fun c => { c with objected := false })).countFailure fc d.cbi.attempt

/-- The attempt failed (R108): by a collision, or by an objection, to the end of its frame (R102, R106; log 46). -/
def Desk.failAttempt (fc : FieldCount) (collision : Bool) (d : Desk) : Desk :=
  if d.cbi.line = .sending then
    if collision then d.collide fc else (d.attemptObjected fc).endOwnFrame fc
  else d

/-! ## Receiving (R107, R116) -/

/-- A receiver finds an error (R107, R119). With a bad kind or length it objects in every cell until the frame
ends, by truncation. -/
def Cbi.findError (err : FrameFault) (c : Cbi) : Cbi :=
  if c.line = .receiving ∧ c.objected = false then
    match err with
    | .checkError => { c with badCheck := c.badCheck.inc, line := .wait }
    | .invalidKind => { c with badCheck := c.badCheck.inc, objected := true }
    | .wrongLength => { c with badCheck := c.badCheck.inc, objected := true }
  else c

/-- No cell begins for 2 cell times before the objection cell (R116). A receiver that found a bad kind or length counts
no truncation, a muted one that could not object among them: DESIGN CHOICE (log 44), unsafe. -/
def Cbi.truncate (c : Cbi) : Cbi :=
  if c.line = .receiving then
    if c.objected then { c with line := .wait, objected := false }
    else { c with line := .wait, truncated := c.truncated.inc }
  else c

/-- A dominant objection cell at a receiver that found no error (R107). -/
def Cbi.seeObjection (c : Cbi) : Cbi :=
  if c.line = .receiving ∧ c.objected = false then { c with line := .wait } else c

/-- A frame can be accepted (R107). -/
def Cbi.canAccept (c : Cbi) : Bool := c.line == .receiving && !c.objected

/-- The end of a received frame (R102). -/
def Cbi.endFrame (c : Cbi) : Cbi := { c with line := .wait }

/-- A good frame with the station's own number mutes it (R118, R151); a station already muted is left as it
is (log 23). MUTED is posted before the Cue Engine's CUE and CHAIN_DONE of the same moment: DESIGN CHOICE (log 59),
unsafe. -/
def Desk.mute (fc : FieldCount) (kind : Nat) (d : Desk) : Desk :=
  if d.cbi.muted then d
  else ((d.withCbi (fun c => { c with muted := true, beaconDue := false })).post fc (.muted fc kind)).muteCues fc

/-- An accepted frame (R107, R118): the end of the frame, then the work `f` of the table unless the sender
carries the own number. -/
def Desk.accept (fc : FieldCount) (stn sender : Station) (kind : Nat) (f : Desk → Desk) (d : Desk) : Desk :=
  if d.cbi.canAccept then
    if sender = stn then (d.withCbi Cbi.endFrame).mute fc kind else f (d.withCbi Cbi.endFrame)
  else d

/-! ## The beacon-due flag (R111, R121) -/

/-- The flag may be set: configured, not muted, not in FAULT, and no beacon has succeeded in this field. -/
def Desk.mayBeDue (d : Desk) : Bool := d.maySend && !d.cbi.beaconSent && !d.cbi.beaconDue

/-- The flag is set if it may be (R111). -/
def Desk.setDue (d : Desk) : Desk :=
  if d.mayBeDue then d.withCbi (fun c => { c with beaconDue := true, beaconAttempts := 0 }) else d

/-- The flag is set if the field line number lies in the window (R111, R121). -/
def Desk.setDueInWindow (sys : System) (parity : Parity) (line : Nat) (d : Desk) : Desk :=
  if inBeaconWindow sys parity line then d.setDue else d

/-- A line boundary opens field line `line` (R111): the window opens at its first line and drops the beacon
after its last. -/
def Desk.cbiLine (sys : System) (parity : Parity) (line : Nat) (d : Desk) : Desk :=
  if line = 10 then d.setDue
  else if line = beaconWindowEnd sys parity + 1 then d.withCbi (fun c => { c with beaconDue := false })
  else d

/-- A field boundary at the bus interface (R109 to R111). -/
def Desk.cbiBoundary (sys : System) (parity : Parity) (line : Nat) (d : Desk) : Desk :=
  (d.withCbi (fun c => { c with
    allowance := 4
    spentPosted := false
    burst := 0
    beaconSent := false
    beaconDue := false })).setDueInWindow sys parity line

/-! ## FAULT (R117) and REINIT (R121) -/

/-- A frame stuck in its end cells has had its outcome and ends (R108, R117). -/
def Desk.endIfDecided (fc : FieldCount) (d : Desk) : Desk := if d.cbi.inEndCells then d.endOwnFrame fc else d

/-- What stands in the air when the line is stuck low has lost or failed (R117; log 26). -/
def Desk.cutShort (fc : FieldCount) (d : Desk) : Desk := ((d.loseAccess fc).endIfDecided fc).failAttempt fc true

/-- The line low for over 64 cells (R117). -/
def Desk.enterFault (fc : FieldCount) (d : Desk) : Desk :=
  if d.cbi.line = .fault then d
  else
    ((d.cutShort fc).withCbi (fun c => { c with
      line := .fault
      beaconDue := false
      objected := false
      attempt := none
      wire := { c.wire with drive := 0, tail := 0 } })).post fc (.busFault false fc)

/-- In FAULT, the line high for 12 cell times: the bus is idle (R110, R111, R117). -/
def Desk.leaveFault (sys : System) (fc : FieldCount) (parity : Parity) (line : Nat) (d : Desk) : Desk :=
  if d.cbi.line = .fault then
    ((d.withCbi Cbi.enterIdle).post fc (.busFault true fc)).setDueInWindow sys parity line
  else d

/-- An entry that REINIT removes: every CLAIM, WITHDRAW and RECALL (R121). -/
def TxEntry.reinitRemoves (e : TxEntry) : Bool := e.what != .clear

/-- The entries that REINIT leaves, those it will drop at their outcome marked (R121, log 24). -/
def reinitEntries (es : List TxEntry) : List TxEntry :=
  (es.filter (fun e => !(e.reinitRemoves && e.stage == .waiting))).map
    (fun e => if e.reinitRemoves then { e with silent := true } else e)

/-- REINIT at the bus interface (R121): waiting frames leave without a report; one contending or in flight
leaves at its outcome, reported to no one (log 24). -/
def Cbi.reinit (c : Cbi) : Cbi := { c with beaconDue := false, txq := reinitEntries c.txq }.settleLock

end Sys2Proof.Machine
end

