-- ==== Sys2Proof/Machine/Sfe.lean ====
section
/-! DEFINITION. The work of the Sync Front End on its own state: level search, pulses, level updates and
the sync-activity monitor (01_the_video_input.md). -/

namespace Sys2Proof.Machine

/-- A level update: the level moves by R((reading - level)/8) (R13). -/
def moveLevel (level reading : Nat) : Nat := (level + roundR ((reading : Int) - level) 8).toNat

/-- The reading of a sum of 32 samples, R(sum/32) (R11, R12). -/
def readingOf (sum : Nat) : Nat := (roundR sum 32).toNat

/-- The fraction f of R7, in ticks, clamped to 0..15. -/
def edgeFraction (t : Nat) (before now : Code) : Nat :=
  min 15 (16 * (before.toNat - t) / (before.toNat - now.toNat))

/-- The leading-edge time 16(k-1) + f, from the timestamp of sample k (R7). -/
def edgeTime (t : Nat) (time : Ts) (before now : Code) : Ts :=
  time - 16 + BitVec.ofNat 20 (edgeFraction t before now)

/-- A new search window: the running lowest and highest start again from 255 and 0 (R5). -/
def Sfe.newWindow (x : Sfe) : Sfe := { x with windowCount := 0, lowest := 255, highest := 0 }

/-- The end of a search window (R5, R6): the levels are set, and tracking starts if A is 12 or more. -/
def Sfe.endWindow (lowest highest : Code) (x : Sfe) : Sfe :=
  let y := { x with tip := lowest.toNat, blank := highest.toNat }.newWindow
  if 12 ≤ y.amplitude then { y with mode := .levelTracking } else y

/-- A falling crossing (R7, R8, R12, R14, R17). It abandons an open blank window, one at samples j+1..j+39 too, so that no
level update falls in a pulse (R6, log 35). -/
def Sfe.startPulse (time : Ts) (before now : Code) (snap : Snapshot) (x : Sfe) : Sfe :=
  let step : Int := (before.toNat : Int) - now.toNat
  { x with
    pulse := some {
      start := time
      edge := edgeTime x.threshold time before now
      step := step
      amp := x.amplitude
      grade := gradeOf step x.amplitude
      snap := snap
      tipSum := 0 }
    blankWin := none
    active := true
    timer := 0 }

/-- The record of a pulse (R10): a BROAD record's width field holds 401. -/
def Pulse.record (p : Pulse) (cls : PulseClass) (width : Nat) : PulseRecord where
  edge := p.edge
  cls := cls
  grade := p.grade
  width := if cls = .broad then 401 else width
  snap := p.snap

/-- A LINE pulse's level work at its rising crossing: the tip update (R11, R13) and the blank window (R12). The window
opens even where the update takes A below 12: DESIGN CHOICE (log 34), unsafe. -/
def Sfe.lineLevels (time : Ts) (tipSum : Nat) (x : Sfe) : Sfe :=
  { x with tip := moveLevel x.tip (readingOf tipSum), blankWin := some ⟨time, 0⟩ }

/-- A rising crossing of the pulse `p` (R9 to R12): the pulse ends; the record, if its class has one. -/
def Sfe.endPulse (time : Ts) (tipSum : Nat) (p : Pulse) (x : Sfe) : Sfe × Option PulseRecord :=
  let width := samplesBetween time p.start
  let y := { x with pulse := none }
  match classOf width with
  | none => (y, none)
  | some .line => (y.lineLevels time tipSum, some (p.record .line width))
  | some cls => (y, some (p.record cls width))

/-- The blank reading at sample j+71 (R12, R13). -/
def Sfe.readBlank (sum : Nat) (x : Sfe) : Sfe :=
  { x with blank := moveLevel x.blank (readingOf sum), blankWin := none }

/-- The monitor enters LOST: work in progress is abandoned and a level search starts; the levels keep
their values (R17, R18). -/
def Sfe.lose (x : Sfe) : Sfe :=
  { x with mode := .levelSearch, pulse := none, blankWin := none, active := false, timer := 0 }.newWindow

/-- The loop snapshot at a falling crossing (R14). -/
def takeSnapshot (tape : Bool) (t : Timebase) : Snapshot where
  line := t.loop.n
  pred := floorTicks t.loop.P
  st := t.ref.st
  gate := gateOf tape t.ref.st
  vwin := t.ft.vwin

/-- A record's edge at full-line position against the snapshot's gate (R14). -/
def PulseRecord.atFullLine (r : PulseRecord) : Bool :=
  match r.snap.gate with
  | some g => decide ((tsDiff r.edge r.snap.pred).natAbs ≤ g)
  | none => false

/-- R16's downgrade: GOOD reaches the loop as FAIR. -/
def Grade.downgrade : Grade → Grade
  | .good => .fair
  | .fair => .fair
  | .poor => .poor

/-- The phase error e of a record against its snapshot's prediction (R24). -/
def PulseRecord.error (r : PulseRecord) : Int := tsDiff r.edge r.snap.pred

/-- The copy of a record that the loop is offered, if it is offered one (R15, R16). -/
def PulseRecord.forLoop (r : PulseRecord) : Option LoopRecord :=
  if r.cls = .line then some ⟨r.edge, r.cls, r.grade, r.error⟩
  else if (r.snap.st = .acquire ∨ r.snap.st = .locked) ∧ r.snap.vwin = true ∧ r.atFullLine = true then
    some ⟨r.edge, r.cls, r.grade.downgrade, r.error⟩
  else none

end Sys2Proof.Machine
end

