-- ==== Sys2Proof/Machine/Field.lean ====
section
/-! DEFINITION. The Field Tracker: line numbers, the vertical window, broad runs, candidates, boundaries,
the field count and the adoptions (04_fields_and_the_field_count.md). -/

namespace Sys2Proof.Machine

/-! ## Lines -/

/-- The vertical window once the counter holds `line` (R69). -/
def vwinAtLine (sys : System) (fs : FieldSt) (parity : Parity) (line : Nat) (vwin : Bool) : Bool :=
  if fs = .search then true
  else if line = nominalCount sys parity - 10 then true
  else if line = 10 then false
  else vwin

/-- A line boundary handed over by the loop (R67, R69). -/
def Ft.stepLine (sys : System) (x : Ft) : Ft :=
  { x with
    counter := x.counter + 1
    vwin := vwinAtLine sys x.fs x.parity (x.counter + 1) x.vwin }

/-- The vertical window at a boundary event, in the new state with the new counter (R69). -/
def vwinAtEvent (fs : FieldSt) (counter : Nat) (vwin : Bool) : Bool :=
  if fs = .search then true else if counter > 9 then false else vwin

/-! ## Broad runs and candidates -/

/-- Half-line spacing (R70): d·256 within F/16 of F/2, in exact arithmetic. -/
def halfLineSpacing (F : Int) (edge last : Ts) : Bool :=
  decide ((16 * (tsDiff edge last * 256) - 8 * F).natAbs ≤ F.natAbs)

/-- The first broad pulse of a run (R70). -/
def Ft.startBroadRun (r : PulseRecord) (x : Ft) : Ft :=
  { x with broadRun := 1, lastBroad := some r.edge, firstBroad := some ⟨r.edge, r.snap⟩ }

/-- A record in the broad run (R70). -/
def Ft.followBroad (F : Int) (r : PulseRecord) (x : Ft) : Ft :=
  if r.cls = .broad then
    if x.broadRun ≥ 3 then x
    else match x.lastBroad with
      | none => x.startBroadRun r
      | some last =>
        if x.broadRun ≠ 0 ∧ halfLineSpacing F r.edge last = true then
          { x with broadRun := x.broadRun + 1, lastBroad := some r.edge }
        else x.startBroadRun r
  else { x with broadRun := 0, lastBroad := none, firstBroad := none }

/-- The parity gate of a snapshot (R71). -/
def Snapshot.parityGate (s : Snapshot) : Option Nat :=
  match s.st with
  | .acquire => s.gate
  | .locked => s.gate
  | .hold => some 1024
  | .probe => some 1024
  | .search => none

/-- A candidate: its classification, and its count c in the current field's numbering (R71). -/
structure Candidate where
  parity : Option Parity
  count : Int
deriving DecidableEq, Repr

/-- The classification of a boundary edge, and whether field line 0 is the line before the snapshot's
(R71). -/
def classify (F : Int) (b : BroadStart) : Option Parity × Bool :=
  let fromStart := tsDiff b.edge b.snap.pred
  let fromHalf := tsDiff b.edge (b.snap.pred - BitVec.ofInt 20 (F / 512))
  match b.snap.parityGate with
  | none => (none, decide (fromStart < 0))
  | some g =>
    if fromStart.natAbs ≤ g then (some .first, false)
    else if fromHalf.natAbs ≤ g then (some .second, true)
    else (none, decide (fromStart < 0))

/-- The candidate made by a run with this first edge, with line `n` open in the loop (R71). -/
def Ft.candidate (F : Int) (n : Nat) (b : BroadStart) (x : Ft) : Candidate :=
  let (parity, before) := classify F b
  let named : Int := (x.counter : Int) - ((n : Int) - b.snap.line)
  ⟨parity, if before then named - 1 else named⟩

/-- The acceptance window (R72). -/
def inAcceptance (sys : System) (tape : Bool) (parity : Parity) (c : Int) : Bool :=
  decide ((c - nominalCount sys parity).natAbs ≤ tolerance tape)

/-! ## Boundaries -/

/-- A boundary to be taken: how, the state and coast count after it, the count of the field just ended,
the classified parity if any, and whether a candidate took it. -/
structure Taking where
  start : StartKind
  fs : FieldSt
  coasts : Nat
  count : Int
  parity : Option Parity
  byCandidate : Bool
  fieldSlip : Bool
deriving DecidableEq, Repr

/-- The boundary of an accepted candidate (R73). -/
def Ft.acceptTaking (sys : System) (tape : Bool) (c : Candidate) (x : Ft) : Taking where
  start := if inAcceptance sys tape x.parity c.count then .accepted else .slip
  fs := if x.fs = .search ∧ c.parity = none then .search else .locked
  coasts := 0
  count := c.count
  parity := c.parity
  byCandidate := true
  fieldSlip := false

/-- The boundary of a field slip (R75). -/
def slipTaking (c : Candidate) : Taking where
  start := .slip
  fs := .locked
  coasts := 0
  count := c.count
  parity := c.parity
  byCandidate := true
  fieldSlip := true

/-- The boundary of a coasted field (R74). -/
def Ft.coastTaking (sys : System) (x : Ft) : Taking where
  start := .coasted
  fs := match x.fs with
    | .locked => .coast
    | .coast => if x.coasts ≥ 3 then .search else .coast
    | .search => .search
  coasts := match x.fs with
    | .locked => 1
    | .coast => if x.coasts ≥ 3 then 0 else x.coasts + 1
    | .search => 0
  count := nominalCount sys x.parity
  parity := none
  byCandidate := false
  fieldSlip := false

/-- A stray at the count of a stray of the field before, within 1 (R75). -/
def Ft.confirmsStray (c : Candidate) (x : Ft) : Bool :=
  match x.stray with
  | some s => s.fieldBefore && decide ((s.count - c.count).natAbs ≤ 1)
  | none => false

/-- A candidate judged against the field state in force (R72, R75): the tracker, and the boundary if one is
taken. -/
def Ft.judge (sys : System) (tape : Bool) (c : Candidate) (x : Ft) : Ft × Option Taking :=
  if x.fs = .search ∨ inAcceptance sys tape x.parity c.count = true then (x, some (x.acceptTaking sys tape c))
  else if x.confirmsStray c then (x, some (slipTaking c))
  else ({ x with stray := some ⟨c.count, false⟩ }, none)

/-- A pulse record received by the tracker (R70, R72). -/
def Ft.takeRecord (sys : System) (tape : Bool) (F : Int) (n : Nat) (r : PulseRecord) (x : Ft) :
    Ft × Option Taking :=
  let y := x.followBroad F r
  match y.firstBroad with
  | some b =>
    if r.cls = .broad ∧ y.broadRun = 3 ∧ x.broadRun ≠ 3 then y.judge sys tape (y.candidate F n b) else (y, none)
  | none => (y, none)

/-- The line boundary that closes the open line brings a coasted boundary (R74). -/
def Ft.coastsNow (sys : System) (tape : Bool) (x : Ft) : Bool :=
  decide (nominalCount sys x.parity + tolerance tape + 2 ≤ x.counter)

/-- The entries of the parity tally (R79). -/
def Ft.tallyEntries (x : Ft) : List Parity := x.tally.toList.filterMap id

/-- Parity adoption decided at a boundary event: the peers' parity Y (R81). -/
def Ft.adoption (st : RefSt) (x : Ft) : Option Parity :=
  match x.tallyEntries with
  | y :: y2 :: rest =>
    if st = .locked ∧ x.label = .alternation ∧ (y2 :: rest).all (· == y) = true ∧ y ≠ x.parity then some y else none
  | _ => none

/-- The stray record after a boundary (R73, R75). -/
def strayAfter (byCandidate : Bool) : Option Stray → Option Stray
  | none => none
  | some s => if byCandidate || s.fieldBefore then none else some { s with fieldBefore := true }

/-- The count of the field just ended is not the nominal one (R72). -/
def Ft.isIrregular (sys : System) (tk : Taking) (x : Ft) : Bool :=
  tk.byCandidate && tk.count != nominalCount sys x.parity

/-- The irregular flag after a boundary (R73, R74; log 15 for a slip). -/
def Ft.irregularAfter (sys : System) (tk : Taking) (x : Ft) : Bool :=
  if tk.fs = .search ∧ x.fs ≠ .search then false else x.isIrregular sys tk

/-- The cause of the FIELD_STATE report of a boundary, if one is posted (R76). -/
def Ft.fieldCause (sys : System) (tk : Taking) (x : Ft) : Option FieldCause :=
  if tk.fieldSlip then some .fieldSlip
  else match x.fs, tk.fs with
    | .search, .locked => some .anchored
    | .locked, .coast => some .coasting
    | .coast, .locked => some .resumed
    | .coast, .search => some .lost
    | _, _ => if x.isIrregular sys tk && !x.irregular then some .irregular else none

/-- The parity of the field that begins (R73, R74, R81). -/
def Ft.parityAfter (st : RefSt) (tk : Taking) (x : Ft) : Parity :=
  match tk.parity with
  | some p => p
  | none =>
    match x.adoption st with
    | some y => oppParity y
    | none => oppParity x.parity

/-- A parity adoption is applied at the boundary (R81). -/
def Ft.adopts (st : RefSt) (tk : Taking) (x : Ft) : Bool := tk.parity.isNone && (x.adoption st).isSome

/-- FC after a boundary (R77, R80). -/
def Ft.fcAfter (x : Ft) : FieldCount :=
  match x.cand with
  | some c => x.fc + 1 + BitVec.ofNat 16 c.k
  | none => x.fc + 1

/-- The tracker after a boundary event (R67, R69, R73 to R75, R77, R79 to R81). -/
def Ft.take (sys : System) (st : RefSt) (tk : Taking) (x : Ft) : Ft :=
  let counter := ((x.counter : Int) - tk.count).toNat
  { x with
    fs := tk.fs
    fc := x.fcAfter
    parity := x.parityAfter st tk
    label := if tk.parity.isSome then .classified else .alternation
    counter := counter
    startKind := tk.start
    coasts := tk.coasts
    vwin := vwinAtEvent tk.fs counter x.vwin
    stray := strayAfter tk.byCandidate x.stray
    irregular := x.irregularAfter sys tk
    unclassified := if tk.byCandidate && tk.parity.isNone then satInc 255 x.unclassified else x.unclassified
    cand := none
    tally := Vector.replicate 16 none
    adoptPending := none }

/-- The slip mark handed to the TDU (R78). -/
def Ft.slipMark (st : RefSt) (tk : Taking) (x : Ft) : Bool := tk.start == .slip || x.adopts st tk

/-- The reports of a boundary event, `y` the tracker after it (R76, R80, R81). Their order, FIELD_STATE, COUNT_ADOPTED,
PARITY_ADOPTED, is a DESIGN CHOICE (log 38), unsafe. -/
def Ft.reports (sys : System) (st : RefSt) (tk : Taking) (x y : Ft) : List Report :=
  ((x.fieldCause sys tk).map (fun cause => Report.fieldState y.fs cause y.fc tk.count y.parity y.unclassified)).toList ++
  (x.cand.map (fun c => Report.countAdopted x.fc y.fc c.k c.station)).toList ++
  (if x.adopts st tk then [Report.parityAdopted y.parity x.tallyEntries.length y.fc] else [])

/-! ## What peers report (R79) -/

/-- A good beacon's count, in F_LOCKED (R79). -/
def Ft.gatherCount (station : Station) (b : Beacon) (x : Ft) : Ft :=
  let k := (b.fc - x.fc).toNat
  if x.fs = .locked ∧ b.st = .locked ∧ b.fieldLocked = true ∧ 1 ≤ k ∧ k ≤ 32767 then
    match x.cand with
    | none => { x with cand := some ⟨k, station⟩ }
    | some c => if c.k < k then { x with cand := some ⟨k, station⟩ } else x
  else x

/-- A good beacon's parity (R79). -/
def Ft.gatherParity (station : Station) (b : Beacon) (x : Ft) : Ft :=
  if b.st = .locked then { x with tally := x.tally.set station.val (some b.parity) } else x

/-- A good beacon passed on by the Peer Table (R79). -/
def Ft.gather (station : Station) (b : Beacon) (x : Ft) : Ft := (x.gatherCount station b).gatherParity station b

end Sys2Proof.Machine
end

