-- ==== Sys2Proof/Machine/HostPort.lean ====
section
/-! DEFINITION. The Host Port: the byte handshakes, the framer, the judging of requests and the read-out of
reports (11_host_port_and_start_up.md). -/

namespace Sys2Proof.Machine

/-! ## Request bytes (R173) -/

/-- The inbound buffer has a free place (R173). -/
def Hp.hasPlace (h : Hp) : Bool := decide (h.inbound.length < 64)

/-- A byte taken into the buffer, with PACK (R173). -/
def Hp.takeByte (b : Byte) (h : Hp) : Hp := { h with inbound := h.inbound ++ [b], pack := true, held := none }

/-- A byte waiting under HSTB is taken as soon as a place is free and PRDY is released (R173). -/
def Hp.takeHeld (h : Hp) : Hp :=
  match h.held with
  | some b => if h.hasPlace && !h.prdy then h.takeByte b else h
  | none => h

/-- HSTB asserted with a byte on HD (R173). -/
def Hp.strobe (b : Byte) (h : Hp) : Hp := { h with hstb := true, held := some b }.takeHeld

/-- The next byte of the record in transfer is presented when PRDY, HACK and HSTB are released (R183). -/
def Hp.present (h : Hp) : Hp :=
  match h.transfer with
  | some (b :: _) => if !h.prdy && !h.hack && !h.hstb then { h with hd := some b, prdy := true } else h
  | _ => h

/-- HSTB released: PACK is released (R173), and a waiting report byte may be presented (R183). A byte that
was not yet taken is withdrawn with its strobe (log 25). -/
def Hp.unstrobe (h : Hp) : Hp := { h with hstb := false, pack := false, held := none }.present

/-! ## The framer (R175) -/

/-- What reading a byte completes. -/
inductive Framed where
  | nothing
  | request (i : Instr)
  | malformed (kind length : Byte)
deriving DecidableEq, Repr

/-- The framer with so many bytes to discard. -/
def skipping (n : Nat) : Framer := if n = 0 then .kind else .skip n

/-- A record whose payload is whole, or still needs bytes (R175). -/
def afterPayload (kind : Byte) (need : Nat) (got : List Byte) : Framer × Framed :=
  if got.length < need then (.payload kind need got, .nothing)
  else (.kind, match parseRequest kind got with
    | some i => .request i
    | none => .nothing)

/-- One byte read by the framer (R175). -/
def Framer.read (b : Byte) : Framer → Framer × Framed
  | .kind => (.length b, .nothing)
  | .length k =>
    match requestLength k with
    | some need => if need = b.toNat then afterPayload k need [] else (skipping b.toNat, .malformed k b)
    | none => (skipping b.toNat, .malformed k b)
  | .payload k need got => afterPayload k need (got ++ [b])
  | .skip left => (skipping (left - 1), .nothing)

/-- The framer reads the byte at the head of the buffer and frees its place (R173, R175). -/
def Hp.readByte (h : Hp) : Hp × Framed :=
  match h.inbound with
  | [] => (h, .nothing)
  | b :: rest =>
    let (f, out) := h.framer.read b
    ({ h with inbound := rest, framer := f }.takeHeld, out)

/-- Why a record is refused by the framer (R175). -/
def malformedReason (kind : Byte) : Reason := if (requestLength kind).isSome then .badLength else .unknownKind

/-- The framer passes over the bytes of a malformed record (R175). -/
def Hp.skipRecord (length : Byte) (h : Hp) : Hp := { h with framer := skipping length.toNat }

/-! ## Judging (R176) -/

/-- The requests a muted station refuses (R176): 0x04..0x0A and 0x0F. -/
def mutedRefuses (kind : Byte) : Bool :=
  (decide (0x04 ≤ kind.toNat) && decide (kind.toNat ≤ 0x0A)) || kind == 0x0F

/-- The requests an UNCONFIGURED station takes (R176): CONFIGURE, REINIT, STATUS_QUERY. -/
def takenUnconfigured (kind : Byte) : Bool := decide (1 ≤ kind.toNat) && decide (kind.toNat ≤ 3)

/-- The first case of R176 that refuses a request, if any. -/
def Desk.refusalOf (kind : Byte) (d : Desk) : Option Reason :=
  if d.hp.configured = false ∧ takenUnconfigured kind = false then some .unconfigured
  else if d.hp.configured = true ∧ kind = 0x01 then some .alreadyConfigured
  else if d.cbi.muted = true ∧ mutedRefuses kind = true then some .muted
  else none

/-! ## Read-out (R183) -/

/-- A transfer can start (R183): no record is in transfer and HSTB is released. A HACK still asserted for the last byte
of the record before does not delay it: DESIGN CHOICE (log 64), unsafe. -/
def Hp.canStart (h : Hp) : Bool := !h.reports.isEmpty && h.transfer.isNone && !h.hstb

/-- The head record leaves the queue and its first byte is presented (R183). -/
def Hp.startTransfer (h : Hp) : Hp :=
  match h.reports with
  | q :: rest =>
    if h.canStart then { h with reports := rest, transfer := some q.bytes, hd := q.bytes.head?, prdy := true } else h
  | [] => h

/-- What is left in transfer after a byte is acknowledged; none after the last (R183). -/
def restOfTransfer : Option (List Byte) → Option (List Byte)
  | some (_ :: b :: rest) => some (b :: rest)
  | _ => none

/-- HACK asserted while a byte is presented (R183): HD and PRDY are released, and a waiting request byte is
acted on (R173). It acknowledges the byte, so that the last one ends the transfer at the assertion: DESIGN CHOICE
(log 64), unsafe. -/
def Hp.acknowledge (h : Hp) : Hp :=
  if h.prdy then { h with hack := true, prdy := false, hd := none, transfer := restOfTransfer h.transfer }.takeHeld
  else { h with hack := true }

/-- HACK released (R183): the next byte is presented. -/
def Hp.unacknowledge (h : Hp) : Hp := { h with hack := false }.present

/-- The byte presented is the last of the record in transfer (R183). -/
def Hp.atLastByte (h : Hp) : Bool :=
  h.prdy && (match h.transfer with
    | some [_] => true
    | _ => false)

/-! ## REINIT (R179) -/

/-- REINIT at the host port (R179): UNCONFIGURED, no reports, no FENCE; a record in transfer runs on. -/
def Hp.reinit (h : Hp) : Hp := { h with configured := false, reports := [], fence := false, fenceLeft := 0 }

end Sys2Proof.Machine
end

