-- ==== Sys2Proof/Machine/Keyer.lean ====
section
/-! DEFINITION. The Keyer: permission, decisions, the delay line (10_the_keyer.md). -/

namespace Sys2Proof.Machine

/-- A line is permitted (R167). The slip-field flag is tested as it came with the list (R164) and as it stands when the line
begins (R90), so that a setting during the line before acts from this one. -/
def linePermitted (st : RefSt) (slipNow : Bool) (joinQuiet : Nat) (l : LineList) : Bool :=
  st.mayKey && !l.slip && !slipNow && joinQuiet == 0 && !tooFar l.D && l.keyable

/-- The list of the delivered line that begins (R164, R165); the empty list where none is ready: DEDUCED (log 28), safe. -/
def Sb.head (x : Sb) : LineList := (x.ready.head?).getD LineList.empty

/-- A stop ordered from the next line acts (R168). -/
def StopFlag.atLine : StopFlag → StopFlag
  | .nextLine => .acting
  | .acting => .acting
  | .clear => .clear

/-- A delivered line begins: the Keyer takes the list and forms the permission from it, the reference state and the
slip-field flag as they then stand, and join quiet (R167, R168). -/
def Desk.keyerLine (st : RefSt) (slipNow : Bool) (d : Desk) : Desk :=
  { d with
    sb := { d.sb with ready := d.sb.ready.tail }
    ky := { d.ky with
      line := d.sb.head
      permitted := linePermitted st slipNow d.pt.joinQuiet d.sb.head
      stop := d.ky.stop.atLine } }

/-- A new key delay empties the delay line; the same one changes nothing (R171). -/
def Ky.setDelay (k : Nat) (x : Ky) : Ky :=
  if k = x.keyDelay then x else { x with keyDelay := k, delay := List.replicate k false, key := false }

/-- A span holds a pixel (R162: right inclusive). -/
def Span.holds (x : Int) (s : Span) : Bool := decide (s.left ≤ x) && decide (x ≤ s.right)

/-- A span keys a pixel with TRANSP as sampled (R170). -/
def Span.keys (transp : Bool) (x : Int) (s : Span) : Bool := s.holds x && (s.kind == .fill || !transp)

/-- The decision of pixel `x` (R170). A join quiet count above 0 suppresses it too (R135), so that a list held over a
REINIT is not keyed after a CONFIGURE in the same line (R169; log 42). -/
def Desk.decision (transp : Bool) (x : Int) (d : Desk) : Bool :=
  d.ky.permitted && !d.keyingStopped && d.pt.joinQuiet == 0 && d.ky.line.spans.any (Span.keys transp x)

/-- A decision enters the delay line, and the one that entered k edges earlier drives KEY (R171). -/
def Ky.shift (dec : Bool) (x : Ky) : Ky :=
  match x.delay with
  | [] => { x with key := dec }
  | oldest :: rest => { x with key := oldest, delay := rest ++ [dec] }

/-- A pixel clock edge at the Keyer (R170, R171). -/
def Desk.keyPixel (transp : Bool) (x : Int) (d : Desk) : Desk :=
  { d with ky := d.ky.shift (d.decision transp x) }

/-- The stop flag at a field boundary, once the snapshot is taken (R168). -/
def Desk.releaseStop (d : Desk) : Desk := { d with ky := { d.ky with stop := .clear } }

end Sys2Proof.Machine
end

