-- ==== Sys2Proof/Machine/Loop.lean ====
section
/-! DEFINITION. The arithmetic of the Line Lock Loop at a line boundary: outcomes, updates, anchoring and
the jump detector (02_the_line_lock_loop.md). -/

namespace Sys2Proof.Machine

/-- The outcomes of a line (R25, R26). -/
inductive LineOutcome where
  | good
  | fair
  | poor
  | rejected
  | missing
  | seen
deriving DecidableEq, Repr

/-- What the loop has decided for a line: itself with F, C and P moved on, the outcome, the record used,
and the prediction the flywheel would have given, P_n + F_n (R36). -/
structure Closing where
  loop : Loop
  outcome : LineOutcome
  used : Option LoopRecord
  flywheel : FineTs
deriving DecidableEq, Repr

/-- The outcome of a line whose first in-gate record has this grade (R25). -/
def outcomeOf : Grade → LineOutcome
  | .good => .good
  | .fair => .fair
  | .poor => .poor

/-- The outcome of a line in ACQUIRE or LOCKED, and the record used (R25). -/
def judge (gate : Nat) (records : List LoopRecord) : LineOutcome × Option LoopRecord :=
  match records.find? (fun r => decide (r.e.natAbs ≤ gate)) with
  | some r => (outcomeOf r.grade, some r)
  | none =>
    match records with
    | [] => (.missing, none)
    | r :: _ => (.rejected, some r)

/-- A line in a state without a gate (R26). -/
def judgeFree (records : List LoopRecord) : LineOutcome :=
  if records.isEmpty then .missing else .seen

/-- An accepted line is GOOD or FAIR (R25). -/
def LineOutcome.accepted : LineOutcome → Bool
  | .good => true
  | .fair => true
  | .poor => false
  | .rejected => false
  | .missing => false
  | .seen => false

/-- The frequency step, R(e·256/2^ki) (R27). -/
def freqStep (ki : Nat) (e : Int) : Int := roundR (e * 256) (2 ^ ki)

/-- The phase correction, R(e·256/2^kp) (R29). -/
def phaseStep (kp : Nat) (e : Int) : Int := roundR (e * 256) (2 ^ kp)

/-- The frequency update of a GOOD line with the clamp and the pinned counts (R27, R28). -/
def Loop.updateF (sys : System) (ki : Nat) (e : Int) (l : Loop) : Loop :=
  let sum := l.F + freqStep ki e
  if sum < fMin sys ∨ fMax sys < sum then
    { l with
      F := clampInt (fMin sys) (fMax sys) sum
      pinnedRun := satInc 256 l.pinnedRun
      pinnedCount := satInc 255 l.pinnedCount }
  else { l with F := sum, pinnedRun := 0 }

/-- The jump run after a REJECTED line whose first record has edge `edge` (R37). -/
def Loop.jumpAfter (gate : Nat) (edge : Ts) (l : Loop) : Nat :=
  match l.lastRejected with
  | none => 1
  | some last =>
    if l.jumpRun ≠ 0 ∧ (fineDiff (fineOf edge) (moveFine (fineOf last) l.F)).natAbs ≤ gate * 256
    then satInc 4 l.jumpRun else 1

/-- A line with its F updated: C and the prediction move on by R29 and R30. -/
def Loop.predict (c : Int) (l : Loop) : Loop := { l with C := c, P := moveFine l.P (l.F + c) }

/-- Anchoring: the prediction is set, no correction acts, and the miss run and jump run are zero (R35). -/
def Loop.anchor (at_ : FineTs) (l : Loop) : Loop :=
  { l with P := at_, C := 0, missRun := 0, jumpRun := 0, lastRejected := none }

/-- A REJECTED line in LOCKED: the jump run, and the re-anchoring when it reaches J (R37, R38). -/
def Loop.rejected (tape : Bool) (gate : Nat) (edge : Ts) (l : Loop) : Loop :=
  let run := l.jumpAfter gate edge
  let kept := { l with jumpRun := run, lastRejected := some edge, missRun := satInc 255 l.missRun }.predict 0
  if run ≥ jumpLength tape then
    { kept.anchor (moveFine (fineOf edge) l.F) with jumpCount := satInc 255 l.jumpCount }
  else kept

/-- A line that is neither accepted nor starts a jump run: a miss, by flywheel (R30, R32, R37). -/
def Loop.missed (l : Loop) : Loop :=
  { l with jumpRun := 0, lastRejected := none, missRun := satInc 255 l.missRun }.predict 0

/-- An accepted line (R27 to R30, R32, R37): GOOD moves F; GOOD and FAIR correct the phase. -/
def Loop.acceptedLine (sys : System) (tape : Bool) (st : RefSt) (good : Bool) (e : Int) (l : Loop) : Loop :=
  let moved := if good then l.updateF sys (kiOf tape st) e else l
  { moved with missRun := 0, jumpRun := 0, lastRejected := none }.predict (phaseStep (kpOf tape st) e)

/-- A line closed in ACQUIRE or LOCKED with its outcome (R25 to R30, R32, R37, R38). -/
def Loop.closeGated (sys : System) (tape : Bool) (st : RefSt) (gate : Nat) (outcome : LineOutcome)
    (used : Option LoopRecord) (l : Loop) : Loop :=
  match outcome, used with
  | .good, some r => l.acceptedLine sys tape st true r.e
  | .fair, some r => l.acceptedLine sys tape st false r.e
  | .rejected, some r => if st = .locked then l.rejected tape gate r.edge else l.missed
  | _, _ => l.missed

/-- The loop's work at the boundary of the open line, before the state machine acts (R23). -/
def Loop.closeLine (sys : System) (tape : Bool) (st : RefSt) (l : Loop) : Closing :=
  match gateOf tape st with
  | some gate =>
    let (outcome, used) := judge gate l.records
    let after := l.closeGated sys tape st gate outcome used
    ⟨after, outcome, used, moveFine l.P after.F⟩
  | none =>
    ⟨l.predict 0, judgeFree l.records, none, moveFine l.P l.F⟩

/-- The anchor step A_n = P_{n+1} − (P_n + F_n) (R36). -/
def Closing.anchorStep (flywheel : FineTs) (l : Loop) : Int :=
  fineDiff l.P (moveFine flywheel l.C)

/-- A change of reference state: the miss, jump and pinned runs are zero (R41). -/
def Loop.clearRuns (l : Loop) : Loop :=
  { l with missRun := 0, jumpRun := 0, lastRejected := none, pinnedRun := 0 }

/-- The next line opens (R23): its number, and no records yet. -/
def Loop.openNext (l : Loop) : Loop := { l with n := l.n + 1, records := [] }

end Sys2Proof.Machine
end

