-- ==== Sys2Proof/Machine/RefStates.lean ====
section
/-! DEFINITION. The reference state machine: its tests on forwarded records, the loss report, and the
transition at a line boundary (03_reference_states.md). -/

namespace Sys2Proof.Machine

/-- The consistent spacing of R49: d·256 within F_nom/64 of F_nom. -/
def consistentSpacing (sys : System) (edge last : Ts) : Bool :=
  decide ((tsDiff edge last * 256 - fNom sys).natAbs ≤ (fTol sys).natAbs)

/-- A run of evenly spaced pulses after one more edge (R49). -/
def runAfter (sys : System) (edge : Ts) (last : Option Ts) (run : Nat) : Nat :=
  match last with
  | none => 1
  | some prevEdge => if run ≠ 0 ∧ consistentSpacing sys edge prevEdge = true then run + 1 else 1

/-- A record forwarded in SEARCH (R49). -/
def Ref.searchRecord (sys : System) (r : LoopRecord) (x : Ref) : Ref :=
  if x.searchRun ≥ 8 then x
  else { x with searchRun := runAfter sys r.edge x.searchEdge x.searchRun, searchEdge := some r.edge }

/-- A record has decided the open HOLD line (R54). -/
def Ref.holdDecided (x : Ref) : Bool := x.anchor.isSome || decide (16 ≤ x.newRun)

/-- A record forwarded in HOLD (R54, R55): within 256 ticks it ends the new-source run and, unless POOR,
is a probe candidate; further away it is tested against the run. -/
def Ref.holdRecord (sys : System) (r : LoopRecord) (x : Ref) : Ref :=
  if x.holdDecided then x
  else if r.e.natAbs ≤ 256 then
    let y := { x with newRun := 0, newEdge := none }
    if r.grade = .poor then y else { y with anchor := some r.edge, probeLines := 0, probeTally := 0 }
  else { x with newRun := runAfter sys r.edge x.newEdge x.newRun, newEdge := some r.edge }

/-- A record in the window of the open probe line (R56). -/
def Ref.inProbeWindow (tape : Bool) (F : Int) (edge : Ts) (x : Ref) : Bool :=
  match x.anchor with
  | none => false
  | some a =>
    decide ((fineDiff (fineOf edge) (moveFine (fineOf a) ((x.probeLines + 1 : Nat) * F))).natAbs
      ≤ lockedGate tape * 256)

/-- A record forwarded in PROBE: the grade of the line's first in-window record is kept (R56). -/
def Ref.probeRecord (tape : Bool) (F : Int) (r : LoopRecord) (x : Ref) : Ref :=
  if x.probeFirst.isNone ∧ x.inProbeWindow tape F r.edge = true then { x with probeFirst := some r.grade } else x

/-- A record forwarded by the loop (R26). -/
def Ref.forward (sys : System) (tape : Bool) (F : Int) (r : LoopRecord) (x : Ref) : Ref :=
  match x.st with
  | .search => x.searchRecord sys r
  | .hold => x.holdRecord sys r
  | .probe => x.probeRecord tape F r
  | .acquire => x
  | .locked => x

/-- A sync-activity loss report (R48). -/
def Ref.takeLoss (x : Ref) : Ref :=
  match x.st with
  | .search => { x with searchRun := 0, searchEdge := none }
  | .hold => { x with newRun := 0, newEdge := none }
  | .acquire => { x with pendingLoss := true }
  | .locked => { x with pendingLoss := true }
  | .probe => { x with pendingLoss := true }

/-- A transition: the new state, the cause, and the anchor time if it anchors the loop (3, table). -/
structure Transition where
  dest : RefSt
  cause : RefCause
  anchor : Option FineTs
deriving DecidableEq, Repr

/-- The anchor time of R50: (last edge)·256 + F, and as many further F as bring it after the boundary
sample. -/
def anchorAfter (time edge : Ts) (F : Int) : FineTs :=
  let behind := fineDiff (fineOf time) (fineOf edge)
  moveFine (fineOf edge) (max 1 (behind / F + 1) * F)

/-- The quality run after an ACQUIRE line (R51). -/
def qualityAfter (c : Closing) (q : Nat) : Nat :=
  match c.used with
  | some r => if c.outcome.accepted = true ∧ r.e.natAbs ≤ 32 then satInc 64 q else 0
  | none => 0

/-- The transition of a SEARCH line (R50). -/
def Ref.leaveSearch (time : Ts) (F : Int) (x : Ref) : Option Transition :=
  match x.searchEdge with
  | some edge => if x.searchRun ≥ 8 then some ⟨.acquire, .sourceFound, some (anchorAfter time edge F)⟩ else none
  | none => none

/-- The transition of an ACQUIRE line: R52 in the order of its table, then R51. -/
def Ref.leaveAcquire (loss : Bool) (l : Loop) (fs : FieldSt) (x : Ref) : Option Transition :=
  if loss = true then some ⟨.search, .activityLost, none⟩
  else if l.pinnedRun ≥ 256 then some ⟨.search, .pinned, none⟩
  else if l.missRun ≥ 16 then some ⟨.search, .misses, none⟩
  else if x.quality ≥ 64 ∧ fs = .locked then some ⟨.locked, .lockConfirmed, none⟩
  else none

/-- The transition of a LOCKED line (R53). -/
def leaveLocked (tape loss : Bool) (l : Loop) : Option Transition :=
  if loss = true then some ⟨.hold, .activityLost, none⟩
  else if l.missRun ≥ missLimit tape then some ⟨.hold, .misses, none⟩
  else none

/-- The hold aging count has reached its limit (R58). -/
def Ref.aged (sys : System) (x : Ref) : Bool := decide (agingLimit sys ≤ x.aging)

/-- The transition of a HOLD line (R54, R55, R58). -/
def Ref.leaveHold (sys : System) (time : Ts) (F : Int) (x : Ref) : Option Transition :=
  match decide (x.newRun ≥ 16), x.newEdge with
  | true, some edge => some ⟨.acquire, .newSource, some (anchorAfter time edge F)⟩
  | _, _ =>
    if x.aged sys then some ⟨.search, .aged, none⟩
    else if x.anchor.isSome then some ⟨.probe, .candidate, none⟩
    else none

/-- The transition of a PROBE line (R57, R58; log 14 for a loss at the boundary at which the count runs
out). -/
def Ref.leaveProbe (sys : System) (loss : Bool) (F : Int) (x : Ref) : Option Transition :=
  if loss = true then
    if x.aged sys then some ⟨.search, .aged, none⟩ else some ⟨.hold, .activityLost, none⟩
  else
    match decide (x.probeLines ≥ 8 ∧ x.probeTally ≥ 6), x.anchor with
    | true, some a => some ⟨.locked, .probeConfirmed, some (moveFine (fineOf a) (9 * F))⟩
    | _, _ =>
      if x.aged sys then some ⟨.search, .aged, none⟩
      else if x.probeLines ≥ 8 then some ⟨.hold, .probeFailed, none⟩
      else none

/-- The counts of the machine after the line just closed (R51, R56, R58); pending loss is cleared (R48). -/
def Ref.countLine (c : Closing) (x : Ref) : Ref :=
  match x.st with
  | .search => { x with pendingLoss := false }
  | .acquire => { x with pendingLoss := false, quality := qualityAfter c x.quality }
  | .locked => { x with pendingLoss := false }
  | .hold => { x with pendingLoss := false, aging := x.aging + 1 }
  | .probe => { x with
      pendingLoss := false
      aging := x.aging + 1
      probeLines := satInc 8 x.probeLines
      probeTally := if x.probeFirst = some .good ∨ x.probeFirst = some .fair then satInc 8 x.probeTally else x.probeTally
      probeFirst := none }

/-- The transition that the counted machine makes at the boundary, if any (R59). -/
def Ref.transition (sys : System) (tape : Bool) (time : Ts) (fs : FieldSt) (loss : Bool) (l : Loop)
    (x : Ref) : Option Transition :=
  match x.st with
  | .search => x.leaveSearch time l.F
  | .acquire => x.leaveAcquire loss l fs
  | .locked => leaveLocked tape loss l
  | .hold => x.leaveHold sys time l.F
  | .probe => x.leaveProbe sys loss l.F

/-- The hold aging count after a transition (R58): 0 on entry to HOLD from LOCKED and on entry to LOCKED or
ACQUIRE. -/
def agingAfter (left dest : RefSt) (aging : Nat) : Nat :=
  if left = .locked ∨ dest = .locked ∨ dest = .acquire then 0 else aging

/-- The machine in its new state (R60): the runs are zero; a candidate's anchor goes on into PROBE. -/
def Ref.enter (tr : Transition) (x : Ref) : Ref :=
  { x with
    st := tr.dest
    searchRun := 0
    searchEdge := none
    quality := 0
    newRun := 0
    newEdge := none
    anchor := if tr.dest = .probe then x.anchor else none
    probeLines := 0
    probeTally := 0
    probeFirst := none
    aging := agingAfter x.st tr.dest x.aging }

/-- The loop at a transition: its runs, then the anchoring the transition calls for (R41, R60). -/
def Loop.transit (tr : Transition) (l : Loop) : Loop :=
  match tr.anchor with
  | some a => l.clearRuns.anchor a
  | none => l.clearRuns

end Sys2Proof.Machine
end

