-- ==== Sys2Proof/Machine/Tdu.lean ====
section
/-! DEFINITION. The Timing Delivery Unit: delivered lines and fields, the slip detector and the adjustment
queue (05_timing_delivered_to_the_computer.md). -/

namespace Sys2Proof.Machine

/-! ## The adjustment queue -/

/-- A host entry: SHIFT or RECENTRE (R92). -/
def AdjKind.isHost : AdjKind → Bool
  | .slip => false
  | .recentre => true
  | .shift _ => true

/-- The host entries in the queue (R92). -/
def Tdu.hostEntries (x : Tdu) : Nat := (x.queue.filter (fun e => e.kind.isHost)).length

/-- A SLIP stands in the queue (R91). -/
def Tdu.hasSlip (x : Tdu) : Bool := x.queue.any (fun e => e.kind == .slip)

/-- An entry placed at the tail. -/
def Tdu.place (k : AdjKind) (x : Tdu) : Tdu := { x with queue := x.queue ++ [⟨k, false⟩] }

/-- The shift excess with an amount added, saturating (R84). -/
def addExcess (excess amount : Int) : Int := clampInt (-32768) 32767 (excess + amount)

/-- A SHIFT request queued (R92): clamped to ±1024, the rest in the shift excess. -/
def Tdu.placeShift (amount : Int) (x : Tdu) : Tdu :=
  let a := clampInt (-1024) 1024 amount
  { x.place (.shift a) with shiftExcess := addExcess x.shiftExcess (amount - a) }

/-- The running state of a queue application (R93): the step T, the part Y of it, the working D and H_off,
the shift excess, the entries that stay and those that leave, and the amount allowed to a SLIP. -/
structure Applying where
  T : Int
  Y : Int
  D : Int
  hoff : Int
  excess : Int
  kept : List AdjEntry
  left : List AdjEntry
  slipDone : Option Int
deriving DecidableEq, Repr

/-- A SLIP or RECENTRE applied (R93). -/
def Applying.takeD (e : AdjEntry) (a : Applying) : Applying :=
  let allowed := clampInt (-stepLimit) stepLimit (a.T - a.D) - a.T
  { a with
    T := a.T + allowed
    Y := a.Y + allowed
    D := a.D + allowed
    left := a.left ++ [e]
    slipDone := if e.kind = .slip then some allowed else a.slipDone }

/-- The part of a SHIFT that is applied (R93), in whole ticks (log 13): reduced to the range of H_off, then
to the step limit. -/
def Applying.shiftPart (amount : Int) (a : Applying) : Int :=
  let inRange := clampInt (-2048) 2047 (a.hoff + amount) - a.hoff
  clampInt (ceilDiv (-stepLimit - a.T) 256) ((stepLimit - a.T) / 256) inRange

/-- A SHIFT applied (R93). -/
def Applying.takeShift (e : AdjEntry) (amount : Int) (a : Applying) : Applying :=
  let part := a.shiftPart amount
  { a with
    T := a.T + part * 256
    hoff := a.hoff + part
    excess := addExcess a.excess (amount - part)
    left := a.left ++ [e] }

/-- One entry of the queue, with the hold count (R93, R95). -/
def Applying.entry (hold : Nat) (a : Applying) (e : AdjEntry) : Applying :=
  match e.kind with
  | .shift amount => a.takeShift e amount
  | .slip => if hold = 0 then a.takeD e else { a with kept := a.kept ++ [e] }
  | .recentre => if hold = 0 then a.takeD e else { a with kept := a.kept ++ [e] }

/-- H_off as the last application left it, whether or not line 2 has begun (R94). An application starts from it, and not
from the H_off in force, where one is still awaited: DESIGN CHOICE (log 48), unsafe. -/
def Tdu.hoffAhead (x : Tdu) : Int := (x.newVals.map NewVals.hoff).getD x.hoff

/-- PPL as the last application left it. -/
def Tdu.pplAhead (x : Tdu) : Nat := (x.newVals.map NewVals.ppl).getD x.ppl

/-- The start of an application: a CONFIGURE's H_off step comes ahead of every entry (R93, R97). -/
def Tdu.applyStart (x : Tdu) : Applying :=
  let hoff := (x.pendCfg.map ConfigVals.hoff).getD x.hoffAhead
  { T := (hoff - x.hoffAhead) * 256, Y := 0, D := x.D, hoff := hoff, excess := x.shiftExcess, kept := [],
    left := [], slipDone := none }

/-- The whole application over the queue (R93). -/
def Tdu.applied (x : Tdu) : Applying := x.queue.foldl (Applying.entry x.holdCount) x.applyStart

/-- The values that govern from delivered line 2 after an application at the hand-over of line `n` (R94,
R97): from the line paired with reference line n + 2, whether or not R86 inserts a line before it (log 41). A new
change takes values still awaited with it to its own line 2: DESIGN CHOICE (log 48), unsafe. -/
def Tdu.newValsAfter (n : Nat) (a : Applying) (x : Tdu) : Option NewVals :=
  match x.pendCfg with
  | some c => some ⟨n + 2, c.ppl, a.hoff, some c.keyDelay⟩
  | none =>
    if a.hoff = x.hoffAhead then x.newVals
    else some ⟨n + 2, x.pplAhead, a.hoff, x.newVals.bind NewVals.keyDelay⟩

/-- A plan whose field has its application at the hand-over of line `n`, with its step (R90, R93). -/
def Plan.noteStep (n : Nat) (T : Int) (p : Plan) : Plan := { p with stepped := p.stepped || (p.line == n && T != 0) }

/-- The TDU after a queue application at the hand-over of line `n` (R90, R93 to R95, R97). The step is the delivered
line's that is paired with line n + 1, also in a field begun by the second case of R89 where delivered line n, its
length just fixed, has still to open: DESIGN CHOICE (log 57), unsafe. -/
def Tdu.applyQueue (n : Nat) (x : Tdu) : Tdu :=
  let a := x.applied
  { x with
    queue := a.kept
    shiftExcess := a.excess
    stepX := a.T
    stepY := a.Y
    newVals := x.newValsAfter n a
    pendCfg := none
    holdCount := x.holdCount - 1
    applyNext := false
    applyAt := if x.applyAt = some n then none else x.applyAt
    slipField := x.slipField || a.T != 0
    owed := x.owed.map (Plan.noteStep n a.T)
    plan := x.plan.noteStep n a.T }

/-- SLIP_DONE of an application (R96; the D remaining is the final working D, log 12). -/
def Applying.reports (fc : FieldCount) (a : Applying) : List Report :=
  (a.slipDone.map (fun allowed => Report.slipDone (ticksOf allowed) (ticksOf a.D) fc)).toList

/-! ## Delivered lines -/

/-- A quantity of R84's range −2^27..2^27−1, as a signed modular value (log 29). -/
def wrapFine (x : Int) : Int := (BitVec.ofInt 28 x).toInt

/-- K of a delivered line (R85). -/
def slewOf (tape : Bool) (c d : Int) : Int := clampInt (-slewLimit tape) (slewLimit tape) (c - d)

/-- The length of the delivered line of a hand-over, with and without its step (R85). -/
def Tdu.lineLength (tape : Bool) (F c : Int) (x : Tdu) : Int := F + slewOf tape c (x.D + x.stepY) + x.stepX

/-- D_{n+1} (R85). -/
def Tdu.nextD (tape : Bool) (c A : Int) (x : Tdu) : Int :=
  wrapFine (x.D + x.stepY + slewOf tape c (x.D + x.stepY) - c - A)

/-- A fixed length given to the line now open, or to the next line that has none (R85, R86). The pixel
edges not yet given are spread over what remains. -/
def OpenLine.fix (len : Int) (o : OpenLine) : OpenLine :=
  let last := o.pixel - 1
  { o with len := some len, baseIx := last, baseNum := (last : Int) * o.prov }

/-- The delivered line paired with reference line `n` gets its length (R85, R86). -/
def Tdu.fixLine (n : Nat) (len : Int) (x : Tdu) : Tdu :=
  match x.openLine with
  | some o =>
    if o.ref = some n ∧ o.len = none then
      { x with openLine := some (o.fix len), nextStart := moveFine o.start len }
    else { x with fixedLines := x.fixedLines ++ [⟨some n, len⟩], nextRef := n + 1 }
  | none => { x with fixedLines := x.fixedLines ++ [⟨some n, len⟩], nextRef := n + 1 }

/-- D at or below −3/4 of a line less H_off (R86). The H_off is the one in force: DESIGN CHOICE (log 40), unsafe,
where a new one waits for delivered line 2. -/
def Tdu.farEarly (F : Int) (x : Tdu) : Bool := decide (4 * (x.D + x.hoff * 256) ≤ -3 * F)

/-- The delivered line that R86 inserts, paired with no reference line (log 10). -/
def Tdu.insertLine (tape : Bool) (F : Int) (x : Tdu) : Tdu :=
  let d := wrapFine (x.D + F)
  let k := slewOf tape 0 d
  { x with D := wrapFine (d + k), fixedLines := x.fixedLines ++ [⟨none, F + k⟩], lastLen := F + k }

/-- R85 at the hand-over of reference line `n`: the line's length, and D_{n+1}; the step is spent. -/
def Tdu.formLine (tape : Bool) (n : Nat) (F c A : Int) (x : Tdu) : Tdu :=
  { x.fixLine n (x.lineLength tape F c) with
    D := x.nextD tape c A
    stepX := 0
    stepY := 0
    lastLen := x.lineLength tape F c - x.stepX }

/-- R85 and R86 at a hand-over. -/
def Tdu.formLines (tape : Bool) (n : Nat) (F c A : Int) (x : Tdu) : Tdu :=
  let y := x.formLine tape n F c A
  if y.farEarly F then y.insertLine tape F else y

/-- A line was inserted at the hand-over (R86). -/
def Tdu.inserts (tape : Bool) (n : Nat) (F c A : Int) (x : Tdu) : Bool := (x.formLine tape n F c A).farEarly F

/-- The slip detector count (R91). -/
def Tdu.detect (st : RefSt) (x : Tdu) : Nat :=
  if st = .acquire ∨ st = .locked then
    if 65536 < x.D.natAbs then satInc 3 x.slipDet else 0
  else 0

/-- The slip detector at a hand-over (R91, R96): the SLIP it places, and SLIP_PENDING. -/
def Tdu.detectSlip (st : RefSt) (fc : FieldCount) (x : Tdu) : Tdu × List Report :=
  let y := { x with slipDet := x.detect st }
  if y.slipDet ≥ 3 ∧ y.hasSlip = false then (y.place .slip, [.slipPending (ticksOf y.D) y.holdCount fc])
  else (y, [])

/-- What a hand-over gives: the unit, SLIP_PENDING if it is posted, the entries that left the queue,
SLIP_DONE if it is posted, and whether a line was inserted. -/
structure HandOver where
  tdu : Tdu
  pending : List Report
  left : List AdjEntry
  done : List Report
  inserted : Bool
deriving DecidableEq, Repr

/-- The queue is applied at this hand-over (R93): the line is that of the plan, or of an earlier plan whose boundary
stood when the tracker's came, or the hand-over is the first after the second case of R89. -/
def Tdu.appliesAt (n : Nat) (x : Tdu) : Bool := x.applyNext || x.applyAt == some n || x.plan.line == n

/-- The hand-over of reference line `n` with F, C, the anchor step and the state of line n+1 (R31, R85,
R86, R91, R93). Where R86 inserts a line, the slip detector and a queue application read the D that the inserted line
leaves: DESIGN CHOICE (log 65), unsafe. -/
def Tdu.handOver (tape : Bool) (n : Nat) (F c A : Int) (st : RefSt) (fc : FieldCount) (x : Tdu) : HandOver :=
  let inserted := x.inserts tape n F c A
  let (y, pend) := (x.formLines tape n F c A).detectSlip st fc
  if y.appliesAt n then ⟨y.applyQueue n, pend, y.applied.left, y.applied.reports fc, inserted⟩
  else ⟨y, pend, [], [], inserted⟩

/-- H_off for the delivered line paired with reference line `n` (R94, R98). -/
def Tdu.hoffFor (n : Nat) (x : Tdu) : Int :=
  match x.newVals with
  | some v => if v.line ≤ n then v.hoff else x.hoff
  | none => x.hoff

/-- PPL for the delivered line paired with reference line `n` (R97, R98). -/
def Tdu.pplFor (n : Nat) (x : Tdu) : Nat :=
  match x.newVals with
  | some v => if v.line ≤ n then v.ppl else x.ppl
  | none => x.ppl

/-! ## Delivered line starts -/

/-- The reference line paired with the delivered line that opens next. -/
def Tdu.nextLineRef (x : Tdu) : Option Nat :=
  match x.fixedLines with
  | l :: _ => l.ref
  | [] => some x.nextRef

/-- The new values take effect at the start of delivered line 2 (R94, R97). -/
def Tdu.commits (x : Tdu) : Option NewVals :=
  match x.newVals, x.nextLineRef with
  | some v, some n => if v.line ≤ n then some v else none
  | _, _ => none

/-- The unit with the new values in force, if they now take effect. -/
def Tdu.commit (x : Tdu) : Tdu :=
  match x.commits with
  | some v => { x with hoff := v.hoff, ppl := v.ppl, newVals := none }
  | none => x

/-- A delivered line can start: the line before has its length (R86). -/
def Tdu.canStart (x : Tdu) : Bool :=
  match x.openLine with
  | some o => o.len.isSome
  | none => true

/-- The next delivered line opens at the next start (R85, R86, R99). -/
def Tdu.openNextLine (x : Tdu) : Tdu :=
  match x.fixedLines with
  | l :: rest => { x with
      openLine := some ⟨l.ref, x.nextStart, x.ppl, some l.len, l.len, 0, 0, 0, 0, none⟩
      fixedLines := rest
      nextStart := moveFine x.nextStart l.len }
  | [] => { x with
      openLine := some ⟨some x.nextRef, x.nextStart, x.ppl, none, x.lastLen + x.stepX, 0, 0, 0, 0, none⟩
      nextRef := x.nextRef + 1 }

/-- A half-line passes (R88): a line start or a half-line point after the boundary. -/
def Tdu.halfLine (x : Tdu) : Tdu := { x with vsyncLeft := x.vsyncLeft - 1 }

/-- The start of a delivered line: HSYNC is asserted (R87), the new values take effect, a half-line
passes. -/
def Tdu.startLine (x : Tdu) : Tdu := { x.commit.openNextLine.halfLine with hsync := true }

/-! ## Delivered fields -/

/-- The boundary is given (R88): VSYNC, FIELD and the slip-field flag, which is cleared unless the new field
already has its step or is realigned (R90, log 8). -/
def Tdu.giveField (sys : System) (parity : Parity) (slip : Bool) (x : Tdu) : Tdu :=
  { x with vsync := true, vsyncLeft := vsyncHalfLines sys, delParity := parity, slipField := slip }

/-- The open delivered line is paired with reference line `n` or a later one. -/
def Tdu.reached (n : Nat) (x : Tdu) : Bool :=
  match x.openLine.bind OpenLine.ref with
  | some r => decide (n ≤ r)
  | none => false

/-- The open delivered line is paired with reference line `n`. -/
def Tdu.atLine (n : Nat) (x : Tdu) : Bool := x.openLine.bind OpenLine.ref == some n

/-- The parity of the boundary that can be given on the open line, if any (R88, R89; log 9). One found early comes before
one still owed: DESIGN CHOICE (log 73), unsafe. -/
def Tdu.toGive (x : Tdu) : Option Parity :=
  if x.openLine.isNone then none
  else match x.early with
    | some p => some p
    | none =>
      match x.owed with
      | some o => if x.reached o.line then some o.parity else none
      | none => if x.plan.given = false ∧ x.atLine x.plan.line = true then some x.plan.parity else none

/-- A delivered boundary is given (R88, R89). Where one found early meets one still owed, the early one is given first and
the owed one after it, at its own place, where it sets FIELD and the slip-field flag anew: DESIGN CHOICE (log 73),
unsafe. -/
def Tdu.give (sys : System) (x : Tdu) : Tdu :=
  if x.toGive.isNone then x
  else match x.early with
    | some p => { x.giveField sys p true with early := none }
    | none =>
      match x.owed with
      | some o => { x.giveField sys o.parity o.stepped with owed := none }
      | none => { x.giveField sys x.plan.parity x.plan.stepped with plan := { x.plan with given := true } }

/-- The slip-field flag as the delivered line that has just begun finds it (R90, R167): set as it stands, or set by the FIRST
boundary that is given at that very start, of whose field the line is line 0 (R88, R89). That the latter counts for this
line and not only from the next: DEDUCED (log 68), unsafe. -/
def Tdu.slipAtStart (sys : System) (x : Tdu) : Bool :=
  x.slipField || (x.toGive == some .first && (x.give sys).slipField)

/-- The next plan (R88). -/
def nextPlan (sys : System) (line0 : Nat) (parity : Parity) : Plan :=
  ⟨line0 + nominalCount sys parity, oppParity parity, false, false⟩

/-- A boundary from the tracker agrees with the plan (R89). -/
def Plan.agrees (line0 : Nat) (parity : Parity) (p : Plan) : Bool := p.line == line0 && p.parity == parity

/-- The plan gives way to the next one with line `n` open. Its boundary has been given or stays owed, so its field has
its queue application still to come if its line has not been handed over (R93). -/
def Tdu.replan (n : Nat) (next : Plan) (x : Tdu) : Tdu :=
  { x with plan := next, applyAt := if n ≤ x.plan.line then some x.plan.line else x.applyAt }

/-- A boundary handed over by the Field Tracker with line `n` open (R88 to R90, R93). A planned boundary withdrawn
after its line's hand-over has applied the queue leaves the application of the second case of R89 due all the same:
DESIGN CHOICE (log 58), unsafe. -/
def Tdu.takeBoundary (sys : System) (n line0 : Nat) (parity : Parity) (slipMark : Bool) (x : Tdu) : Tdu :=
  let next := nextPlan sys line0 parity
  if x.plan.agrees line0 parity then
    if x.plan.given then { x.replan n next with slipField := x.slipField || slipMark }
    else { x.replan n next with owed := some { x.plan with stepped := x.plan.stepped || slipMark } }
  else if x.plan.given then { x.replan n next with delParity := parity, slipField := true }
  else { x with early := some parity, applyNext := true, plan := next }

/-! ## Pixel clock edges -/

/-- The exact place of the next pixel clock edge of the open line, rounded to a tick by R (R3, R86). -/
def OpenLine.placeTick (o : OpenLine) : Ts :=
  let den := o.ppl - o.baseIx
  let base := (o.start.toNat : Int) * o.ppl + o.baseNum
  let left := o.len.getD o.prov * o.ppl - o.baseNum
  BitVec.ofInt 20 (roundR (base * den + ((o.pixel : Int) - o.baseIx) * left) (256 * o.ppl * den))

/-- The tick of the next pixel clock edge (R86; log 11): the nearest to its exact place at which its period differs
from the one before by at most a tick. -/
def OpenLine.edgeTick (o : OpenLine) : Ts :=
  match o.period with
  | none => o.placeTick
  | some p => o.edge + BitVec.ofInt 20 (clampInt (p - 1) (p + 1) (tsDiff o.placeTick o.edge))

/-- The next pixel clock edge given. -/
def OpenLine.giveEdge (o : OpenLine) : OpenLine :=
  { o with
    pixel := o.pixel + 1
    edge := o.edgeTick
    period := if o.pixel = 0 then none else some (tsDiff o.edgeTick o.edge) }

/-- HSYNC lasts floor(PPL/14) pixel clock periods (R87). -/
def hsyncPixels (ppl : Nat) : Nat := ppl / 14

/-- A pixel clock edge of the open line: the next pixel begins. -/
def Tdu.stepPixel (x : Tdu) : Tdu :=
  match x.openLine with
  | some o =>
    let y := { x with openLine := some o.giveEdge }
    if o.pixel = o.ppl / 2 then y.halfLine else y
  | none => x

end Sys2Proof.Machine
end

