-- ==== Sys2Proof/Machine/Boundary.lean ====
section
/-! DEFINITION. What passes between the blocks: records, line boundaries, field boundaries and losses (R15,
R16, R23, R31, R60, R78, R98, R133, R154). -/

namespace Sys2Proof.Machine

/-! ## Views -/

/-- FC. -/
def State.fc (s : State) : FieldCount := s.time.ft.fc

/-- The line system. -/
def State.sys (s : State) : System := s.straps.sys

/-- The PPL that CONFIGURE gave, whether or not it governs yet (R138, R159). -/
def Tdu.configuredPpl (x : Tdu) : Nat := (x.pendCfg.map ConfigVals.ppl).getD x.pplAhead

/-- What the bus interface reads when an attempt begins. -/
def State.busView (s : State) : BusView where
  stn := s.straps.stn
  st := s.time.ref.st
  fs := s.time.ft.fs
  parity := s.time.ft.parity
  fc := s.fc
  F := s.time.loop.F
  hoff := s.time.tdu.hoff
  ppl := s.time.tdu.configuredPpl

/-- The claim half changed. -/
def State.onDesk (f : Desk → Desk) (s : State) : State := { s with desk := f s.desk }

/-- The time half changed. -/
def State.onTime (f : Timebase → Timebase) (s : State) : State := { s with time := f s.time }

/-- The host port changed. -/
def State.onHp (f : Hp → Hp) (s : State) : State := s.onDesk (fun d => { d with hp := f d.hp })

/-! ## Field boundaries (R78) -/

/-- The claim half at a field boundary, on the tracker's new values: allowance and beacon, cues, peers, the
snapshot, and the Keyer's stop (R78, R133, R145, R154, R168). The order of the bus interface, the Cue Engine and the
Peer Table, after the tracker's reports, is a DESIGN CHOICE (log 39), unsafe. -/
def Desk.fieldBoundary (sys : System) (stn : Station) (fc : FieldCount) (parity : Parity) (line : Nat)
    (d : Desk) : Desk :=
  (((((d.cbiBoundary sys parity line).ceBoundary fc).ptBoundary fc stn).snapshot fc).releaseStop)

/-- The time half at a field boundary (R73 to R75, R78). -/
def Timebase.takeField (sys : System) (tk : Taking) (t : Timebase) : Timebase :=
  let ft := t.ft.take sys t.ref.st tk
  { t with
    ft := ft
    tdu := t.tdu.takeBoundary sys t.loop.n (t.loop.n - ft.counter) ft.parity (t.ft.slipMark t.ref.st tk) }

/-- A field boundary is taken (R73 to R81). -/
def State.takeField (tk : Taking) (s : State) : State :=
  let t := s.time.takeField s.sys tk
  let reports := s.time.ft.reports s.sys s.time.ref.st tk t.ft
  { s with
    time := t
    desk := (s.desk.postAll t.ft.fc reports).fieldBoundary s.sys s.straps.stn t.ft.fc t.ft.parity t.ft.counter }

/-! ## Records (R15, R16) -/

/-- The loop's copy of a record: kept for the line, and forwarded in a state without a gate (R24, R26). -/
def Timebase.offerLoop (sys : System) (tape : Bool) (r : LoopRecord) (t : Timebase) : Timebase :=
  { t with
    loop := { t.loop with records := t.loop.records ++ [r] }
    ref := t.ref.forward sys tape t.loop.F r }

/-- A record at the loop, if it is offered there (R15, R16). -/
def Timebase.routeLoop (sys : System) (tape : Bool) (r : PulseRecord) (t : Timebase) : Timebase :=
  match r.forLoop with
  | some lr => t.offerLoop sys tape lr
  | none => t

/-- A pulse record handed on by the SFE (R15, R16, R70, R72). -/
def State.takeRecord (r : PulseRecord) (s : State) : State :=
  let y := s.onTime (Timebase.routeLoop s.sys s.straps.tape r)
  let (ft, tk) := y.time.ft.takeRecord s.sys s.straps.tape y.time.loop.F y.time.loop.n r
  let z := y.onTime (fun t => { t with ft := ft })
  match tk with
  | some b => z.takeField b
  | none => z

/-! ## Line boundaries (R23, R31, R60) -/

/-- The loop and the machine at a line boundary: the line closed, the counts, and the transition if one is
made (R23, R59, R60). -/
structure LineClose where
  loop : Loop
  ref : Ref
  tr : Option Transition
  step : Int
deriving DecidableEq, Repr

/-- R23 with R59 and R60. -/
def Timebase.closeLine (sys : System) (tape : Bool) (time : Ts) (t : Timebase) : LineClose :=
  let c := t.loop.closeLine sys tape t.ref.st
  let counted := t.ref.countLine c
  match counted.transition sys tape time t.ft.fs t.ref.pendingLoss c.loop with
  | none => ⟨c.loop, counted, none, Closing.anchorStep c.flywheel c.loop⟩
  | some tr =>
    let l := c.loop.transit tr
    ⟨l, counted.enter tr, some tr, Closing.anchorStep c.flywheel l⟩

/-- The reports of a transition (R61). -/
def transitionReports (sys : System) (fc : FieldCount) (left : RefSt) (F : Int) (tr : Transition) : List Report :=
  [.refState tr.dest left tr.cause fc] ++
  (if tr.cause = .pinned then [.freqRange F (decide (F = fMax sys))] else [])

/-- The RECENTRE latch converted, when there is room in the queue (R63). -/
def Timebase.convertLatch (t : Timebase) : Timebase :=
  if t.ref.latch ∧ t.tdu.hostEntries < 3 then
    { t with ref := { t.ref with latch := false }, tdu := t.tdu.place .recentre }
  else t

/-- The latch at a line boundary that enters LOCKED (R63). -/
def Timebase.latchOnEntry (tr : Option Transition) (t : Timebase) : Timebase :=
  match tr with
  | some x => if x.dest = .locked then t.convertLatch else t
  | none => t

/-- The latch when host entries have left the queue with the station LOCKED (R63, R92). -/
def Timebase.latchOnLeave (left : List AdjEntry) (t : Timebase) : Timebase :=
  if t.ref.st = .locked ∧ left.any (fun e => e.kind.isHost) = true then t.convertLatch else t

/-- The loop and the machine take the closed line (R23, R60). -/
def State.closeLine (time : Ts) (s : State) : State × LineClose :=
  let c := s.time.closeLine s.sys s.straps.tape time
  let reports := match c.tr with
    | some tr => transitionReports s.sys s.fc s.time.ref.st c.loop.F tr
    | none => []
  (({ s with
      time := { s.time with loop := c.loop, ref := c.ref }
      desk := s.desk.postAll s.fc reports }).onTime (Timebase.latchOnEntry c.tr), c)

/-- The hand-over of a line to the TDU (R31), with its notices (R63, R92, R93, R96, R181). -/
def State.handOver (step : Int) (s : State) : State × Bool :=
  let h := s.time.tdu.handOver s.straps.tape s.time.loop.n s.time.loop.F s.time.loop.C step s.time.ref.st s.fc
  ({ s with
      time := { s.time with tdu := h.tdu }.latchOnLeave h.left
      desk := ((s.desk.postAll s.fc h.pending).itemsLeft s.fc (h.left.map AdjEntry.marked)).postAll s.fc h.done },
   h.inserted)

/-- The hand-over of a line boundary to the Field Tracker, which opens the next line (R31, R67, R111). -/
def State.openLine (s : State) : State :=
  let ft := s.time.ft.stepLine s.sys
  { s with
    time := { s.time with loop := s.time.loop.openNext, ft := ft }
    desk := s.desk.cbiLine s.sys ft.parity ft.counter }

/-- The coasted boundary at a line boundary, if it is due (R74): `before` is the tracker as it closed the
line. -/
def State.coast (before : Ft) (s : State) : State :=
  if before.coastsNow s.sys s.straps.tape then s.takeField (before.coastTaking s.sys) else s

/-- The values of the delivered line paired with the line now open (R157). -/
def Timebase.lineVals (t : Timebase) : LineVals where
  F := t.loop.F
  D := t.tdu.D
  hoff := t.tdu.hoffFor t.loop.n
  ppl := t.tdu.pplFor t.loop.n

/-- The span list of the next delivered line (R86, R157), with the slip-field flag as it stands at this hand-over (R98,
R164). The Keyer reads the flag again when the line begins (Tdu.slipAtStart). -/
def State.buildList (inserted : Bool) (s : State) : State :=
  let v := s.time.lineVals
  let ft := s.time.ft
  let slip := s.time.tdu.slipField
  let key := keyableLine s.sys ft.parity ft.counter
  s.onDesk (fun d =>
    let sb := if inserted then d.sb.buildInserted v ft.counter slip ft.parity else d.sb
    { d with sb := sb.build s.straps.stn v ft.counter key slip ft.parity })

/-- The line boundary of the open line, at a sample with this timestamp (R23, R31, R60, R74, R98). A latched RECENTRE
enters the queue on the entry to LOCKED, before a host entry leaves the queue in the same work (R63): DESIGN CHOICE
(log 37), unsafe. The span list is built after a coasted boundary of the same event, on what that leaves: DESIGN CHOICE
(log 54), unsafe. -/
def State.lineWork (time : Ts) (s : State) : State :=
  let (closed, c) := s.closeLine time
  let (handed, inserted) := closed.handOver c.step
  ((handed.openLine).coast s.time.ft).buildList inserted

/-- The open line can be closed: no pulse of it is in progress (R23). -/
def State.lineFree (s : State) : Bool := !s.time.sfe.holdsLine s.time.loop.n

/-- The line boundary, if nothing holds it (R23). -/
def State.lineBoundary (time : Ts) (s : State) : State := if s.lineFree then s.lineWork time else s

/-! ## Losses and pulses -/

/-- The monitor enters LOST and the state machine is told (R17, R18, R48). -/
def State.loseActivity (s : State) : State :=
  if s.time.sfe.active then s.onTime (fun t => { t with sfe := t.sfe.lose, ref := t.ref.takeLoss }) else s

/-- A falling crossing (R7). -/
def State.falling (time : Ts) (before now : Code) (s : State) : State :=
  if s.time.sfe.falls before now then
    s.onTime (fun t => { t with sfe := t.sfe.startPulse time before now (takeSnapshot s.straps.tape t) })
  else s

/-- A rising crossing of the pulse in progress (R9, R10); none is recognised while the slicer is disabled (R6). -/
def State.rising (time : Ts) (before now : Code) (tipSum : Nat) (s : State) : State :=
  match s.time.sfe.pulse with
  | some p =>
    if s.time.sfe.rises before now then
      let (sfe, r) := s.time.sfe.endPulse time tipSum p
      let y := s.onTime (fun t => { t with sfe := sfe })
      match r with
      | some x => y.takeRecord x
      | none => y
    else s
  | none => s

/-- The pulse in progress at its 401st sample at or below T (R10). While the slicer is disabled no record is issued (R6);
with a pulse in progress it is enabled. -/
def State.broad (time : Ts) (s : State) : State :=
  match s.time.sfe.pulse with
  | some p =>
    if time = p.start + 6400 ∧ s.time.sfe.slicerOn = true then
      (s.onTime (fun t => { t with sfe := { t.sfe with pulse := none } })).takeRecord (p.record .broad 401)
    else s
  | none => s

end Sys2Proof.Machine
end

