-- ==== Sys2Proof/Machine/Bus.lean ====
section
/-! DEFINITION. The meanings of the events of the claim bus (06_the_claim_bus.md,
07_peers_and_their_claims.md) and of the TRIG pin (R149). -/

namespace Sys2Proof.Machine

/-- TRIG_FALLING_EDGE (R149). -/
def execTrigFallingEdge (s : State) : Host.Outcome State Fault Refusal :=
  .next (s.running (State.onDesk (fun d => { d with ce := d.ce.triggerEdge })))

/-- BUS_IDLE (R102, R110). -/
def execBusIdle (s : State) : Host.Outcome State Fault Refusal :=
  .next (s.running (State.onDesk Desk.becomeIdle))

/-- BUS_FIRST_FALL (R101, R102, R104, R109, R110). -/
def execBusFirstFall (s : State) : Host.Outcome State Fault Refusal :=
  .next (s.running (fun x => x.onDesk (Desk.firstFall x.busView)))

/-- ARBITRATION_LOST (R106). -/
def execArbitrationLost (s : State) : Host.Outcome State Fault Refusal :=
  .next (s.running (fun x => x.onDesk (Desk.loseAccess x.fc)))

/-- ARBITRATION_WON (R106, R109, R110). -/
def execArbitrationWon (s : State) : Host.Outcome State Fault Refusal :=
  .next (s.running (fun x => x.onDesk (Desk.winAccess x.fc)))

/-- ATTEMPT_SUCCEEDED (R108). -/
def execAttemptSucceeded (s : State) : Host.Outcome State Fault Refusal :=
  .next (s.running (fun x => x.onDesk (Desk.succeedAttempt x.fc)))

/-- ATTEMPT_FAILED (R108): by a collision, or by an objection. -/
def execAttemptFailed (collision : Bool) (s : State) : Host.Outcome State Fault Refusal :=
  .next (s.running (fun x => x.onDesk (Desk.failAttempt x.fc collision)))

/-- FRAME_ERROR (R107, R119). -/
def execFrameError (err : FrameFault) (s : State) : Host.Outcome State Fault Refusal :=
  .next (s.running (State.onDesk (Desk.withCbi (Cbi.findError err))))

/-- FRAME_TRUNCATED (R116, R119). -/
def execFrameTruncated (s : State) : Host.Outcome State Fault Refusal :=
  .next (s.running (State.onDesk (Desk.withCbi Cbi.truncate)))

/-- FRAME_OBJECTED (R107). -/
def execFrameObjected (s : State) : Host.Outcome State Fault Refusal :=
  .next (s.running (State.onDesk (Desk.withCbi Cbi.seeObjection)))

/-- The Field Tracker's part of a good beacon (R79, R123). -/
def State.gather (sender : Station) (b : Beacon) (s : State) : State :=
  s.onTime (fun t => { t with ft := t.ft.gather sender b })

/-- A good beacon of a peer, while a frame can be accepted (R79, R107, R118, R123). -/
def State.beaconIn (sender : Station) (payload : BitVec 64) (s : State) : State :=
  match decodeBeacon payload with
  | some b =>
    let y := s.onDesk (Desk.accept s.fc s.straps.stn sender 1 (Desk.takeBeacon s.fc sender b))
    if s.desk.cbi.canAccept ∧ sender ≠ s.straps.stn then y.gather sender b else y
  | none => s.onDesk (Desk.accept s.fc s.straps.stn sender 1 id)

/-- BEACON_RECEIVED (R107, R118, R123). -/
def execBeaconReceived (sender : Station) (payload : BitVec 64) (s : State) : Host.Outcome State Fault Refusal :=
  .next (s.running (State.beaconIn sender payload))

/-- CLAIM_RECEIVED (R107, R118, R125). -/
def execClaimReceived (sender : Station) (payload : BitVec 72) (s : State) : Host.Outcome State Fault Refusal :=
  .next (s.running (fun x => x.onDesk (Desk.accept x.fc x.straps.stn sender 2
    (Desk.withPt (Pt.takeClaim sender (decodeClaim payload).1 (decodeClaim payload).2)))))

/-- WITHDRAW_RECEIVED (R107, R118, R127). -/
def execWithdrawReceived (sender : Station) (payload : BitVec 8) (s : State) : Host.Outcome State Fault Refusal :=
  .next (s.running (fun x => x.onDesk (Desk.accept x.fc x.straps.stn sender 3
    (Desk.withPt (Pt.takeWithdraw sender (decodeWithdraw payload))))))

/-- RECALL_RECEIVED (R107, R118, R130). -/
def execRecallReceived (sender : Station) (payload : BitVec 16) (s : State) : Host.Outcome State Fault Refusal :=
  .next (s.running (fun x => x.onDesk (Desk.accept x.fc x.straps.stn sender 4
    (Desk.takeRecall x.straps.stn (decodeRecall payload).1 (decodeRecall payload).2))))

/-- CLEAR_RECEIVED (R107, R118, R134). -/
def execClearReceived (sender : Station) (s : State) : Host.Outcome State Fault Refusal :=
  .next (s.running (fun x => x.onDesk (Desk.accept x.fc x.straps.stn sender 5 (Desk.takeClear x.fc sender))))

/-- BUS_FAULT_ENTER (R117). -/
def execBusFaultEnter (s : State) : Host.Outcome State Fault Refusal :=
  .next (s.running (fun x => x.onDesk (Desk.enterFault x.fc)))

/-- BUS_FAULT_CLEARED (R111, R117). -/
def execBusFaultCleared (s : State) : Host.Outcome State Fault Refusal :=
  .next (s.running (fun x => x.onDesk (Desk.leaveFault x.sys x.fc x.time.ft.parity x.time.ft.counter)))

end Sys2Proof.Machine
end

