-- ==== Sys2Proof/Machine/Delivered.lean ====
section
/-! DEFINITION. The meanings of the events of delivered timing and of the Keyer
(05_timing_delivered_to_the_computer.md, 10_the_keyer.md). -/

namespace Sys2Proof.Machine

/-- The Keyer takes a new key delay with the values of delivered line 2 (R97, R171). -/
def Desk.takeKeyDelay (k : Option Nat) (d : Desk) : Desk :=
  match k with
  | some n => { d with ky := d.ky.setDelay n }
  | none => d

/-- The start of a delivered line (R85, R87, R90, R94, R97, R164, R167). -/
def State.startLine (s : State) : State :=
  let k := s.time.tdu.commits.bind NewVals.keyDelay
  let tdu := s.time.tdu.startLine
  (s.onTime (fun t => { t with tdu := tdu })).onDesk
    (fun d => (d.takeKeyDelay k).keyerLine s.time.ref.st (tdu.slipAtStart s.sys))

/-- DELIVERED_LINE_START (R87, R167): once the line before has its length (log 2). -/
def execDeliveredLineStart (s : State) : Host.Outcome State Fault Refusal :=
  .next (s.running (fun x => if x.time.tdu.canStart then x.startLine else x))

/-- HSYNC_END (R87). -/
def execHsyncEnd (s : State) : Host.Outcome State Fault Refusal :=
  .next (s.running (State.onTime (fun t => { t with tdu := { t.tdu with hsync := false } })))

/-- DELIVERED_BOUNDARY_GIVEN (R88, R89): on a delivered line on which a boundary can be given (log 2). -/
def execDeliveredBoundaryGiven (s : State) : Host.Outcome State Fault Refusal :=
  .next (s.running (fun x => x.onTime (fun t => { t with tdu := t.tdu.give x.sys })))

/-- VSYNC_END (R88). -/
def execVsyncEnd (s : State) : Host.Outcome State Fault Refusal :=
  .next (s.running (State.onTime (fun t => { t with tdu := { t.tdu with vsync := false, vsyncLeft := 0 } })))

/-- The pixel clock edge that begins the next pixel of the open line (R86, R170, R171). -/
def State.pixelEdge (transp : Bool) (s : State) : State :=
  match s.time.tdu.openLine with
  | some o =>
    if o.pixel < o.ppl then
      (s.onDesk (Desk.keyPixel transp o.pixel)).onTime (fun t => { t with tdu := t.tdu.stepPixel })
    else s
  | none => s

/-- PIXEL_CLOCK_EDGE (R170, R171). -/
def execPixelClockEdge (transp : Bool) (s : State) : Host.Outcome State Fault Refusal :=
  .next (s.running (State.pixelEdge transp))

end Sys2Proof.Machine
end

