-- ==== Sys2Proof/Machine/Lines.lean ====
section
/-! DEFINITION. The meanings of LINE_BOUNDARY and of the two events that fall at one (R23, R58, R74; log 6). -/

namespace Sys2Proof.Machine

/-- LINE_BOUNDARY (R23). -/
def execLineBoundary (time : Ts) (s : State) : Host.Outcome State Fault Refusal :=
  .next (s.running (State.lineBoundary time))

/-- The hold aging count reaches its limit at the boundary of the open line (R58). -/
def State.agesOut (s : State) : Bool :=
  (s.time.ref.st == .hold || s.time.ref.st == .probe) && decide (agingLimit s.sys ≤ s.time.ref.aging + 1)

/-- HOLD_AGING_RUNS_OUT (R58): the line boundary at which the count reaches its limit (log 6). -/
def execHoldAgingRunsOut (time : Ts) (s : State) : Host.Outcome State Fault Refusal :=
  .next (s.running (fun x => if x.agesOut then x.lineBoundary time else x))

/-- COASTED_BOUNDARY (R74): the line boundary that brings one (log 6). -/
def execCoastedBoundary (time : Ts) (s : State) : Host.Outcome State Fault Refusal :=
  .next (s.running (fun x => if x.time.ft.coastsNow x.sys x.straps.tape then x.lineBoundary time else x))

end Sys2Proof.Machine
end

