-- ==== Sys2Proof/WellFormed.lean ====
section
/-! DEFINITION. What a command must satisfy to be one the outside world can give. The meanings are total
and do not rely on it. -/

namespace Sys2Proof

/-- Sample timestamps are whole multiples of 16 ticks (R4). -/
def sampleTimeOk (t : Ts) : Bool := t.toNat % 16 == 0

/-- A sum of 32 sample codes of 0..255 (R11, R12). -/
def sampleSumOk (sum : Nat) : Bool := decide (sum ≤ 32 * 255)

/-- A kind and length byte that the framer refuses (R175). -/
def malformedPair (kind length : Byte) : Bool := Machine.requestLength kind != some length.toNat

/-- Well-formedness of a command's operands. -/
def Instr.wellFormed : Instr → Bool
  | .hardwareReset => true
  | .resetRelease _ _ _ => true
  | .levelSearchWindowEnd lowest highest => decide (lowest.toNat ≤ highest.toNat)
  | .fallingCrossing time before now => sampleTimeOk time && decide (now.toNat < before.toNat)
  | .risingCrossing time before now tipSum =>
      sampleTimeOk time && decide (before.toNat < now.toNat) && sampleSumOk tipSum
  | .broadClassified time => sampleTimeOk time
  | .blankReading time sum => sampleTimeOk time && sampleSumOk sum
  | .syncActivityLoss => true
  | .lineBoundary time => sampleTimeOk time
  | .holdAgingRunsOut time => sampleTimeOk time
  | .coastedBoundary time => sampleTimeOk time
  | .deliveredLineStart => true
  | .hsyncEnd => true
  | .deliveredBoundaryGiven => true
  | .vsyncEnd => true
  | .trigFallingEdge => true
  | .busIdle => true
  | .busFirstFall => true
  | .arbitrationLost => true
  | .arbitrationWon => true
  | .attemptSucceeded => true
  | .attemptFailed _ => true
  | .frameError _ => true
  | .frameTruncated => true
  | .beaconReceived _ _ => true
  | .claimReceived _ _ => true
  | .withdrawReceived _ _ => true
  | .recallReceived _ _ => true
  | .clearReceived _ => true
  | .busFaultEnter => true
  | .busFaultCleared => true
  | .malformedRequest kind length => malformedPair kind length
  | .configure _ _ _ _ => true
  | .reinit => true
  | .statusQuery => true
  | .loadCue _ => true
  | .freeCue _ => true
  | .startChain _ _ => true
  | .pauseChain _ => true
  | .resumeChain _ => true
  | .abortChain _ => true
  | .withdrawCue _ => true
  | .clearAll => true
  | .shift _ => true
  | .recentre => true
  | .holdSlips _ => true
  | .fence => true
  | .reportTransferStart => true
  | .reportTransferEnd => true
  | .pixelClockEdge _ => true
  | .frameObjected => true
  | .requestByteStrobe _ => true
  | .reportByteAcknowledge _ => true

end Sys2Proof
end

