-- ==== Sys2Proof/Machine/Port.lean ====
section
/-! DEFINITION. The meanings of the byte events of the host port (R173, R175, R183). -/

namespace Sys2Proof.Machine

/-- The refusal of a malformed record (R175, R176). -/
def State.refuseMalformed (kind : Byte) (s : State) : State :=
  s.onDesk (Desk.refuse s.fc kind (malformedReason kind))

/-- MALFORMED_REQUEST (R175): refused when the length byte is read, and that many bytes are skipped. -/
def execMalformedRequest (kind length : Byte) (s : State) : Host.Outcome State Fault Refusal :=
  .next (s.running (fun x =>
    if malformedPair kind length then (x.onHp (Hp.skipRecord length)).refuseMalformed kind else x))

/-- REPORT_TRANSFER_START (R183). -/
def execReportTransferStart (s : State) : Host.Outcome State Fault Refusal :=
  .next (s.running (State.onHp Hp.startTransfer))

/-- REPORT_TRANSFER_END (R183): the last byte is acknowledged (log 2). -/
def execReportTransferEnd (s : State) : Host.Outcome State Fault Refusal :=
  .next (s.running (State.onHp (fun h => if h.atLastByte then h.acknowledge else h)))

/-- REQUEST_BYTE_STROBE (R173). -/
def execRequestByteStrobe (edge : StrobeEdge) (s : State) : Host.Outcome State Fault Refusal :=
  .next (s.running (State.onHp (fun h =>
    match edge with
    | .asserted b => h.strobe b
    | .released => h.unstrobe)))

/-- REPORT_BYTE_ACKNOWLEDGE (R183). -/
def execReportByteAcknowledge (asserted : Bool) (s : State) : Host.Outcome State Fault Refusal :=
  .next (s.running (State.onHp (fun h => if asserted then h.acknowledge else h.unacknowledge)))

end Sys2Proof.Machine
end

