-- ==== Sys2Proof/Machine/Requests.lean ====
section
/-! DEFINITION. The meanings of the requests of the host (R176, R178 to R181 and the rules of the blocks that
own them). -/

namespace Sys2Proof.Machine

/-- A taken request: judged by R176, and handed on if it passes. -/
def State.request (kind : Byte) (f : State → State) (s : State) : State :=
  match s.desk.refusalOf kind with
  | some reason => s.onDesk (Desk.refuse s.fc kind reason)
  | none => f s

/-! ## CONFIGURE, REINIT, STATUS_QUERY, FENCE -/

/-- PPL clamped to 640..1280 (R178). -/
def clampPpl (x : BitVec 16) : Nat := max 640 (min 1280 x.toNat)

/-- The values of CONFIGURE for the TDU, clamped (R178). -/
def configVals (ppl hoff : BitVec 16) (keyDelay : Byte) : ConfigVals :=
  ⟨clampPpl ppl, clampInt (-2048) 2047 hoff.toInt, min 7 keyDelay.toNat⟩

/-- CONFIGURE in the claim half (R121, R135, R178). -/
def Desk.configure (accept : StationSet) (sys : System) (parity : Parity) (line : Nat) (d : Desk) : Desk :=
  { d with
    hp := { d.hp with configured := true }
    pt := { d.pt with accept := accept, joinQuiet := 4 } }.setDueInWindow sys parity line

/-- CONFIGURE, once it passes (R97, R178). -/
def State.configure (v : ConfigVals) (accept : StationSet) (s : State) : State :=
  (s.onTime (fun t => { t with tdu := { t.tdu with pendCfg := some v } })).onDesk
    (Desk.configure accept s.sys s.time.ft.parity s.time.ft.counter)

/-- CONFIGURE (R178). -/
def execConfigure (ppl hoff : BitVec 16) (keyDelay : Byte) (accept : StationSet) (s : State) :
    Host.Outcome State Fault Refusal :=
  .next (s.running (State.request 0x01 (State.configure (configVals ppl hoff keyDelay) accept)))

/-- REINIT in the claim half (R121, R153, R166, R169, R179). -/
def Desk.reinit (d : Desk) : Desk :=
  { cbi := d.cbi.reinit
    pt := d.pt
    ce := d.resetCues.ce
    sb := d.sb.reinit
    ky := d.ky.silence
    hp := d.hp.reinit }

/-- REINIT (R179). -/
def execReinit (s : State) : Host.Outcome State Fault Refusal :=
  .next (s.running (State.request 0x02 (State.onDesk Desk.reinit)))

/-- The fields of a STATUS report (R180). D between the hand-over of line n and the start of delivered line n + 1 is the
D_{n+1} just formed, here as in every reader of D: DESIGN CHOICE (log 47), unsafe. H_off is the one in force, also between a
CONFIGURE and delivered line 2 of its application: DESIGN CHOICE (log 74), unsafe. -/
def State.statusOf (s : State) : StatusFields where
  st := s.time.ref.st
  fs := s.time.ft.fs
  parity := s.time.ft.parity
  fc := s.fc
  d := ticksOf s.time.tdu.D
  hoff := s.time.tdu.hoff
  F := s.time.loop.F
  pinned := s.time.loop.pinnedCount
  jumps := s.time.loop.jumpCount
  queue := s.time.tdu.queue.map AdjEntry.kind
  hold := s.time.tdu.holdCount
  shiftExcess := s.time.tdu.shiftExcess
  badCheck := s.desk.cbi.badCheck
  truncated := s.desk.cbi.truncated
  abandoned := s.desk.cbi.abandoned
  overflow := s.desk.sb.overflow
  lostTriggers := s.desk.ce.lostTriggers
  configured := s.desk.hp.configured
  muted := s.desk.cbi.muted
  busFault := s.desk.cbi.line == .fault

/-- The wrap flags cleared (R119, R180). -/
def Cbi.clearWraps (c : Cbi) : Cbi :=
  { c with
    badCheck := { c.badCheck with wrapped := false }
    truncated := { c.truncated with wrapped := false }
    abandoned := { c.abandoned with wrapped := false } }

/-- What a STATUS that is placed or coalesces clears (R180). -/
def State.clearReported (s : State) : State :=
  (s.onTime (fun t => { t with tdu := { t.tdu with shiftExcess := 0 } })).onDesk (Desk.withCbi Cbi.clearWraps)

/-- STATUS_QUERY, once it passes (R180): a STATUS that is discarded clears nothing. -/
def State.query (s : State) : State :=
  let r := Report.status s.statusOf
  let y := s.onDesk (Desk.post s.fc r)
  if placesReport r s.desk.hp.reports then y.clearReported else y

/-- STATUS_QUERY (R180). -/
def execStatusQuery (s : State) : Host.Outcome State Fault Refusal := .next (s.running (State.request 0x03 State.query))

/-- Every entry and frame marked by a FENCE (R181). -/
def State.markAll (s : State) : State :=
  (s.onTime (fun t => { t with
    tdu := { t.tdu with queue := t.tdu.queue.map (fun e => { e with marked := true }) } })).onDesk
    (Desk.withCbi (fun c => { c with txq := c.txq.map (fun e => { e with marked := true }) }))

/-- FENCE, once it passes (R181). In the end cells of a frame that has succeeded, which has left the queue, it neither
marks nor waits for that frame: DESIGN CHOICE (log 56), unsafe. -/
def State.fence (s : State) : State :=
  let n := s.time.tdu.queue.length + s.desk.cbi.txq.length
  if s.desk.hp.fence then s.onDesk (Desk.refuse s.fc 0x0E .busy)
  else if n = 0 then s.onDesk (Desk.post s.fc (.fenceDone s.fc))
  else s.markAll.onHp (fun h => { h with fence := true, fenceLeft := n })

/-- FENCE (R181). -/
def execFence (s : State) : Host.Outcome State Fault Refusal := .next (s.running (State.request 0x0E State.fence))

/-! ## Cues and chains -/

/-- LOAD_CUE (R138, R139). -/
def execLoadCue (req : LoadCue) (s : State) : Host.Outcome State Fault Refusal :=
  .next (s.running (State.request 0x04 (fun x => x.onDesk (Desk.loadCue x.fc x.time.tdu.configuredPpl req))))

/-- FREE_CUE (R139). -/
def execFreeCue (slot : Slot) (s : State) : Host.Outcome State Fault Refusal :=
  .next (s.running (State.request 0x05 (fun x => x.onDesk (Desk.freeCue x.fc slot))))

/-- START_CHAIN (R141, R142). -/
def execStartChain (chain : ChainNo) (head : Slot) (s : State) : Host.Outcome State Fault Refusal :=
  .next (s.running (State.request 0x06 (fun x => x.onDesk (Desk.startChain x.fc chain head))))

/-- PAUSE_CHAIN (R141). -/
def execPauseChain (chain : ChainNo) (s : State) : Host.Outcome State Fault Refusal :=
  .next (s.running (State.request 0x07 (fun x => x.onDesk (Desk.pauseChain x.fc chain))))

/-- RESUME_CHAIN (R141). -/
def execResumeChain (chain : ChainNo) (s : State) : Host.Outcome State Fault Refusal :=
  .next (s.running (State.request 0x08 (fun x => x.onDesk (Desk.resumeChain x.fc chain))))

/-- ABORT_CHAIN (R148). -/
def execAbortChain (chain : ChainNo) (s : State) : Host.Outcome State Fault Refusal :=
  .next (s.running (State.request 0x09 (fun x => x.onDesk (Desk.abortChain x.fc chain))))

/-- WITHDRAW_CUE (R147). -/
def execWithdrawCue (slot : Slot) (s : State) : Host.Outcome State Fault Refusal :=
  .next (s.running (State.request 0x0A (fun x => x.onDesk (Desk.withdrawCue x.fc slot))))

/-- CLEAR_ALL (R150, R168). -/
def execClearAll (s : State) : Host.Outcome State Fault Refusal :=
  .next (s.running (State.request 0x0F (fun x => x.onDesk (Desk.clearAll x.fc))))

/-! ## Timing -/

/-- SHIFT, once it passes (R92). -/
def State.shift (amount : Int) (s : State) : State :=
  if s.time.tdu.hostEntries < 3 then s.onTime (fun t => { t with tdu := t.tdu.placeShift amount })
  else s.onDesk (Desk.refuse s.fc 0x0B .queueFull)

/-- SHIFT (R92). -/
def execShift (amount : BitVec 16) (s : State) : Host.Outcome State Fault Refusal :=
  .next (s.running (State.request 0x0B (State.shift amount.toInt)))

/-- RECENTRE, once it passes (R62, R92). -/
def State.recentre (s : State) : State :=
  if s.time.ref.st = .locked then
    if s.time.tdu.hostEntries < 3 then s.onTime (fun t => { t with tdu := t.tdu.place .recentre })
    else s.onDesk (Desk.refuse s.fc 0x0C .queueFull)
  else s.onTime (fun t => { t with ref := { t.ref with latch := true } })

/-- RECENTRE (R62). -/
def execRecentre (s : State) : Host.Outcome State Fault Refusal := .next (s.running (State.request 0x0C State.recentre))

/-- HOLD_SLIPS, once it passes (R95). -/
def State.holdSlips (count : Nat) (s : State) : State :=
  s.onTime (fun t => { t with tdu := { t.tdu with holdCount := min 250 count } })

/-- HOLD_SLIPS (R95). -/
def execHoldSlips (count : Byte) (s : State) : Host.Outcome State Fault Refusal :=
  .next (s.running (State.request 0x0D (State.holdSlips count.toNat)))

end Sys2Proof.Machine
end

