-- ==== Sys2Proof/Machine/Restart.lean ====
section
/-! DEFINITION. HARDWARE_RESET and RESET_RELEASE (R19, R177 and the reset rules of every chapter). -/

namespace Sys2Proof.Machine

/-- The machine at its reset values with these straps, RESET held or released. The waiting commands and
inputs, which are not the machine's, and the counter of the free tie orders go on. -/
def State.atReset (straps : Straps) (held : Bool) (s : State) : State where
  pending := s.pending
  inputs := s.inputs
  tieIx := s.tieIx
  resetHeld := held
  straps := straps
  time := Timebase.reset straps.sys
  desk := Desk.reset

/-- HARDWARE_RESET (R19, R44, R64, R82, R99, R120, R136, R152, R165, R172, R184): RESET is held low. Until the release
samples the straps, the values that depend on them are those of the straps of the run before: DESIGN CHOICE (log 36),
unsafe. -/
def execHardwareReset (s : State) : Host.Outcome State Fault Refusal := .next (s.atReset s.straps true)

/-- RESET_RELEASE (R177): the straps are sampled; only while RESET is held (log 2). -/
def execResetRelease (stn : Station) (sys : System) (tape : Bool) (s : State) : Host.Outcome State Fault Refusal :=
  .next (if s.resetHeld then s.atReset ⟨stn, sys, tape⟩ false else s)

end Sys2Proof.Machine
end

