-- ==== Sys2Proof/Machine/VideoInput.lean ====
section
/-! DEFINITION. The meanings of the events of the video input (01_the_video_input.md). -/

namespace Sys2Proof.Machine

/-- LEVEL_SEARCH_WINDOW_END (R5, R6): only in level search (log 2). -/
def execLevelSearchWindowEnd (lowest highest : Code) (s : State) : Host.Outcome State Fault Refusal :=
  .next (s.running (State.onTime (fun t =>
    if t.sfe.mode = .levelSearch then { t with sfe := t.sfe.endWindow lowest highest } else t)))

/-- FALLING_CROSSING (R7, R8, R12, R14, R17). -/
def execFallingCrossing (time : Ts) (before now : Code) (s : State) : Host.Outcome State Fault Refusal :=
  .next (s.running (State.falling time before now))

/-- RISING_CROSSING (R9 to R13, R15, R16). -/
def execRisingCrossing (time : Ts) (before now : Code) (tipSum : Nat) (s : State) :
    Host.Outcome State Fault Refusal :=
  .next (s.running (State.rising time before now tipSum))

/-- BROAD_CLASSIFIED (R10, R16). -/
def execBroadClassified (time : Ts) (s : State) : Host.Outcome State Fault Refusal :=
  .next (s.running (State.broad time))

/-- The blank reading at sample j+71 of an open window (R12). -/
def Sfe.blankAt (time : Ts) (sum : Nat) (x : Sfe) : Sfe :=
  match x.blankWin with
  | some w => if time = w.opened + 1136 then x.readBlank sum else x
  | none => x

/-- BLANK_READING (R12, R13). -/
def execBlankReading (time : Ts) (sum : Nat) (s : State) : Host.Outcome State Fault Refusal :=
  .next (s.running (State.onTime (fun t => { t with sfe := t.sfe.blankAt time sum })))

/-- SYNC_ACTIVITY_LOSS (R17, R18, R48). -/
def execSyncActivityLoss (s : State) : Host.Outcome State Fault Refusal := .next (s.running State.loseActivity)

end Sys2Proof.Machine
end

