-- ==== Sys2Proof/Machine/Dispatch.lean ====
section
/-! DEFINITION. One arm for each command: its meaning. -/

namespace Sys2Proof.Machine

/-- The effect of a command on everything but the queue. -/
def exec (i : Instr) (s : State) : Host.Outcome State Fault Refusal :=
  match i with
  | .hardwareReset => Sys2Proof.Machine.execHardwareReset s
  | .resetRelease stn sys tape => Sys2Proof.Machine.execResetRelease stn sys tape s
  | .levelSearchWindowEnd lowest highest => Sys2Proof.Machine.execLevelSearchWindowEnd lowest highest s
  | .fallingCrossing time before now => Sys2Proof.Machine.execFallingCrossing time before now s
  | .risingCrossing time before now tipSum => Sys2Proof.Machine.execRisingCrossing time before now tipSum s
  | .broadClassified time => Sys2Proof.Machine.execBroadClassified time s
  | .blankReading time sum => Sys2Proof.Machine.execBlankReading time sum s
  | .syncActivityLoss => Sys2Proof.Machine.execSyncActivityLoss s
  | .lineBoundary time => Sys2Proof.Machine.execLineBoundary time s
  | .holdAgingRunsOut time => Sys2Proof.Machine.execHoldAgingRunsOut time s
  | .coastedBoundary time => Sys2Proof.Machine.execCoastedBoundary time s
  | .deliveredLineStart => Sys2Proof.Machine.execDeliveredLineStart s
  | .hsyncEnd => Sys2Proof.Machine.execHsyncEnd s
  | .deliveredBoundaryGiven => Sys2Proof.Machine.execDeliveredBoundaryGiven s
  | .vsyncEnd => Sys2Proof.Machine.execVsyncEnd s
  | .trigFallingEdge => Sys2Proof.Machine.execTrigFallingEdge s
  | .busIdle => Sys2Proof.Machine.execBusIdle s
  | .busFirstFall => Sys2Proof.Machine.execBusFirstFall s
  | .arbitrationLost => Sys2Proof.Machine.execArbitrationLost s
  | .arbitrationWon => Sys2Proof.Machine.execArbitrationWon s
  | .attemptSucceeded => Sys2Proof.Machine.execAttemptSucceeded s
  | .attemptFailed collision => Sys2Proof.Machine.execAttemptFailed collision s
  | .frameError err => Sys2Proof.Machine.execFrameError err s
  | .frameTruncated => Sys2Proof.Machine.execFrameTruncated s
  | .beaconReceived sender payload => Sys2Proof.Machine.execBeaconReceived sender payload s
  | .claimReceived sender payload => Sys2Proof.Machine.execClaimReceived sender payload s
  | .withdrawReceived sender payload => Sys2Proof.Machine.execWithdrawReceived sender payload s
  | .recallReceived sender payload => Sys2Proof.Machine.execRecallReceived sender payload s
  | .clearReceived sender => Sys2Proof.Machine.execClearReceived sender s
  | .busFaultEnter => Sys2Proof.Machine.execBusFaultEnter s
  | .busFaultCleared => Sys2Proof.Machine.execBusFaultCleared s
  | .malformedRequest kind length => Sys2Proof.Machine.execMalformedRequest kind length s
  | .configure ppl hoff keyDelay accept => Sys2Proof.Machine.execConfigure ppl hoff keyDelay accept s
  | .reinit => Sys2Proof.Machine.execReinit s
  | .statusQuery => Sys2Proof.Machine.execStatusQuery s
  | .loadCue req => Sys2Proof.Machine.execLoadCue req s
  | .freeCue slot => Sys2Proof.Machine.execFreeCue slot s
  | .startChain chain head => Sys2Proof.Machine.execStartChain chain head s
  | .pauseChain chain => Sys2Proof.Machine.execPauseChain chain s
  | .resumeChain chain => Sys2Proof.Machine.execResumeChain chain s
  | .abortChain chain => Sys2Proof.Machine.execAbortChain chain s
  | .withdrawCue slot => Sys2Proof.Machine.execWithdrawCue slot s
  | .clearAll => Sys2Proof.Machine.execClearAll s
  | .shift amount => Sys2Proof.Machine.execShift amount s
  | .recentre => Sys2Proof.Machine.execRecentre s
  | .holdSlips count => Sys2Proof.Machine.execHoldSlips count s
  | .fence => Sys2Proof.Machine.execFence s
  | .reportTransferStart => Sys2Proof.Machine.execReportTransferStart s
  | .reportTransferEnd => Sys2Proof.Machine.execReportTransferEnd s
  | .pixelClockEdge transp => Sys2Proof.Machine.execPixelClockEdge transp s
  | .frameObjected => Sys2Proof.Machine.execFrameObjected s
  | .requestByteStrobe edge => Sys2Proof.Machine.execRequestByteStrobe edge s
  | .reportByteAcknowledge asserted => Sys2Proof.Machine.execReportByteAcknowledge asserted s

end Sys2Proof.Machine
end

