-- ==== Sys2Proof/Machine/Wire.lean ====
section
/-! DEFINITION. The cells of the claim bus, one SCLK at a time (R101, R102, R106 to R108, R116, R117). It runs
the events of Bus.lean from the level of the line. -/

namespace Sys2Proof.Machine

/-- The bus interface's wire changed. -/
def State.onWire (f : Wire → Wire) (s : State) : State :=
  s.onDesk (Desk.withCbi (fun c => { c with wire := f c.wire }))

/-- The counts of an SCLK with the line low or high (R101, R102). -/
def Wire.count (low : Bool) (w : Wire) : Wire :=
  let fall := w.high && low
  { w with
    high := !low
    highFor := if low then 0 else if w.high then w.highFor + 1 else 1
    lowFor := if low then (if w.high then 1 else w.lowFor + 1) else 0
    sinceFall := if fall then 0 else w.sinceFall + 1
    inCell := if fall then 0 else w.inCell + 1
    sampled := if fall then false else w.sampled
    drive := w.drive - 1 }

/-- The station joins a cell that begins (R101). -/
def State.joinCell (s : State) : State := s.onDesk (Desk.withCbi (Cbi.joinCell s.straps.stn))

/-- A cell of this station falls due: it pulls the line (R101). -/
def State.beginCell (s : State) : State := s.onDesk (Desk.withCbi (Cbi.beginCell s.straps.stn))

/-- An accepted frame handed on (R107). -/
def State.acceptFrame (bits : List Bool) (s : State) : State :=
  let n := rxSender bits
  let p := rxPayload bits
  let out := match rxKind bits with
    | 1 => execBeaconReceived n (wordOf 64 p) s
    | 2 => execClaimReceived n (wordOf 72 p) s
    | 3 => execWithdrawReceived n (wordOf 8 p) s
    | 4 => execRecallReceived n (wordOf 16 p) s
    | _ => execClearReceived n s
  match out with
  | .next t => t
  | .fault _ => s
  | .refused _ => s

/-- The objection cell has been sampled: it and the two end cells are still to end (R103). -/
def State.enterEndCells (s : State) : State := s.onWire (fun w => { w with tail := 3 })

/-- What the objection cell brings to a receiver, `f` being the whole event: the return to WAIT comes only with the
last end cell (R102). -/
def State.atObjection (f : State → State) (s : State) : State :=
  ((f s).onDesk (Desk.withCbi (fun c =>
    { c with line := if c.line = .wait then .receiving else c.line }))).enterEndCells

/-- The objection cell of a received frame, `bits` with its bit (R107). -/
def State.judgeFrame (bit : Bool) (bits : List Bool) (s : State) : State :=
  if !rxCheckOk bits then s.onDesk (Desk.withCbi (Cbi.findError .checkError))
  else if bit then s.acceptFrame bits
  else s.onDesk (Desk.withCbi Cbi.seeObjection)

/-- A bit sampled by a receiver, `bits` with it (R107). A bad kind is found at once, after the 10th cell; a length that
is not the kind's after the 14th. -/
def State.receiveBit (bit : Bool) (bits : List Bool) (s : State) : State :=
  if s.desk.cbi.objected then s
  else if bits.length = 10 ∨ bits.length = 14 then
    match rxFormError bits with
    | some err => if bits.length = 14 ∨ err = .invalidKind then s.onDesk (Desk.withCbi (Cbi.findError err)) else s
    | none => s
  else if 14 < bits.length ∧ bits.length = rxBeforeObjection bits + 1 then s.atObjection (State.judgeFrame bit bits)
  else s

/-- The objection cell of an own frame (R108). -/
def State.ownObjection (bit : Bool) (s : State) : State :=
  (s.onDesk (if bit then Desk.attemptSent s.fc else Desk.attemptObjected s.fc)).enterEndCells

/-- A bit sampled by the sender, `bits` with it, `sent` what it sent and `total` the cells of its frame (R108). A
collision makes it a receiver of the bits it has. -/
def State.sendBit (bit sent : Bool) (bits : List Bool) (total : Nat) (s : State) : State :=
  if bits.length + 2 = total then s.ownObjection bit
  else if sent && !bit then (s.onDesk (Desk.failAttempt s.fc true)).receiveBit bit bits
  else s

/-- The sample of a cell, 16 SCLK after its fall (R101, R106 to R108). -/
def State.sampleCell (bit : Bool) (s : State) : State :=
  let c := s.desk.cbi
  let bits := c.wire.bits ++ [bit]
  let y := s.onWire (fun w => { w with bits := bits, sampled := true })
  if c.inEndCells then y
  else match c.line, c.attempt with
  | .contending, _ =>
    match c.nextBit s.straps.stn with
    | some true => if bit then y else y.onDesk (Desk.loseAccess y.fc)
    | _ => y
  | .sending, some a =>
    y.sendBit bit ((c.nextBit s.straps.stn).getD true) bits (frameBits s.straps.stn a).length
  | .receiving, _ => y.receiveBit bit bits
  | _, _ => y

/-- The end of a cell: the access code is won after its sixth (R106). -/
def State.closeAccess (s : State) : State :=
  let c := s.desk.cbi
  if c.line = .contending ∧ c.wire.bits.length = 6 then s.onDesk (Desk.winAccess s.fc) else s

/-- The end of a frame in WAIT, sent or received (R102, R106). -/
def State.endFrame (s : State) : State :=
  (s.onDesk (fun d => if d.cbi.line = .receiving then d.withCbi Cbi.endFrame else d.endOwnFrame s.fc)).onWire
    (fun w => { w with tail := 0 })

/-- The end of a cell: the frame ends with its last end cell (R102, R103). -/
def State.closeFrame (s : State) : State := if s.desk.cbi.wire.tail = 1 then s.endFrame else s

/-- The end of a cell (R102, R106). -/
def State.closeCell (s : State) : State := s.closeAccess.closeFrame

/-- The end of a cell without a new fall: the next cell is begun (R101). -/
def State.endCell (s : State) : State := s.closeCell.beginCell

/-- A fall: a first fall in IDLE, or a cell (R101, R102). A fall before the sample restarts the cell (log 26). -/
def State.wireFall (s : State) : State :=
  if s.desk.cbi.line = .idle then s.onDesk (Desk.firstFall s.busView) else s.closeCell.joinCell

/-- This station sends its frame: it begins each cell by its own count (R101). -/
def Cbi.drivesCells (c : Cbi) : Bool := c.line == .contending || c.line == .sending

/-- A sender's cell begins on a line that is low already, so with no fall: the line is stuck (R101, R117). -/
def State.ownCell (s : State) : State := (s.onWire (fun w => { w with inCell := 0, sampled := false })).joinCell

/-- The cell engine samples the line of a frame (R101). -/
def Cbi.samples (c : Cbi) : Bool := c.drivesCells || c.line == .receiving

/-- No cell begins for 2 cell times at a receiver: truncation, or silence after the objection cell, which ends the
frame without a count (R116). -/
def State.silence (s : State) : State :=
  if s.desk.cbi.inEndCells then s.endFrame else s.onDesk (Desk.withCbi Cbi.truncate)

/-- The line states that end by time (R102, R116, R117). -/
def State.wireTimes (s : State) : State :=
  let c := s.desk.cbi
  if 2048 < c.wire.lowFor ∧ c.line ≠ .fault then s.onDesk (Desk.enterFault s.fc)
  else if c.line = .fault ∧ 384 ≤ c.wire.highFor then s.onDesk (Desk.leaveFault s.sys s.fc s.time.ft.parity s.time.ft.counter)
  else if c.line = .wait ∧ 384 ≤ c.wire.highFor then s.onDesk Desk.becomeIdle
  else if c.line = .receiving ∧ 64 ≤ c.wire.sinceFall then s.silence
  else s

/-- One SCLK of the claim bus, `others` true while another station pulls the line low. -/
def State.busTick (others : Bool) (s : State) : State :=
  let w := s.desk.cbi.wire
  let low := others || s.clbPulled
  let counted := s.onWire (Wire.count low)
  let w2 := counted.desk.cbi.wire
  let moved :=
    if w.high && low then counted.wireFall
    else if w2.inCell = 16 ∧ w2.sampled = false ∧ counted.desk.cbi.samples = true then counted.sampleCell (!low)
    else if w2.inCell = 31 then counted.endCell
    else if w2.inCell = 32 ∧ counted.desk.cbi.drivesCells = true then counted.ownCell
    else counted
  moved.wireTimes

end Sys2Proof.Machine
end

