-- ==== Sys2Proof/Machine/Tick.lean ====
section
/-! DEFINITION. One SCLK of the block's own clock (log 1): the sample, the line boundary, delivered timing, the
claim bus and the host port. It happens on an empty queue of commands and runs the same events. -/

namespace Sys2Proof.Machine

/-! ## The sample (R4 to R18) -/

/-- A sample in level search (R5). -/
def Sfe.searchSample (sys : System) (v : Code) (x : Sfe) : Sfe :=
  let lowest := if v.toNat < x.lowest.toNat then v else x.lowest
  let highest := if x.highest.toNat < v.toNat then v else x.highest
  if x.windowCount + 1 ≥ lineSclk sys then x.endWindow lowest highest
  else { x with windowCount := x.windowCount + 1, lowest := lowest, highest := highest }

/-- The tip sum of a pulse in progress: samples k+32..k+63 (R11). -/
def Pulse.sumTip (now : Ts) (v : Code) (p : Pulse) : Pulse :=
  let i := samplesBetween now p.start
  if 32 ≤ i ∧ i ≤ 63 then { p with tipSum := p.tipSum + v.toNat } else p

/-- The blank sum of an open window: samples j+40..j+71 (R12). -/
def BlankWindow.sumBlank (now : Ts) (v : Code) (w : BlankWindow) : BlankWindow :=
  let i := samplesBetween now w.opened
  if 40 ≤ i ∧ i ≤ 71 then { w with sum := w.sum + v.toNat } else w

/-- The sums of a sample (R11, R12). -/
def Sfe.sums (now : Ts) (v : Code) (x : Sfe) : Sfe :=
  { x with pulse := x.pulse.map (Pulse.sumTip now v), blankWin := x.blankWin.map (BlankWindow.sumBlank now v) }

/-- The activity timer counts the sample (R17). -/
def Sfe.countTimer (x : Sfe) : Sfe := if x.active then { x with timer := x.timer + 1 } else x

/-- A sample in level tracking: the crossing (R7, R9), or a BROAD pulse (R10). -/
def State.crossing (before now : Code) (s : State) : State :=
  let time := s.time.sfe.sampleTs
  match s.time.sfe.pulse with
  | none => s.falling time before now
  | some p => if s.time.sfe.rises before now then s.rising time before now p.tipSum else s.broad time

/-- The blank reading of a window that the sample completes (R12). -/
def Sfe.finishBlank (now : Ts) (x : Sfe) : Sfe :=
  match x.blankWin with
  | some w => x.blankAt now w.sum
  | none => x

/-- Sync activity is lost when the timer reaches two nominal lines (R17). -/
def State.checkTimer (s : State) : State :=
  if s.time.sfe.active = true ∧ twoLinesSclk s.sys ≤ s.time.sfe.timer then s.loseActivity else s

/-- A sample in level tracking (R6 to R12, R17). -/
def State.trackSample (v : Code) (s : State) : State :=
  let now := s.time.sfe.sampleTs
  let timed := s.onTime (fun t => { t with sfe := (t.sfe.countTimer).sums now v })
  let crossed := match s.time.sfe.prev with
    | some before => timed.crossing before v
    | none => timed
  (crossed.onTime (fun t => { t with sfe := t.sfe.finishBlank now })).checkTimer

/-- The sample of an SCLK (R4). -/
def State.sample (v : Code) (s : State) : State :=
  match s.time.sfe.mode with
  | .levelSearch => s.onTime (fun t => { t with sfe := t.sfe.searchSample s.sys v })
  | .levelTracking => s.trackSample v

/-- The line boundary is due at this sample (R23). -/
def State.boundaryDue (s : State) : Bool := decide (0 ≤ tsDiff s.time.sfe.sampleTs s.time.loop.closeTime)

/-- The line boundary, when due (R23). One held by the pulse whose BROAD record takes the tracker to F_LOCKED finds
F_LOCKED (R51): DESIGN CHOICE (log 69), unsafe. -/
def State.boundaryIfDue (s : State) : State :=
  if s.boundaryDue then s.lineBoundary s.time.sfe.sampleTs else s

/-- The sample and the line boundary, in either order (R23; log 4). A boundary that waits for the pulse this sample ends
comes after the record: DESIGN CHOICE (log 69), unsafe, where that record takes the tracker to F_LOCKED (R51). -/
def State.reference (sampleFirst : Bool) (v : Code) (s : State) : State :=
  let first := if sampleFirst then s else s.boundaryIfDue
  (first.sample v).boundaryIfDue

/-! ## Delivered timing (R85 to R88) -/

/-- A delivered boundary of a parity is given if one is due here (R88, R89). -/
def State.giveIf (p : Parity) (s : State) : State :=
  if s.time.tdu.toGive = some p then s.onTime (fun t => { t with tdu := t.tdu.give s.sys }) else s

/-- VSYNC ends once its half-lines have passed (R88). -/
def State.endVsync (s : State) : State :=
  if s.time.tdu.vsync = true ∧ s.time.tdu.vsyncLeft = 0 then
    s.onTime (fun t => { t with tdu := { t.tdu with vsync := false } })
  else s

/-- A delivered line start with what falls there (R87, R88). -/
def State.tickLineStart (s : State) : State := (s.startLine.endVsync).giveIf .first

/-- A pixel clock edge with what falls there: the end of HSYNC, the half-line point (R87, R88). -/
def State.tickPixel (transp : Bool) (o : OpenLine) (s : State) : State :=
  let y := s.pixelEdge transp
  let z := if o.pixel = hsyncPixels o.ppl then y.onTime (fun t => { t with tdu := { t.tdu with hsync := false } }) else y
  if o.pixel = o.ppl / 2 then (z.endVsync).giveIf .second else z

/-- The next pixel clock edge of the open line, when its tick has come (R86). -/
def State.pixelIfDue (transp : Bool) (now : Ts) (s : State) : State :=
  match s.time.tdu.openLine with
  | some o => if o.pixel < o.ppl ∧ 0 ≤ tsDiff now o.edgeTick then s.tickPixel transp o else s
  | none => s

/-- The next delivered line is due: every edge of the line before has been given and its start has come. -/
def State.lineStartDue (now : Ts) (s : State) : Bool :=
  let due := decide (0 ≤ tsDiff now (BitVec.ofInt 20 (ticksOf s.time.tdu.nextStart.toNat)))
  match s.time.tdu.openLine with
  | some o => o.len.isSome && decide (o.ppl ≤ o.pixel) && due
  | none => due

/-- Delivered timing in an SCLK: a line start, then a pixel clock edge (R86). -/
def State.deliver (transp : Bool) (now : Ts) (s : State) : State :=
  (if s.lineStartDue now then s.tickLineStart else s).pixelIfDue transp now

/-! ## The host port (R175, R183) -/

/-- A command run from within a tick. -/
def State.run (i : Instr) (s : State) : State :=
  match exec i s with
  | .next t => t
  | .fault _ => s
  | .refused _ => s

/-- The framer reads a byte, and a record that it completes is acted on (R175; log 25 for its speed). -/
def State.frameByte (s : State) : State :=
  let (h, out) := s.desk.hp.readByte
  let y := s.onHp (fun _ => h)
  match out with
  | .nothing => y
  | .request i => y.run i
  | .malformed kind _ => y.refuseMalformed kind

/-- The host port in an SCLK. -/
def State.hostTick (s : State) : State := s.frameByte.onHp Hp.startTransfer

/-! ## The tick -/

/-- The orders of a tick's events that come at one moment (log 4): the sample before the line boundary, the
delivered timing before the reference, the claim bus before both, the host port before all. -/
structure TickOrder where
  sampleFirst : Bool
  deliverFirst : Bool
  busFirst : Bool
  hostFirst : Bool
deriving DecidableEq, Repr

/-- The next sample's timestamp, and the sample kept for the next pair (R4, R7). -/
def Sfe.advance (v : Code) (x : Sfe) : Sfe := { x with prev := some v, sampleTs := x.sampleTs + 16 }

/-- The reference and the delivered timing, in either order. -/
def State.timebaseTick (o : TickOrder) (p : PinSample) (now : Ts) (s : State) : State :=
  if o.deliverFirst then (s.deliver p.transp now).reference o.sampleFirst p.vin
  else (s.reference o.sampleFirst p.vin).deliver p.transp now

/-- The timebase and the claim bus, in either order. -/
def State.partTick (o : TickOrder) (p : PinSample) (now : Ts) (s : State) : State :=
  if o.busFirst then (s.busTick p.clbLow).timebaseTick o p now
  else (s.timebaseTick o p now).busTick p.clbLow

/-- One SCLK with the orders given. -/
def State.tickWith (o : TickOrder) (p : PinSample) (s : State) : State :=
  let now := s.time.sfe.sampleTs
  let y := if o.hostFirst then s.hostTick.partTick o p now else (s.partTick o p now).hostTick
  y.onTime (fun t => { t with sfe := t.sfe.advance p.vin })

/-- The orders of this tick: free values (log 4). -/
def State.tickOrder (s : State) : TickOrder where
  sampleFirst := Config.tieOrder s.tieIx
  deliverFirst := Config.tieOrder (s.tieIx + 1)
  busFirst := Config.tieOrder (s.tieIx + 2)
  hostFirst := Config.tieOrder (s.tieIx + 3)

/-- One SCLK (log 1): while RESET is held nothing happens. -/
def State.tick (p : PinSample) (s : State) : State :=
  if s.resetHeld then s else { s.tickWith s.tickOrder p with tieIx := s.tieIx + 4 }

/-- What a step does on an empty queue (log 1): an SCLK of the first waiting input sample, or nothing. -/
def State.idle (s : State) : State :=
  match s.inputs with
  | [] => s
  | p :: rest => { s with inputs := rest }.tick p

end Sys2Proof.Machine
end

