-- ==== Sys2Proof/Safety.lean ====
section
/-! DEFINITION. What the statements speak of: that a command completes, the invariants that the spec gives the
machine, what a field boundary does, and the layouts of reports and frames. -/

namespace Sys2Proof.Machine

/-- The command answers a next state, and `P` holds of it. -/
def Completes (i : Instr) (s : State) (P : State → Prop) : Prop := ∃ t, exec i s = .next t ∧ P t

/-- RESET is released, and the station is configured and not muted: requests are taken (R176). -/
def State.taken (s : State) : Prop :=
  s.resetHeld = false ∧ s.desk.hp.configured = true ∧ s.desk.cbi.muted = false

/-- RESET is released and the station configured, muted or not: its timing requests are taken (R176). -/
def State.serves (s : State) : Prop := s.resetHeld = false ∧ s.desk.hp.configured = true

/-- The kind of a host request (11, table of R173); none for every other command. -/
def requestKindOf : Instr → Option Byte
  | .configure _ _ _ _ => some 0x01
  | .reinit => some 0x02
  | .statusQuery => some 0x03
  | .loadCue _ => some 0x04
  | .freeCue _ => some 0x05
  | .startChain _ _ => some 0x06
  | .pauseChain _ => some 0x07
  | .resumeChain _ => some 0x08
  | .abortChain _ => some 0x09
  | .withdrawCue _ => some 0x0A
  | .shift _ => some 0x0B
  | .recentre => some 0x0C
  | .holdSlips _ => some 0x0D
  | .fence => some 0x0E
  | .clearAll => some 0x0F
  | _ => none

/-- The state with a report posted (R182). -/
def State.report (r : Report) (s : State) : State := s.withDesk (s.desk.post s.fc r)

/-- The station can accept a frame of a peer: RESET released, RECEIVING, no error found, another number. -/
def State.hears (sender : Station) (s : State) : Prop :=
  s.resetHeld = false ∧ s.desk.cbi.line = .receiving ∧ s.desk.cbi.objected = false ∧ sender ≠ s.straps.stn

/-- The state with the received frame ended and the Peer Table changed. -/
def State.heard (pt : Pt) (s : State) : State :=
  s.withDesk { s.desk with cbi := { s.desk.cbi with line := .wait }, pt := pt }

/-- The SFE, the loop and the reference states at hardware reset (R19, R44, R64). -/
def Timebase.lockAtReset (sys : System) (t : Timebase) : Prop :=
  (t.sfe.mode = .levelSearch ∧ t.sfe.windowCount = 0 ∧ t.sfe.lowest = 255 ∧ t.sfe.highest = 0 ∧ t.sfe.tip = 0 ∧
    t.sfe.blank = 0 ∧ t.sfe.pulse = none ∧ t.sfe.blankWin = none ∧ t.sfe.active = false ∧ t.sfe.timer = 0 ∧
    t.sfe.sampleTs = 0) ∧
  (t.loop.F = fNom sys ∧ t.loop.P = BitVec.ofInt 28 (fNom sys) ∧ t.loop.C = 0 ∧ t.loop.missRun = 0 ∧
    t.loop.jumpRun = 0 ∧ t.loop.lastRejected = none ∧ t.loop.pinnedRun = 0 ∧ t.loop.pinnedCount = 0 ∧
    t.loop.jumpCount = 0 ∧ t.loop.records = []) ∧
  (t.ref.st = .search ∧ t.ref.searchRun = 0 ∧ t.ref.searchEdge = none ∧ t.ref.quality = 0 ∧ t.ref.newRun = 0 ∧
    t.ref.newEdge = none ∧ t.ref.anchor = none ∧ t.ref.probeLines = 0 ∧ t.ref.probeTally = 0 ∧ t.ref.aging = 0 ∧
    t.ref.pendingLoss = false ∧ t.ref.latch = false)

/-- The Field Tracker and the TDU at hardware reset (R82, R99). -/
def Timebase.fieldAtReset (sys : System) (t : Timebase) : Prop :=
  (t.ft.fs = .search ∧ t.ft.fc = 0 ∧ t.ft.parity = .second ∧ t.ft.label = .alternation ∧ t.ft.counter = 0 ∧
    t.ft.startKind = .coasted ∧ t.ft.coasts = 0 ∧ t.ft.vwin = true ∧ t.ft.broadRun = 0 ∧ t.ft.lastBroad = none ∧
    t.ft.firstBroad = none ∧ t.ft.stray = none ∧ t.ft.irregular = false ∧ t.ft.unclassified = 0 ∧ t.ft.cand = none ∧
    t.ft.tally = Vector.replicate 16 none ∧ t.ft.adoptPending = none) ∧
  (t.tdu.D = 0 ∧ t.tdu.hoff = 0 ∧ t.tdu.ppl = 896 ∧ t.tdu.slipDet = 0 ∧ t.tdu.queue = [] ∧ t.tdu.holdCount = 0 ∧
    t.tdu.slipField = false ∧ t.tdu.delParity = .second ∧ t.tdu.plan.parity = .first ∧
    t.tdu.plan.line + t.ft.counter = t.loop.n + nominalCount sys .second ∧ t.tdu.shiftExcess = 0 ∧ t.tdu.nextStart = 0 ∧
    t.tdu.fixedLines = [⟨some 0, fNom sys⟩] ∧ t.tdu.hsync = false ∧ t.tdu.vsync = false)

/-- The bus interface and the Peer Table at hardware reset (R120, R136). -/
def Desk.busAtReset (d : Desk) : Prop :=
  (d.cbi.line = .wait ∧ d.cbi.txq = [] ∧ d.cbi.passLock = false ∧ d.cbi.beaconDue = false ∧
    d.cbi.beaconSent = false ∧ d.cbi.allowance = 4 ∧ d.cbi.spentPosted = false ∧ d.cbi.burst = 0 ∧
    d.cbi.badCheck = ⟨0, false⟩ ∧ d.cbi.truncated = ⟨0, false⟩ ∧ d.cbi.abandoned = ⟨0, false⟩ ∧
    d.cbi.muted = false ∧ d.cbi.wire.drive = 0) ∧
  ((∀ n, d.pt.peer n = ⟨.absent, 0, false, none, 0, 0⟩) ∧ d.pt.store = [] ∧ d.pt.recalls = 0 ∧
    (∀ n, d.pt.accepts n = true) ∧ d.pt.joinQuiet = 0)

/-- The Cue Engine, the Span Builder, the Keyer and the host port at hardware reset (R152, R165, R172, R184). -/
def Desk.cuesAtReset (d : Desk) : Prop :=
  ((∀ i, (d.slot i).st = .free ∧ (d.slot i).fullPosted = false) ∧ d.ce.free = allSlots ∧
    (∀ c, (d.chain c).st = .idle ∧ (d.chain c).onAir = none ∧ (d.chain c).armed = none ∧ (d.chain c).waiting = none) ∧
    d.ce.liveSet = 0 ∧ d.ce.trigger = false ∧ d.ce.lostTriggers = 0) ∧
  (d.sb.occluders = [] ∧ d.sb.blankets = [] ∧ d.sb.own = [] ∧ d.sb.overflow = 0) ∧
  (d.ky.key = false ∧ d.ky.stop = .clear ∧ d.ky.keyDelay = 0 ∧ d.ky.delay = []) ∧
  (d.hp.configured = false ∧ d.hp.inbound = [] ∧ d.hp.framer = .kind ∧ d.hp.reports = [] ∧ d.hp.transfer = none ∧
    d.hp.fence = false ∧ d.hp.hd = none ∧ d.hp.pack = false ∧ d.hp.prdy = false)

/-- The values that the spec gives for hardware reset, chapter by chapter. -/
def State.valuesAtReset (s : State) : Prop :=
  s.time.lockAtReset s.sys ∧ s.time.fieldAtReset s.sys ∧ s.desk.busAtReset ∧ s.desk.cuesAtReset

/-- F lies within the clamp range of the strapped system (R28). -/
def State.freqOk (s : State) : Prop := fMin s.sys ≤ s.time.loop.F ∧ s.time.loop.F ≤ fMax s.sys

/-- While a pulse is in progress the slicer is enabled, level tracking with an amplitude of 12 or more, and no blank window
is open (R6, R12). -/
def Sfe.pulseOk (x : Sfe) : Prop :=
  ∀ p, x.pulse = some p → x.mode = .levelTracking ∧ x.tip + 12 ≤ x.blank ∧ x.blankWin = none

/-- The SLIP entries in the adjustment queue. -/
def Tdu.slips (x : Tdu) : Nat := (x.queue.filter (fun e => e.kind == .slip)).length

/-- At most 3 host entries and at most one SLIP (R92). -/
def Tdu.queueOk (x : Tdu) : Prop := x.hostEntries ≤ 3 ∧ x.slips ≤ 1

/-- The records of the report queue that are not OVERFLOW. -/
def plainCount (qs : List QReport) : Nat := (qs.filter (fun q => !isOverflow q)).length

/-- The report queue (R182): at most 16 records, at most 15 of them not OVERFLOW, no two of one kind and
subject. -/
def reportsOk (qs : List QReport) : Prop :=
  qs.length ≤ 16 ∧ plainCount qs ≤ 15 ∧ (qs.map (fun q => q.report.key)).Nodup

/-- H_off, PPL and key delay within their ranges, those in force and those on their way (R84, R178). -/
def Tdu.rangesOk (x : Tdu) : Prop :=
  (-2048 ≤ x.hoff ∧ x.hoff ≤ 2047) ∧ (640 ≤ x.ppl ∧ x.ppl ≤ 1280) ∧ x.holdCount ≤ 250 ∧
  (∀ c, x.pendCfg = some c → (-2048 ≤ c.hoff ∧ c.hoff ≤ 2047) ∧ (640 ≤ c.ppl ∧ c.ppl ≤ 1280) ∧ c.keyDelay ≤ 7) ∧
  (∀ v, x.newVals = some v → (-2048 ≤ v.hoff ∧ v.hoff ≤ 2047) ∧ (640 ≤ v.ppl ∧ v.ppl ≤ 1280) ∧
    ∀ k, v.keyDelay = some k → k ≤ 7)

/-- The delay line holds the last k decisions, k being the key delay (R171). -/
def Ky.delayOk (k : Ky) : Prop := k.delay.length = k.keyDelay

/-- The pass-lock is clear while the queue is empty: no entry, and no frame of it in flight (R112, R113). -/
def Cbi.lockOk (c : Cbi) : Prop := c.txq = [] → c.queueFlies = false → c.passLock = false

/-- A span list (R163): at most 16 spans, sorted by left edge, disjoint, each within 0..PPL−1. -/
def spansOk (ppl : Nat) (l : List Span) : Prop :=
  l.length ≤ 16 ∧ l.Pairwise (fun a b => a.right < b.left) ∧ ∀ x ∈ l, 0 ≤ x.left ∧ x.left ≤ x.right ∧ x.right < ppl

/-- Every list handed over or waiting to be keeps the form of R163. -/
def Desk.listsOk (d : Desk) : Prop := ∀ l, l = d.ky.line ∨ l ∈ d.sb.ready → spansOk l.ppl l.spans

/-- The claim store (R125): at most 64 claims, one for a station and id; the model keeps them in order. -/
def Pt.storeOk (pt : Pt) : Prop :=
  pt.store.length ≤ 64 ∧ pt.store.Pairwise (fun a b => a.order < b.order)

/-- A pixel of an own region on a line that the station may key (R161): the line and the pixel lie in the
region and in its clip, and no range that outranks it holds the pixel. -/
def Sb.mayKey (stn : Station) (v : LineVals) (line : Nat) (x : Int) (r : OwnRegion) (sb : Sb) : Prop :=
  r.top ≤ line ∧ line ≤ r.bottom ∧ (r.left : Int) ≤ x ∧ x ≤ (r.left : Int) + r.width - 1 ∧ 0 ≤ x ∧ x < v.ppl ∧
  (r.clipOn v).1 ≤ x ∧ x ≤ (r.clipOn v).2 ∧
  ∀ o ∈ sb.rangesOver stn v line r, ¬ (o.1 ≤ x ∧ x ≤ o.2)

/-! ## Cue slots -/

/-- Each slot is on the free list exactly once or loaded (R139). -/
def Ce.slotsOk (ce : Ce) : Prop := ce.free.Nodup ∧ ∀ i, i ∈ ce.free ↔ (ce.slot i).st = .free

/-- At most 16 cues are live, at most 2 of one chain (R140). -/
def Ce.liveOk (ce : Ce) : Prop := ce.liveCount ≤ 16 ∧ ∀ c, ce.chainLive c ≤ 2

/-! ## What a field boundary does -/

/-- A FIELD_STATE report with this cause is due at a boundary of the tracker `x` (R76). -/
def Taking.tells (sys : System) (x : Ft) (tk : Taking) : FieldCause → Prop
  | .anchored => tk.fieldSlip = false ∧ x.fs = .search ∧ tk.fs = .locked
  | .coasting => tk.fieldSlip = false ∧ x.fs = .locked ∧ tk.fs = .coast
  | .resumed => tk.fieldSlip = false ∧ x.fs = .coast ∧ tk.fs = .locked
  | .lost => tk.fieldSlip = false ∧ x.fs = .coast ∧ tk.fs = .search
  | .fieldSlip => tk.fieldSlip = true
  | .irregular => tk.fieldSlip = false ∧ x.fs = tk.fs ∧ tk.byCandidate = true ∧ tk.count ≠ nominalCount sys x.parity ∧
      x.irregular = false

/-- The peers' parity `p` is to be adopted at a boundary event (R81). -/
def State.agreesOn (p : Parity) (s : State) : Prop :=
  let entries := s.time.ft.tally.toList.filterMap id
  s.time.ref.st = .locked ∧ s.time.ft.label = .alternation ∧ 2 ≤ entries.length ∧ (∀ q ∈ entries, q = p) ∧
  p ≠ s.time.ft.parity

/-- The boundary `tk` of the tracker of `s` is taken, and `t` is the state after it: state, count, parity and label,
counter, vertical window, stray and irregular records (R67, R69, R73 to R75, R77, R80, R81), what the TDU is handed (R78),
and the reports posted before the claim half's own work (R76, R80, R81). -/
def Taking.effect (tk : Taking) (s t : State) : Prop :=
  let x := s.time.ft
  let y := t.time.ft
  let entries := x.tally.toList.filterMap id
  let adopted : Prop := tk.parity = none ∧ ∃ p, s.agreesOn p
  (y.fs = tk.fs ∧ y.coasts = tk.coasts ∧ y.startKind = tk.start ∧ y.counter = ((x.counter : Int) - tk.count).toNat) ∧
  (y.fc = x.fc + 1 + BitVec.ofNat 16 ((x.cand.map CountCand.k).getD 0) ∧ y.cand = none ∧
    y.tally = Vector.replicate 16 none) ∧
  (∀ p, tk.parity = some p → y.parity = p ∧ y.label = .classified ∧ y.unclassified = x.unclassified) ∧
  (tk.parity = none → y.label = .alternation ∧
    y.unclassified = (if tk.byCandidate then min 255 (x.unclassified + 1) else x.unclassified) ∧
    (∀ p, s.agreesOn p → y.parity ≠ p) ∧ ((∀ p, ¬s.agreesOn p) → y.parity ≠ x.parity)) ∧
  y.vwin = (if tk.fs = .search then true else if 9 < y.counter then false else x.vwin) ∧
  (tk.byCandidate = true → y.stray = none ∧ (y.irregular = true ↔ tk.count ≠ nominalCount s.sys x.parity)) ∧
  (tk.byCandidate = false → y.irregular = false ∧
    y.stray = x.stray.bind (fun w => if w.fieldBefore then none else some ⟨w.count, true⟩)) ∧
  (∃ mark : Bool, (mark = true ↔ tk.start = .slip ∨ adopted) ∧ t.time.tdu =
    s.time.tdu.takeBoundary s.sys s.time.loop.n (s.time.loop.n - y.counter) y.parity mark) ∧
  ∃ told : List Report, told.Nodup ∧
    (∀ r, r ∈ told ↔
      (∃ cause, tk.tells s.sys x cause ∧ r = .fieldState y.fs cause y.fc tk.count y.parity y.unclassified) ∨
      (∃ k, x.cand = some k ∧ r = .countAdopted x.fc y.fc k.k k.station) ∨
      (adopted ∧ r = .parityAdopted y.parity entries.length y.fc)) ∧
    t.desk = (told.foldl (fun d r => d.post y.fc r) s.desk).fieldBoundary s.sys s.straps.stn y.fc y.parity y.counter

/-! ## Layouts -/

/-- Positions `first` to `last` of a row of bits, counted from 1, as a number, most significant bit first (R103, R104). -/
def fieldAt (bits : List Bool) (first last : Nat) : Nat :=
  ((bits.drop (first - 1)).take (last + 1 - first)).foldl (fun n b => 2 * n + if b then 1 else 0) 0

/-- A flag as the number 1 or 0. -/
def numOf (b : Bool) : Nat := if b then 1 else 0

/-- Values in fields of so many bytes, most significant byte first, negative ones in two's complement (11.2). -/
def layoutBytes (fields : List (Nat × Int)) : List Byte :=
  fields.flatMap (fun f => (List.range f.1).map (fun k => BitVec.ofInt 8 (f.2 / 256 ^ (f.1 - 1 - k))))

/-- An error counter and its wrap flag (R174, R180). -/
def WrapCount.layout (w : WrapCount) : List (Nat × Int) := [(1, w.count), (1, numOf w.wrapped)]

/-- An adjustment entry of STATUS: its kind and its amount (R174). -/
def AdjKind.layout : AdjKind → List (Nat × Int)
  | .slip => [(1, 0), (2, 0)]
  | .recentre => [(1, 1), (2, 0)]
  | .shift amount => [(1, 2), (2, amount)]

/-- The fields of STATUS (R180, R174). -/
def StatusFields.layout (f : StatusFields) : List (Nat × Int) :=
  [(1, (f.st.code : Int)), (1, f.fs.code), (1, parityCode f.parity), (2, f.fc.toNat), (4, f.d), (2, f.hoff), (4, f.F),
    (1, f.pinned), (1, f.jumps), (1, f.queue.length)] ++ f.queue.flatMap AdjKind.layout ++
  [(1, (f.hold : Int)), (2, f.shiftExcess)] ++ f.badCheck.layout ++ f.truncated.layout ++ f.abandoned.layout ++
  [(1, (f.overflow : Int)), (1, f.lostTriggers), (1, numOf f.configured), (1, numOf f.muted), (1, numOf f.busFault)]

/-- The kind byte and the fields of a report, each with its width in bytes (11.2, R174; log 16 for the count of
FIELD_STATE). A field that does not apply is 0. -/
def Report.layout : Report → Int × List (Nat × Int)
  | .slot i => (0x81, [(1, i.val)])
  | .cue i chain event fc e =>
    (0x82, [(1, i.val), (1, ((chain.map Fin.val).getD 0 : Nat)), (1, event.code), (2, fc.toNat), (2, e.toNat)])
  | .chainDone chain outcome fc => (0x83, [(1, chain.val), (1, outcome.code), (2, fc.toNat)])
  | .refState now left cause fc => (0x84, [(1, now.code), (1, left.code), (1, cause.code), (2, fc.toNat)])
  | .fieldState fs cause fc count parity unclassified =>
    (0x85, [(1, fs.code), (1, cause.code), (2, fc.toNat), (2, count), (1, parityCode parity), (1, unclassified)])
  | .slipPending d hold fc => (0x86, [(4, d), (1, hold), (2, fc.toNat)])
  | .slipDone amount d fc => (0x87, [(4, amount), (4, d), (2, fc.toNat)])
  | .countAdopted before after k station => (0x88, [(2, before.toNat), (2, after.toNat), (2, k), (1, station.val)])
  | .parityAdopted parity entries fc => (0x89, [(1, parityCode parity), (1, entries), (2, fc.toNat)])
  | .peer n before after missed stored fc =>
    (0x8A, [(1, n.val), (1, before.code), (1, after.code), (1, missed), (1, stored), (2, fc.toNat)])
  | .clearSeen n honoured fc => (0x8B, [(1, n.val), (1, numOf honoured), (2, fc.toNat)])
  | .busFault cleared fc => (0x8C, [(1, numOf cleared), (2, fc.toNat)])
  | .muted fc kind => (0x8D, [(2, fc.toNat), (1, kind)])
  | .allowanceSpent fc frames => (0x8E, [(2, fc.toNat), (1, frames)])
  | .regionFull i chain fc => (0x8F, [(1, i.val), (1, ((chain.map Fin.val).getD 0 : Nat)), (2, fc.toNat)])
  | .freqRange F high => (0x90, [(4, F), (1, numOf high)])
  | .fenceDone fc => (0x91, [(2, fc.toNat)])
  | .refused kind reason fc => (0x92, [(1, kind.toNat), (1, reason.code), (2, fc.toNat)])
  | .status f => (0x93, f.layout)
  | .overflow kind fc => (0x94, [(1, kind), (2, fc.toNat)])

end Sys2Proof.Machine
end

