-- ==== Sys2Proof/Certificates/Slice0/Obligations.lean ====
section
/-! DEFINITION. The statements for the provers. `s` is any state, reachable or not; a statement about a command
says in its hypotheses when RESET is released and what the command needs. -/

open Sys2Proof Sys2Proof.Machine

/-! ## The step -/

/-- A step with a command in front runs that command on the rest of the queue. -/
def Obligations.StepRunsTheFrontCommand : Prop :=
  ∀ (c : Instr) (rest : List Instr) (s : State), s.pending = c :: rest → step s = exec c { s with pending := rest }

/-- Every command answers a next state, also where its event cannot happen, which is the model's choice (log 2), and
leaves the model's own fields: the queue, the waiting samples (log 1) and the counter of the free tie orders (log 4).
Only RESET_RELEASE changes the straps. -/
def Obligations.EveryCommandCompletesAndLeavesTheQueue : Prop :=
  ∀ (c : Instr) (s : State), Completes c s (fun t =>
    t.pending = s.pending ∧ t.inputs = s.inputs ∧ t.tieIx = s.tieIx ∧
    ((∀ stn sys tape, c ≠ .resetRelease stn sys tape) → t.straps = s.straps))

/-- What a step does on an empty queue, which is the model's choice (log 1): nothing with no sample waiting, and
otherwise one SCLK, which takes the first sample and, while RESET is released, moves the timestamp on by 16. -/
def Obligations.AnEmptyQueueRunsTheClock : Prop :=
  ∀ s : State, s.pending = [] →
    (s.inputs = [] → step s = .next s) ∧
    (∀ p rest, s.inputs = p :: rest → s.resetHeld = true → step s = .next { s with inputs := rest }) ∧
    (∀ p rest, s.inputs = p :: rest → s.resetHeld = false → ∃ t, step s = .next t ∧
      t.pending = [] ∧ t.inputs = rest ∧ t.straps = s.straps ∧
      t.time.sfe.sampleTs = s.time.sfe.sampleTs + 16 ∧ t.time.sfe.prev = some p.vin)

/-! ## Reset -/

/-- HARDWARE_RESET gives every block its reset values and holds the pins as the chapters say; the straps are not
sampled before the release, and the values that depend on them stay those of the run before (log 36).

RESET_RELEASE while RESET is held samples the straps, and the blocks begin from their reset values, LOR asserted and
FIELD high; while RESET is released there is no such event (log 2).

While RESET is held no command but HARDWARE_RESET and RESET_RELEASE does anything (log 27).

The reset state, with the model's default straps (log 5), has those values and meets every invariant stated
below. -/
def Obligations.ResetIsHeldAndReleased : Prop :=
  (∀ s : State, Completes .hardwareReset s (fun t =>
    t.valuesAtReset ∧ t.resetHeld = true ∧ t.straps = s.straps ∧ t.lor = true ∧ t.fieldPin = false ∧
    t.desk.ky.key = false ∧ t.clbPulled = false ∧ t.attn = false)) ∧
  (∀ (stn : Station) (sys : System) (tape : Bool) (s : State),
    (s.resetHeld = true → Completes (.resetRelease stn sys tape) s (fun t =>
      t.valuesAtReset ∧ t.resetHeld = false ∧ t.straps = ⟨stn, sys, tape⟩ ∧ t.lor = true ∧ t.fieldPin = true)) ∧
    (s.resetHeld = false → exec (.resetRelease stn sys tape) s = .next s)) ∧
  (∀ (c : Instr) (s : State), s.resetHeld = true → c ≠ .hardwareReset →
    (∀ stn sys tape, c ≠ .resetRelease stn sys tape) → exec c s = .next s) ∧
  (let r := State.reset;
    r.valuesAtReset ∧ r.pending = [] ∧ r.resetHeld = false ∧ r.freqOk ∧ r.time.tdu.queueOk ∧ r.time.tdu.rangesOk ∧
    reportsOk r.desk.hp.reports ∧ r.desk.ky.delayOk ∧ r.desk.listsOk ∧ r.desk.pt.storeOk ∧
    r.desk.ce.slotsOk ∧ r.desk.ce.liveOk ∧ r.desk.cbi.lockOk)

/-! ## The field boundary at the Peer Table and the Span Builder -/

/-- The Peer Table at a field boundary ages each record, by its presence, that no beacon refreshed in the field, posts
PEER on a change of presence once the record is emptied (log 19), and keeps no claim of a peer it has emptied. It
steps join quiet down, clears the recall counts, and blankets each peer it is not sure of at its highest known layer:
a SILENT one, a JOINING one with a known layer, a PRESENT one with a live id missing or dropped. What a PRESENT one with
such an id and no known layer is blanketed at is left open (log 18); one without such an id has no blanket.

The snapshot takes the applicable claims, the blankets, and the regions of the cues on air whose cadence matches.
After it no stop suppresses keying. -/
def Obligations.PeerTableAndSnapshotAtABoundary : Prop :=
  (∀ (fc : FieldCount) (stn : Station) (d : Desk),
    let t := d.ptBoundary fc stn
    (∀ n, n ≠ stn →
      let p := d.pt.peer n
      let q := t.pt.peer n
      (p.seen = true ∨ p.presence = .absent → q = { p with seen := false, recalled := 0 }) ∧
      (p.seen = false → p.presence = .joining → q = ⟨.absent, 1, false, none, 0, 0⟩) ∧
      (p.seen = false → p.presence = .present → q = { p with presence := .silent, missed := 1, recalled := 0 }) ∧
      (p.seen = false → p.presence = .silent → p.missed < 7 →
        q = { p with missed := p.missed + 1, recalled := 0 }) ∧
      (p.seen = false → p.presence = .silent → 7 ≤ p.missed → q = ⟨.absent, 8, false, none, 0, 0⟩)) ∧
    (∀ e, e.station ≠ stn → (e ∈ t.pt.store ↔
      e ∈ d.pt.store ∧ ((d.pt.peer e.station).seen = true ∨ (t.pt.peer e.station).presence ≠ .absent))) ∧
    t.pt.joinQuiet = d.pt.joinQuiet - 1 ∧ t.pt.recalls = 0 ∧ t.pt.accept = d.pt.accept ∧
    t.cbi = d.cbi ∧ t.ce = d.ce ∧ t.sb = d.sb ∧ t.ky = d.ky ∧
    (∀ n layer, n ≠ stn →
      let q := t.pt.peer n
      let known := t.pt.knownLayer n
      let unsure := ∃ i : Slot, q.live.getLsbD i.val = true ∧
        (t.pt.stores n i = false ∨ q.dropped.getLsbD i.val = true)
      (q.presence = .present → unsure → known ≠ none) →
      ((⟨layer, n⟩ : Blanket) ∈ t.pt.blankets ↔
        (q.presence = .silent ∧ layer = known.getD 15) ∨ (q.presence = .joining ∧ known = some layer) ∨
        (q.presence = .present ∧ unsure ∧ known = some layer)))) ∧
  (∀ (pt : Pt) (n : Station) (layer : Layer),
    let reported := (pt.peer n).last.bind Beacon.top
    pt.knownLayer n = some layer ↔
      (reported = some layer ∨ ∃ e ∈ pt.store, e.station = n ∧ e.claim.layer = layer) ∧
      (∀ top, reported = some top → top.val ≤ layer.val) ∧
      (∀ e ∈ pt.store, e.station = n → e.claim.layer.val ≤ layer.val)) ∧
  (∀ (fc : FieldCount) (stn n : Station) (d : Desk), n ≠ stn →
    let t := d.agePeer fc stn n
    let q := t.pt.peer n
    t.hp.reports = if q.presence = (d.pt.peer n).presence then d.hp.reports
      else postReport fc (.peer n (d.pt.peer n).presence q.presence q.missed (t.pt.entriesOf n).length fc)
        d.hp.reports) ∧
  (∀ (fc : FieldCount) (d : Desk),
    let t := d.snapshot fc
    let cadence (base mask : Nibble) : Prop := fc.extractLsb' 0 4 &&& mask = base &&& mask
    (∀ e, e ∈ t.sb.occluders ↔ e ∈ d.pt.store ∧ cadence e.claim.base e.claim.mask ∧
      (e.applied = true ∨ (e.claim.e - fc ≠ 1 ∧ e.claim.e - fc ≠ 2))) ∧
    t.sb.blankets = d.pt.blankets ∧ t.sb.ready = d.sb.ready ∧ t.sb.overflow = d.sb.overflow ∧
    (∀ r, r ∈ t.sb.own ↔ ∃ i : Slot,
      let x := d.slot i
      let q := x.cue
      x.st = .onAir ∧ cadence q.base q.mask ∧
      r = ⟨i, q.top, q.top + q.height - 1, q.left, q.width, q.layer, q.kind,
        if q.announce then x.claim.map (fun c => (c.left, c.right)) else none⟩) ∧
    t.pt = { d.pt with
      store := d.pt.store.map (fun e => { e with applied := e.applied || decide (e ∈ t.sb.occluders) }) } ∧
    t.cbi = d.cbi ∧ t.ce = d.ce ∧ t.ky = d.ky ∧ t.hp = d.hp) ∧
  (∀ (sys : System) (stn : Station) (fc : FieldCount) (parity : Parity) (line : Nat) (d : Desk),
    let t := d.fieldBoundary sys stn fc parity line
    t.ky = { d.ky with stop := .clear } ∧ t.sb.blankets = t.pt.blankets)

/-! ## The video input -/

/-- LEVEL_SEARCH_WINDOW_END sets the levels from the window's extremes, starts the next window, and starts level
tracking when the amplitude is 12 or more; in level tracking there is no such event (log 2).

BLANK_READING at sample j + 71 of an open window moves the blank level by an eighth of the difference, rounded
by R, and closes the window. Nothing else changes. That it moves the level too where the tip update at the window's opening
took the amplitude below 12 is the model's choice (log 34).

A level update lands between the level and the reading, so a level of 0..255 stays one. -/
def Obligations.LevelsAreSetAndTracked : Prop :=
  (∀ (lo hi : Code) (s : State), s.resetHeld = false →
    (s.time.sfe.mode = .levelSearch → exec (.levelSearchWindowEnd lo hi) s =
      .next (s.withTime { s.time with sfe := { s.time.sfe with
        tip := lo.toNat, blank := hi.toNat, windowCount := 0, lowest := 255, highest := 0,
        mode := if lo.toNat + 12 ≤ hi.toNat then .levelTracking else .levelSearch } })) ∧
    (s.time.sfe.mode = .levelTracking → exec (.levelSearchWindowEnd lo hi) s = .next s)) ∧
  (∀ (sum : Nat) (w : BlankWindow) (s : State), s.resetHeld = false → s.time.sfe.blankWin = some w →
    exec (.blankReading (w.opened + 1136) sum) s = .next (s.withTime { s.time with sfe := { s.time.sfe with
      blank := ((s.time.sfe.blank : Int) + roundR (((roundR sum 32).toNat : Int) - s.time.sfe.blank) 8).toNat
      blankWin := none } })) ∧
  (∀ level reading : Nat,
    min level reading ≤ moveLevel level reading ∧ moveLevel level reading ≤ max level reading)

/-- FALLING_CROSSING with the slicer enabled and no pulse in progress starts one: its edge time by interpolation,
its step and amplitude, the loop snapshot; the activity timer restarts; an open blank window is abandoned, in its samples 1
to 39 too (log 35). Nothing else changes.

The leading-edge time lies in the 16 ticks between the two samples of the crossing. -/
def Obligations.FallingCrossingStartsAPulse : Prop :=
  (∀ (time : Ts) (before now : Code) (s : State),
    let x := s.time.sfe
    let T := (x.tip + x.blank) / 2
    s.resetHeld = false → x.mode = .levelTracking → x.tip + 12 ≤ x.blank → x.pulse = none → T < before.toNat →
    now.toNat ≤ T →
    ∃ p : Pulse, exec (.fallingCrossing time before now) s = .next (s.withTime { s.time with sfe := { x with
        pulse := some p, active := true, timer := 0, blankWin := none } }) ∧
      p.start = time ∧ p.step = (before.toNat : Int) - now.toNat ∧ p.amp = (x.blank : Int) - x.tip ∧
      p.edge = time - 16 + BitVec.ofNat 20 (min 15 (16 * (before.toNat - T) / (before.toNat - now.toNat))) ∧
      p.snap.line = s.time.loop.n ∧ p.snap.pred = BitVec.ofNat 20 (s.time.loop.P.toNat / 256) ∧
      p.snap.st = s.time.ref.st ∧ p.snap.vwin = s.time.ft.vwin ∧
      (s.time.ref.st = .acquire → p.snap.gate = some 1024) ∧
      (s.time.ref.st = .locked → p.snap.gate = some (if s.straps.tape then 160 else 48)) ∧
      (s.time.ref.st ≠ .acquire → s.time.ref.st ≠ .locked → p.snap.gate = none)) ∧
  (∀ (T : Nat) (time : Ts) (before now : Code), T < before.toNat → now.toNat ≤ T →
    (edgeTime T time before now - (time - 16)).toNat ≤ 15)

/-- The grade of a pulse is fixed at its falling crossing from its edge step and the amplitude in force, is not
changed while samples are summed over the pulse, and is the grade of its record. -/
def Obligations.GradeFollowsTheEdgeStep : Prop :=
  (∀ (time : Ts) (before now : Code) (s : State),
    s.resetHeld = false → s.time.sfe.falls before now = true →
    ∃ p : Pulse, Completes (.fallingCrossing time before now) s (fun t => t.time.sfe.pulse = some p) ∧
      p.step = (before.toNat : Int) - now.toNat ∧ p.amp = (s.time.sfe.blank : Int) - s.time.sfe.tip ∧
      (p.grade = .good ↔ 4 * p.step ≥ p.amp) ∧
      (p.grade = .fair ↔ 4 * p.step < p.amp ∧ 16 * p.step ≥ p.amp) ∧
      (p.grade = .poor ↔ 16 * p.step < p.amp)) ∧
  (∀ (p : Pulse) (now : Ts) (v : Code) (cls : PulseClass) (width : Nat),
    (p.sumTip now v).grade = p.grade ∧ (p.record cls width).grade = p.grade)

/-- RISING_CROSSING of a pulse in progress, by the pulse's width: a GLITCH leaves no record; a LINE pulse moves the tip
level, opens the blank window (where the tip update takes A below 12 too, the model's choice, log 34) and reaches the loop with its phase error, and in SEARCH, HOLD and PROBE the state
machine too, which tests it against its run, its candidate or its probe window; a NARROW pulse reaches the loop only
inside the vertical window at full-line position in ACQUIRE or LOCKED, GOOD as FAIR. A record that is not broad ends
the broad run. Nothing else changes.

While the slicer is disabled no crossing is recognised and no record issued: nothing changes. (No run has a pulse in
progress then: the invariant is in StepKeepsTheReference.) -/
def Obligations.RisingCrossingEndsThePulse : Prop :=
  ∀ (time : Ts) (before now : Code) (tipSum : Nat) (p : Pulse) (s : State),
    let x := s.time.sfe
    let width := (time - p.start).toNat / 16
    let e := tsDiff p.edge p.snap.pred
    let noRun : Ft := { s.time.ft with broadRun := 0, lastBroad := none, firstBroad := none }
    let kept (g : Grade) (cls : PulseClass) : Loop :=
      { s.time.loop with records := s.time.loop.records ++ [⟨p.edge, cls, g, e⟩] }
    let m := s.time.ref
    let run (n : Nat) (last : Option Ts) : Nat :=
      if n ≠ 0 ∧ (∃ l, last = some l ∧ (tsDiff p.edge l * 256 - fNom s.sys).natAbs ≤ (fTol s.sys).natAbs)
      then n + 1 else 1
    let window := (if s.straps.tape then 160 else 48) * 256
    let told : Ref := match m.st with
      | .search => if 8 ≤ m.searchRun then m
        else { m with searchRun := run m.searchRun m.searchEdge, searchEdge := some p.edge }
      | .hold =>
        if m.anchor ≠ none ∨ 16 ≤ m.newRun then m
        else if 256 < e.natAbs then { m with newRun := run m.newRun m.newEdge, newEdge := some p.edge }
        else if p.grade = .poor then { m with newRun := 0, newEdge := none }
        else { m with newRun := 0, newEdge := none, anchor := some p.edge, probeLines := 0, probeTally := 0 }
      | .probe =>
        if m.probeFirst = none ∧ (∃ a, m.anchor = some a ∧
          (fineDiff (fineOf p.edge) (fineOf a + BitVec.ofInt 28 ((m.probeLines + 1 : Nat) * s.time.loop.F))).natAbs
            ≤ window)
        then { m with probeFirst := some p.grade } else m
      | .acquire => m
      | .locked => m
    s.resetHeld = false → x.pulse = some p →
    (x.mode = .levelSearch ∨ x.blank < x.tip + 12 → exec (.risingCrossing time before now tipSum) s = .next s) ∧
    (x.mode = .levelTracking → x.tip + 12 ≤ x.blank → before.toNat ≤ (x.tip + x.blank) / 2 →
    (x.tip + x.blank) / 2 < now.toNat →
    (width < 24 → exec (.risingCrossing time before now tipSum) s =
      .next (s.withTime { s.time with sfe := { x with pulse := none } })) ∧
    (112 ≤ width → width ≤ 400 →
      exec (.risingCrossing time before now tipSum) s = .next (s.withTime { s.time with
        sfe := { x with
          pulse := none
          tip := ((x.tip : Int) + roundR (((roundR tipSum 32).toNat : Int) - x.tip) 8).toNat
          blankWin := some ⟨time, 0⟩ }
        loop := kept p.grade .line
        ref := told
        ft := noRun })) ∧
    (24 ≤ width → width < 112 →
      p.snap.vwin = false ∨ (p.snap.st ≠ .acquire ∧ p.snap.st ≠ .locked) ∨ (∀ g, p.snap.gate = some g → g < e.natAbs) →
      exec (.risingCrossing time before now tipSum) s = .next (s.withTime { s.time with
        sfe := { x with pulse := none }, ft := noRun })) ∧
    (∀ g, 24 ≤ width → width < 112 → p.snap.vwin = true → p.snap.st = .acquire ∨ p.snap.st = .locked →
      m.st = .acquire ∨ m.st = .locked → p.snap.gate = some g → e.natAbs ≤ g →
      exec (.risingCrossing time before now tipSum) s = .next (s.withTime { s.time with
        sfe := { x with pulse := none }
        loop := kept (if p.grade = .good then .fair else p.grade) .narrow
        ft := noRun })))

/-- BROAD_CLASSIFIED at the pulse's 401st sample ends the pulse and starts a broad run with its edge; the loop is offered
the record, GOOD as FAIR, only inside the vertical window at full-line position in ACQUIRE or LOCKED. Nothing else
changes. While the slicer is disabled no record is issued: nothing changes (no run has a pulse in progress then).

A BROAD record at half-line spacing lengthens the run, one at another spacing starts it anew, and a run that has reached 3
changes no more.

The third broad pulse of a run is judged at once. Its first edge makes it FIRST at a line start and SECOND at a half line,
both within the gate of the edge's snapshot, 1024 ticks for HOLD and PROBE, and unclassified otherwise or with no gate; that
fixes its line 0 and its count. In F_SEARCH it is accepted, into F_LOCKED if it is classified; in F_LOCKED and F_COAST it is
accepted inside the acceptance window. Outside it, it is a field slip if a stray of the field before stands within 1 of its
count, and else the stray on record, with nothing else changed. What a boundary does is Taking.effect: state, parity or
alternation, FC by one or by 1 + k, counter, the delivered plan, the reports. That a boundary in F_SEARCH sets the irregular
flag as in every other state is the model's choice (log 15), and so is the order of the blocks at it: the tracker's reports,
the bus interface, the Cue Engine, the Peer Table (log 39). -/
def Obligations.BroadPulsesTakeTheBoundary : Prop :=
  (∀ (time : Ts) (s : State), s.resetHeld = false →
    s.time.sfe.mode = .levelSearch ∨ s.time.sfe.blank < s.time.sfe.tip + 12 →
    exec (.broadClassified time) s = .next s) ∧
  (∀ (p : Pulse) (s : State),
    let e := tsDiff p.edge p.snap.pred
    let gated := p.snap.st = .acquire ∨ p.snap.st = .locked
    let on (loop : Loop) : Host.Outcome State Fault Refusal := .next (s.withTime { s.time with
      sfe := { s.time.sfe with pulse := none }
      loop := loop
      ft := { s.time.ft with broadRun := 1, lastBroad := some p.edge, firstBroad := some ⟨p.edge, p.snap⟩ } })
    s.resetHeld = false → s.time.sfe.pulse = some p → s.time.sfe.mode = .levelTracking →
    s.time.sfe.tip + 12 ≤ s.time.sfe.blank → s.time.ft.broadRun = 0 →
    (p.snap.vwin = false ∨ ¬gated ∨ (∀ g, p.snap.gate = some g → g < e.natAbs) →
      exec (.broadClassified (p.start + 6400)) s = on s.time.loop) ∧
    (∀ g, p.snap.vwin = true → gated → s.time.ref.st = .acquire ∨ s.time.ref.st = .locked → p.snap.gate = some g →
      e.natAbs ≤ g →
      exec (.broadClassified (p.start + 6400)) s = on { s.time.loop with records := s.time.loop.records ++
        [⟨p.edge, .broad, if p.grade = .good then .fair else p.grade, e⟩] })) ∧
  (∀ (p : Pulse) (last : Ts) (s : State),
    let x := s.time.ft
    let half : Prop := (16 * (tsDiff p.edge last * 256) - 8 * s.time.loop.F).natAbs ≤ s.time.loop.F.natAbs
    let follows (ft : Ft) : Prop := Completes (.broadClassified (p.start + 6400)) s (fun t =>
      t.time.sfe = { s.time.sfe with pulse := none } ∧ t.time.ft = ft ∧ t.desk = s.desk ∧ t.time.tdu = s.time.tdu)
    s.resetHeld = false → s.time.sfe.pulse = some p → s.time.sfe.mode = .levelTracking →
    s.time.sfe.tip + 12 ≤ s.time.sfe.blank → x.lastBroad = some last →
    (x.broadRun = 1 → half → follows { x with broadRun := 2, lastBroad := some p.edge }) ∧
    (x.broadRun = 1 ∨ x.broadRun = 2 → ¬half →
      follows { x with broadRun := 1, lastBroad := some p.edge, firstBroad := some ⟨p.edge, p.snap⟩ }) ∧
    (x.broadRun = 3 → follows x)) ∧
  (∀ (p : Pulse) (last : Ts) (b : BroadStart) (s : State),
    let x := s.time.ft
    let gate : Option Nat := match b.snap.st with
      | .search => none
      | .acquire => b.snap.gate
      | .locked => b.snap.gate
      | .hold => some 1024
      | .probe => some 1024
    let near (d : Int) : Bool := match gate with
      | some g => decide (d.natAbs ≤ g)
      | none => false
    let d := tsDiff b.edge b.snap.pred
    let dHalf := tsDiff b.edge (b.snap.pred - BitVec.ofInt 20 (s.time.loop.F / 512))
    let parity : Option Parity := if near d then some .first else if near dHalf then some .second else none
    let before : Int := if near d then 0 else if near dHalf || decide (d < 0) then 1 else 0
    let count : Int := (x.counter : Int) - ((s.time.loop.n : Int) - b.snap.line) - before
    let inside : Bool := decide ((count - nominalCount s.sys x.parity).natAbs ≤ (if s.straps.tape then 8 else 1))
    let confirmed : Prop := ∃ w, x.stray = some w ∧ w.fieldBefore = true ∧ (w.count - count).natAbs ≤ 1
    let third (q : State → Prop) : Prop := Completes (.broadClassified (p.start + 6400)) s (fun t =>
      t.time.sfe = { s.time.sfe with pulse := none } ∧ t.time.loop.F = s.time.loop.F ∧ t.time.loop.P = s.time.loop.P ∧
      t.time.ref.st = s.time.ref.st ∧ t.time.ft.broadRun = 3 ∧ t.time.ft.lastBroad = some p.edge ∧
      t.time.ft.firstBroad = some b ∧ q t)
    let takes (start : StartKind) (fs : FieldSt) (slip : Bool) : Prop :=
      third (fun t => (⟨start, fs, 0, count, parity, true, slip⟩ : Taking).effect s t)
    s.resetHeld = false → s.time.sfe.pulse = some p → s.time.sfe.mode = .levelTracking →
    s.time.sfe.tip + 12 ≤ s.time.sfe.blank → x.broadRun = 2 → x.lastBroad = some last → x.firstBroad = some b →
    (16 * (tsDiff p.edge last * 256) - 8 * s.time.loop.F).natAbs ≤ s.time.loop.F.natAbs →
    (x.fs = .search → takes (if inside then .accepted else .slip) (if parity = none then .search else .locked) false) ∧
    (x.fs ≠ .search → inside = true → takes .accepted .locked false) ∧
    (x.fs ≠ .search → inside = false → confirmed → takes .slip .locked true) ∧
    (x.fs ≠ .search → inside = false → ¬confirmed → third (fun t =>
      t.time.ft = { x with broadRun := 3, lastBroad := some p.edge, stray := some ⟨count, false⟩ } ∧
      t.time.tdu = s.time.tdu ∧ t.desk = s.desk)))

/-- SYNC_ACTIVITY_LOSS abandons the work in progress, starts level search with the levels kept, and tells the state
machine, by the state in force. A monitor already in LOST has no such event (log 2). -/
def Obligations.ActivityLossByReferenceState : Prop :=
  ∀ s : State, s.resetHeld = false →
    let lost : Sfe := { s.time.sfe with mode := .levelSearch, pulse := none, blankWin := none, active := false,
                                        timer := 0, windowCount := 0, lowest := 255, highest := 0 }
    (s.time.sfe.active = true →
      (s.time.ref.st = .search → exec .syncActivityLoss s = .next (s.withTime { s.time with
        sfe := lost, ref := { s.time.ref with searchRun := 0, searchEdge := none } })) ∧
      (s.time.ref.st = .hold → exec .syncActivityLoss s = .next (s.withTime { s.time with
        sfe := lost, ref := { s.time.ref with newRun := 0, newEdge := none } })) ∧
      (s.time.ref.st ≠ .search → s.time.ref.st ≠ .hold → exec .syncActivityLoss s = .next (s.withTime { s.time with
        sfe := lost, ref := { s.time.ref with pendingLoss := true } }))) ∧
    (s.time.sfe.active = false → exec .syncActivityLoss s = .next s)

/-! ## Line boundaries -/

/-- LINE_BOUNDARY of a GOOD line in LOCKED: F moves by R(e·256/2^ki) within the clamp range, C is R(e·256/2^kp), the
prediction moves on by the new F and C, the runs end, and the next line opens. A FAIR line moves C alone, with F and the
pinned counts as they were. The SFE and the straps stay. -/
def Obligations.AcceptedLinesSteerTheLoop : Prop :=
  ∀ (time : Ts) (r : LoopRecord) (s : State),
    let tape := s.straps.tape
    let gate := if tape then 160 else 48
    let sum := s.time.loop.F + roundR (r.e * 256) (2 ^ (if tape then 8 else 10))
    let F := max (fMin s.sys) (min (fMax s.sys) sum)
    let C := roundR (r.e * 256) (2 ^ (if tape then 2 else 3))
    s.resetHeld = false → s.lineFree = true → s.time.ref.st = .locked → s.time.ref.pendingLoss = false →
    s.time.loop.records.find? (fun x => decide (x.e.natAbs ≤ gate)) = some r →
    (r.grade = .good → Completes (.lineBoundary time) s (fun t =>
      t.time.loop = { s.time.loop with
        n := s.time.loop.n + 1
        F := F
        P := s.time.loop.P + BitVec.ofInt 28 (F + C)
        C := C
        missRun := 0
        jumpRun := 0
        lastRejected := none
        pinnedRun := if fMin s.sys ≤ sum ∧ sum ≤ fMax s.sys then 0 else min 256 (s.time.loop.pinnedRun + 1)
        pinnedCount := if fMin s.sys ≤ sum ∧ sum ≤ fMax s.sys then s.time.loop.pinnedCount
          else min 255 (s.time.loop.pinnedCount + 1)
        records := [] } ∧
      t.time.ref.st = .locked ∧ t.time.sfe = s.time.sfe ∧ t.straps = s.straps)) ∧
    (r.grade = .fair → Completes (.lineBoundary time) s (fun t =>
      t.time.loop = { s.time.loop with
        n := s.time.loop.n + 1, P := s.time.loop.P + BitVec.ofInt 28 (s.time.loop.F + C), C := C
        missRun := 0, jumpRun := 0, lastRejected := none, records := [] } ∧
      t.time.ref.st = .locked ∧ t.time.sfe = s.time.sfe ∧ t.straps = s.straps))

/-- LINE_BOUNDARY of a line in LOCKED that is not accepted, MISSING, POOR or REJECTED with no re-anchoring: the loop flywheels
at the F it holds and counts a miss. A REJECTED line begins a jump run, or lengthens it when its edge lies one line length
after the last rejected edge, within the gate; a MISSING or POOR one ends it. The miss that reaches M takes the station to
HOLD with the aging count at 0 and the runs ended.

A pending loss takes it there at the end of any line. REF_STATE is posted, as the first record of a report queue that was
empty, when the boundary brings no coasted field. -/
def Obligations.UnacceptedLinesEndInHold : Prop :=
  ∀ (time : Ts) (s : State),
    let l := s.time.loop
    let limit := if s.straps.tape then 12 else 6
    let gate := if s.straps.tape then 160 else 48
    let inGate := l.records.find? (fun x => decide (x.e.natAbs ≤ gate))
    let flown : Loop := { l with
      n := l.n + 1, P := l.P + BitVec.ofInt 28 l.F, C := 0, missRun := l.missRun + 1, jumpRun := 0
      lastRejected := none, records := [] }
    let holds (why : RefCause) (q : Loop → Prop) : Prop := Completes (.lineBoundary time) s (fun t =>
      t.time.ref.st = .hold ∧ t.time.ref.aging = 0 ∧ t.time.ref.pendingLoss = false ∧ t.lor = true ∧ q t.time.loop ∧
      (s.desk.hp.reports = [] → s.time.ft.coastsNow s.sys s.straps.tape = false →
        ∃ more, t.desk.hp.reports = ⟨.refState .hold .locked why s.fc, 0⟩ :: more))
    let misses (next : Loop) : Prop :=
      (l.missRun + 1 < limit → Completes (.lineBoundary time) s (fun t =>
        t.time.loop = next ∧ t.time.ref.st = .locked ∧ t.time.sfe = s.time.sfe)) ∧
      (l.missRun + 1 = limit → holds .misses (fun l' =>
        l' = { next with missRun := 0, jumpRun := 0, lastRejected := none, pinnedRun := 0 }))
    s.resetHeld = false → s.lineFree = true → s.time.ref.st = .locked →
    (s.time.ref.pendingLoss = false →
      (l.records = [] → misses flown) ∧
      (∀ r, inGate = some r → r.grade = .poor → misses flown) ∧
      (∀ r rest run, l.records = r :: rest → inGate = none →
        ((∃ last, l.lastRejected = some last ∧ l.jumpRun ≠ 0 ∧
            (fineDiff (fineOf r.edge) (fineOf last + BitVec.ofInt 28 l.F)).natAbs ≤ gate * 256) →
          run = min 4 (l.jumpRun + 1)) →
        ((∀ last, l.lastRejected = some last → l.jumpRun = 0 ∨
            gate * 256 < (fineDiff (fineOf r.edge) (fineOf last + BitVec.ofInt 28 l.F)).natAbs) → run = 1) →
        run < (if s.straps.tape then 2 else 4) →
        misses { flown with jumpRun := run, lastRejected := some r.edge })) ∧
    (s.time.ref.pendingLoss = true → holds .activityLost (fun l' =>
      l'.n = l.n + 1 ∧ l'.missRun = 0 ∧ l'.jumpRun = 0 ∧ l'.lastRejected = none ∧ l'.pinnedRun = 0 ∧ l'.records = []))

/-- The jump detector: the J-th REJECTED line in LOCKED whose edge lies one line length after the last rejected edge,
within the gate, moves the prediction to one line after its edge; F stays, the runs end, the jump count rises to
255 at most, and the station stays LOCKED. -/
def Obligations.JumpRunReanchorsTheLoop : Prop :=
  ∀ (time : Ts) (r : LoopRecord) (rest : List LoopRecord) (last : Ts) (s : State),
    let tape := s.straps.tape
    let gate := if tape then 160 else 48
    s.resetHeld = false → s.lineFree = true → s.time.ref.st = .locked → s.time.ref.pendingLoss = false →
    s.time.loop.records = r :: rest → (∀ x ∈ s.time.loop.records, gate < x.e.natAbs) →
    s.time.loop.jumpRun = (if tape then 1 else 3) → s.time.loop.lastRejected = some last →
    (fineDiff (fineOf r.edge) (fineOf last + BitVec.ofInt 28 s.time.loop.F)).natAbs ≤ gate * 256 →
    Completes (.lineBoundary time) s (fun t =>
      t.time.loop.P = fineOf r.edge + BitVec.ofInt 28 s.time.loop.F ∧ t.time.loop.C = 0 ∧
      t.time.loop.F = s.time.loop.F ∧ t.time.loop.jumpRun = 0 ∧ t.time.loop.missRun = 0 ∧
      t.time.loop.jumpCount = min 255 (s.time.loop.jumpCount + 1) ∧ t.time.ref.st = .locked)

/-- A SEARCH line whose run has reached 8 takes the station to ACQUIRE, with the loop anchored a whole number of line
lengths after the run's last edge: the first such time that lies after the boundary sample.

A SEARCH line whose run is below 8 leaves the station in SEARCH with its run and its last edge; the loop flywheels, and its
counts stand still. -/
def Obligations.SearchAnchorsOnTheRun : Prop :=
  (∀ (time edge : Ts) (s : State), s.resetHeld = false → s.lineFree = true → s.time.ref.st = .search →
    8 ≤ s.time.ref.searchRun → s.time.ref.searchEdge = some edge → s.freqOk →
    0 ≤ fineDiff (fineOf time) (fineOf edge) →
    Completes (.lineBoundary time) s (fun t =>
      t.time.ref.st = .acquire ∧ t.time.ref.quality = 0 ∧ t.time.ref.searchRun = 0 ∧
      t.time.loop.F = s.time.loop.F ∧ t.time.loop.C = 0 ∧
      (∃ k : Nat, 1 ≤ k ∧ t.time.loop.P = fineOf edge + BitVec.ofInt 28 (k * s.time.loop.F)) ∧
      0 < fineDiff t.time.loop.P (fineOf time) ∧ fineDiff t.time.loop.P (fineOf time) ≤ s.time.loop.F)) ∧
  (∀ (time : Ts) (s : State), s.resetHeld = false → s.lineFree = true → s.time.ref.st = .search →
    s.time.ref.searchRun < 8 →
    Completes (.lineBoundary time) s (fun t =>
      t.time.ref = { s.time.ref with pendingLoss := false } ∧
      t.time.loop = { s.time.loop with
        n := s.time.loop.n + 1, P := s.time.loop.P + BitVec.ofInt 28 s.time.loop.F, C := 0, records := [] } ∧
      t.time.sfe = s.time.sfe))

/-- Every change of the reference state is one of the chapter's: SEARCH to ACQUIRE; ACQUIRE to SEARCH or LOCKED; LOCKED
to HOLD; HOLD to ACQUIRE, PROBE or SEARCH; PROBE to LOCKED, HOLD or SEARCH. Only line boundaries make one.

A change at LINE_BOUNDARY posts REF_STATE with its cause and FC, as the first record of a report queue that was empty, when
the boundary brings no coasted field. A PROBE that ages out has cause AGED, with a loss pending too (log 14).

LINE_BOUNDARY in ACQUIRE: a GOOD or FAIR line within 32 ticks raises the quality run to 64 at most, any other line sets it
to 0; at 64 with the tracker in F_LOCKED the station is LOCKED; the 16th miss in a row, a pending loss, or the 256th pinned
GOOD line in a row leads to SEARCH, the last with F at a limit and FREQ_RANGE after REF_STATE.

LINE_BOUNDARY in HOLD before the aging limit: a candidate leads to PROBE with its anchor, else the station stays and ages. A
new-source run of 16 leads to ACQUIRE, at the limit too, anchored whole line lengths after the run's last edge.

LINE_BOUNDARY in PROBE: a line with a GOOD or FAIR first record in window counts for the tally; the 8th line leads to
LOCKED, anchored 9 line lengths after the candidate, with a tally of 6, and to HOLD with less; a pending loss leads to HOLD. In
HOLD and PROBE the loop flywheels. -/
def Obligations.ReferenceStatesMoveAsTheChapterSays : Prop :=
  (∀ (c : Instr) (s t : State), exec c s = .next t → c ≠ .hardwareReset →
    (∀ stn sys tape, c ≠ .resetRelease stn sys tape) → t.time.ref.st ≠ s.time.ref.st →
    ((∃ time, c = .lineBoundary time ∨ c = .holdAgingRunsOut time ∨ c = .coastedBoundary time) ∧
      ((s.time.ref.st = .search ∧ t.time.ref.st = .acquire) ∨
       (s.time.ref.st = .acquire ∧ (t.time.ref.st = .search ∨ t.time.ref.st = .locked)) ∨
       (s.time.ref.st = .locked ∧ t.time.ref.st = .hold) ∨
       (s.time.ref.st = .hold ∧ (t.time.ref.st = .acquire ∨ t.time.ref.st = .probe ∨ t.time.ref.st = .search)) ∨
       (s.time.ref.st = .probe ∧ (t.time.ref.st = .locked ∨ t.time.ref.st = .hold ∨ t.time.ref.st = .search))))) ∧
  (∀ (time : Ts) (s t : State), exec (.lineBoundary time) s = .next t → t.time.ref.st ≠ s.time.ref.st →
    s.desk.hp.reports = [] → s.time.ft.coastsNow s.sys s.straps.tape = false →
    let loss := s.time.ref.pendingLoss
    ∃ cause more, t.desk.hp.reports = ⟨.refState t.time.ref.st s.time.ref.st cause s.fc, 0⟩ :: more ∧
      match s.time.ref.st, t.time.ref.st with
      | .search, _ => cause = .sourceFound
      | .acquire, .locked => cause = .lockConfirmed
      | .acquire, _ => if loss then cause = .activityLost else cause = .pinned ∨ cause = .misses
      | .locked, _ => cause = if loss then .activityLost else .misses
      | .hold, .probe => cause = .candidate
      | .hold, .acquire => cause = .newSource
      | .hold, _ => cause = .aged
      | .probe, .locked => cause = .probeConfirmed
      | .probe, .search => cause = .aged
      | .probe, _ => cause = if loss then .activityLost else .probeFailed) ∧
  (∀ (time : Ts) (s : State),
    let m := s.time.ref
    let l := s.time.loop
    let inGate := l.records.find? (fun x => decide (x.e.natAbs ≤ 1024))
    let gets (p : Ref → Loop → Prop) : Prop := Completes (.lineBoundary time) s (fun t => p t.time.ref t.time.loop)
    s.resetHeld = false → s.lineFree = true → m.st = .acquire →
    (m.pendingLoss = true → gets (fun m' _ => m'.st = .search)) ∧
    let sum (r : LoopRecord) : Int := l.F + roundR (r.e * 256) (2 ^ 6)
    (∀ r, m.pendingLoss = false → inGate = some r → r.grade = .good → 255 ≤ l.pinnedRun →
      sum r < fMin s.sys ∨ fMax s.sys < sum r → Completes (.lineBoundary time) s (fun t =>
        let F := max (fMin s.sys) (min (fMax s.sys) (sum r))
        t.time.ref.st = .search ∧ t.time.loop.F = F ∧ t.time.loop.pinnedRun = 0 ∧ t.time.loop.missRun = 0 ∧
        t.time.loop.pinnedCount = min 255 (l.pinnedCount + 1) ∧
        (s.desk.hp.reports = [] → s.time.ft.coastsNow s.sys s.straps.tape = false →
          ∃ more, t.desk.hp.reports = ⟨.refState .search .acquire .pinned s.fc, 0⟩ ::
            ⟨.freqRange F (decide (fMax s.sys < sum r)), 0⟩ :: more))) ∧
    (∀ r, m.pendingLoss = false → inGate = some r → r.grade ≠ .poor → (r.grade = .fair → l.pinnedRun < 256) →
      (r.grade = .good → l.pinnedRun < 255 ∨ (fMin s.sys ≤ sum r ∧ sum r ≤ fMax s.sys)) →
      let q := if r.e.natAbs ≤ 32 then min 64 (m.quality + 1) else 0
      (q = 64 → s.time.ft.fs = .locked → gets (fun m' l' => m'.st = .locked ∧ m'.aging = 0 ∧ l'.missRun = 0)) ∧
      (q ≠ 64 ∨ s.time.ft.fs ≠ .locked → gets (fun m' l' => m'.st = .acquire ∧ m'.quality = q ∧ l'.missRun = 0))) ∧
    (m.pendingLoss = false → (∀ r, inGate = some r → r.grade = .poor) → l.pinnedRun < 256 →
      (l.missRun + 1 < 16 → gets (fun m' l' => m'.st = .acquire ∧ m'.quality = 0 ∧ l'.missRun = l.missRun + 1)) ∧
      (l.missRun + 1 = 16 → gets (fun m' l' => m'.st = .search ∧ l'.F = l.F ∧ l'.missRun = 0)))) ∧
  (∀ (time : Ts) (s : State),
    let m := s.time.ref
    let l := s.time.loop
    let limit := match s.sys with
      | .sys625 => 15625
      | .sys525 => 15750
    let flown : Loop := { l with n := l.n + 1, P := l.P + BitVec.ofInt 28 l.F, C := 0, records := [] }
    let moved : Loop := { flown with missRun := 0, jumpRun := 0, lastRejected := none, pinnedRun := 0 }
    let gets (p : Ref → Loop → Prop) : Prop := Completes (.lineBoundary time) s (fun t => p t.time.ref t.time.loop)
    s.resetHeld = false → s.lineFree = true →
    (m.st = .hold → m.newRun < 16 → m.aging + 1 < limit →
      (∀ a, m.anchor = some a → gets (fun m' l' => m'.st = .probe ∧ m'.anchor = some a ∧ m'.probeLines = 0 ∧
        m'.probeTally = 0 ∧ m'.aging = m.aging + 1 ∧ l' = moved)) ∧
      (m.anchor = none → gets (fun m' l' => m'.st = .hold ∧ m'.newRun = m.newRun ∧ m'.aging = m.aging + 1 ∧ l' = flown))) ∧
    (∀ edge, m.st = .hold → 16 ≤ m.newRun → m.newEdge = some edge → s.freqOk →
      0 ≤ fineDiff (fineOf time) (fineOf edge) →
      gets (fun m' l' => m'.st = .acquire ∧ m'.quality = 0 ∧ m'.newRun = 0 ∧ m'.aging = 0 ∧ l'.F = l.F ∧ l'.C = 0 ∧
        (∃ k : Nat, 1 ≤ k ∧ l'.P = fineOf edge + BitVec.ofInt 28 (k * l.F)) ∧
        0 < fineDiff l'.P (fineOf time) ∧ fineDiff l'.P (fineOf time) ≤ l.F)) ∧
    (m.st = .probe →
      let tally := if m.probeFirst = some .good ∨ m.probeFirst = some .fair then min 8 (m.probeTally + 1) else m.probeTally
      let back (m' : Ref) (l' : Loop) : Prop := m'.st = .hold ∧ m'.anchor = none ∧ m'.probeLines = 0 ∧
        m'.probeTally = 0 ∧ m'.newRun = 0 ∧ m'.aging = m.aging + 1 ∧ l' = moved
      (m.pendingLoss = true → m.aging + 1 < limit → gets back) ∧
      (m.pendingLoss = false → m.aging + 1 < limit → m.probeLines + 1 < 8 →
        gets (fun m' l' => m'.st = .probe ∧ m'.anchor = m.anchor ∧ m'.probeLines = m.probeLines + 1 ∧
          m'.probeTally = tally ∧ m'.probeFirst = none ∧ m'.aging = m.aging + 1 ∧ l' = flown)) ∧
      (m.pendingLoss = false → m.aging + 1 < limit → m.probeLines + 1 = 8 → tally < 6 → gets back) ∧
      (∀ a, m.pendingLoss = false → m.probeLines + 1 = 8 → 6 ≤ tally → m.anchor = some a →
        gets (fun m' l' => m'.st = .locked ∧ m'.anchor = none ∧ m'.aging = 0 ∧
          l' = { moved with P := fineOf a + BitVec.ofInt 28 (9 * l.F) }))))

/-- HOLD_AGING_RUNS_OUT: at the line boundary of a HOLD line at which the aging count reaches 15,625 (625 lines) or
15,750 (525 lines), with no new source, the station goes to SEARCH and the loop flywheels; so it does in PROBE, unless that
line ends the probe with a tally of 6 or more and no loss is pending (a loss at that boundary: log 14). Before that
boundary there is no such event (log 6).

COASTED_BOUNDARY: the line boundary that closes the line two past the last accepted place takes a boundary of the
nominal count, with no parity of its own: F_LOCKED goes to F_COAST with one coast, the fourth coasted field in a row goes to
F_SEARCH. What a boundary does is Taking.effect, after the tracker has counted the line: the parity that two peers or more
agree on is adopted in LOCKED, FC advances by one or by 1 + k, and FIELD_STATE, COUNT_ADOPTED and PARITY_ADOPTED are posted,
before the work of the other blocks (log 39). It comes after the closed line's hand-over, and the next line's list after it,
on what it leaves (log 54). Before that line there is no such event (log 6).

LINE_BOUNDARY that brings no coasted field counts the line; the vertical window opens 10 lines before the nominal count,
closes at line 10, and stays open in F_SEARCH. -/
def Obligations.AgedAndCoastedBoundariesAct : Prop :=
  (∀ (time : Ts) (s : State),
    let m := s.time.ref
    let limit := match s.sys with
      | .sys625 => 15625
      | .sys525 => 15750
    let tally := if m.probeFirst = some .good ∨ m.probeFirst = some .fair then min 8 (m.probeTally + 1) else m.probeTally
    s.resetHeld = false →
    (s.lineFree = true → m.aging + 1 = limit →
      (m.st = .hold ∧ m.newRun < 16) ∨
        (m.st = .probe ∧ (m.pendingLoss = true ∨ m.probeLines + 1 < 8 ∨ tally < 6 ∨ m.anchor = none)) →
      Completes (.holdAgingRunsOut time) s (fun t =>
        t.time.ref.st = .search ∧ t.time.ref.anchor = none ∧ t.time.loop.n = s.time.loop.n + 1 ∧
        t.time.loop.F = s.time.loop.F ∧ t.time.loop.P = s.time.loop.P + BitVec.ofInt 28 s.time.loop.F ∧
        t.time.sfe = s.time.sfe)) ∧
    (m.aging + 1 < limit → exec (.holdAgingRunsOut time) s = .next s)) ∧
  (∀ (time : Ts) (s : State),
    let x := s.time.ft
    let nominal := nominalCount s.sys x.parity
    let last := nominal + (if s.straps.tape then 8 else 1) + 2
    let counted : Ft := { x with
      counter := x.counter + 1
      vwin := if x.fs = .search ∨ x.counter + 1 = nominal - 10 then true
        else if x.counter + 1 = 10 then false else x.vwin }
    let k := s.closeLine time
    let handed := k.1.handOver k.2.step
    let u := handed.1.openLine
    let takes (fs : FieldSt) (coasts : Nat) : Prop := Completes (.coastedBoundary time) s (fun t =>
      u.time.ft = counted ∧ ∃ w : State, t = w.buildList handed.2 ∧
        w = { u with time := { u.time with ft := w.time.ft, tdu := w.time.tdu }, desk := w.desk } ∧
        w.time.ft.broadRun = x.broadRun ∧ w.time.ft.lastBroad = x.lastBroad ∧ w.time.ft.firstBroad = x.firstBroad ∧
        (⟨.coasted, fs, coasts, nominal, none, false, false⟩ : Taking).effect u w)
    s.resetHeld = false →
    (s.lineFree = true → last ≤ x.counter →
      (x.fs = .search → takes .search 0) ∧
      (x.fs = .locked → takes .coast 1) ∧
      (x.fs = .coast → x.coasts < 3 → takes .coast (x.coasts + 1)) ∧
      (x.fs = .coast → 3 ≤ x.coasts → takes .search 0)) ∧
    (x.counter < last → exec (.coastedBoundary time) s = .next s ∧
      (s.lineFree = true → Completes (.lineBoundary time) s (fun t => t.time.ft = counted))))

/-! ## Delivered timing -/

/-- A hand-over: the delivered line's length is F, a slew within the limit toward C − D − Y, and the step X, if one is
pending; its length without the step is the base of the next provisional one (log 7). It fixes the open line if that is its
line and gives the next start, and otherwise waits for its line. D becomes D + Y + K − C − A, a signed modular value (log
29). With D then three quarters of a line or more before H_off (the one in force, log 40), one line more is inserted, of
length F and its own slew, both of which D takes (log 10). The step is spent.

The slip detector then counts the hand-overs in a row in ACQUIRE or LOCKED with D more than 256 ticks from zero, to 3; any
other hand-over sets it to 0. At 3 it places a SLIP and posts SLIP_PENDING, unless a SLIP is queued already.

The queue is applied at the hand-over of the planned line, of a line whose boundary stood when the tracker's came before
its hand-over, and at the first after a boundary found early, a withdrawn plan's application before it or not (log 58);
it acts on the D just formed, that of the inserted line if there is one, as the detector does (log 65), and the queue with
the detector's SLIP, and a step that is not zero makes a slip field. The step acts on the line paired with the next reference
line (log 57). At no other hand-over does an entry leave.

An application starts from the H_off that the last one left (log 48), with a CONFIGURE's step of H_off first, and takes the
entries in order. SLIP and RECENTRE take −D as far as the running step stays within ±8192 ticks, or stay while slips are
held; a SHIFT is reduced to the range of H_off, then to the limit in whole ticks (log 13), and what is cut off goes to the
excess. SLIP_DONE gives the amount and the final working D (log 12) in ticks. The new H_off, PPL and key delay wait for the
line paired with line n + 2 (log 41).

It never steps a line by more than 8192 ticks, keeps H_off in its range, and keeps only held SLIP and RECENTRE entries. -/
def Obligations.HandOverSlewsDetectsAndSteps : Prop :=
  (∀ (tape : Bool) (n : Nat) (F c A : Int) (st : RefSt) (fc : FieldCount) (x : Tdu),
    let limit : Int := if tape then 2048 else 1024
    let slew (y : Int) : Int := max (-limit) (min limit y)
    let modular (y : Int) : Int := (BitVec.ofInt 28 y).toInt
    let K := slew (c - (x.D + x.stepY))
    let len := F + K + x.stepX
    let D := modular (x.D + x.stepY + K - c - A)
    let far : Prop := 4 * (D + x.hoff * 256) ≤ -3 * F
    let K2 := slew (0 - modular (D + F))
    let h := x.handOver tape n F c A st fc
    let seen := ({ x with D := h.tdu.D } : Tdu).detectSlip st fc
    (h.inserted = true ↔ far) ∧
    (¬far → h.tdu.D = D ∧ h.tdu.lastLen = F + K) ∧
    (far → h.tdu.D = modular (modular (D + F) + K2) ∧ h.tdu.lastLen = F + K2) ∧
    (∀ more : List FixedLine, (far → more = [⟨none, F + K2⟩]) → (¬far → more = []) →
      (∀ o, x.openLine = some o → o.ref = some n → o.len = none →
        (∃ i num, h.tdu.openLine = some { o with len := some len, baseIx := i, baseNum := num }) ∧
        h.tdu.nextStart = o.start + BitVec.ofInt 28 len ∧ h.tdu.fixedLines = x.fixedLines ++ more) ∧
      ((∀ o, x.openLine = some o → o.ref ≠ some n ∨ o.len ≠ none) →
        h.tdu.openLine = x.openLine ∧ h.tdu.nextStart = x.nextStart ∧
        h.tdu.fixedLines = x.fixedLines ++ ⟨some n, len⟩ :: more)) ∧
    h.tdu.hoff = x.hoff ∧ h.tdu.ppl = x.ppl ∧ h.tdu.slipDet = seen.1.slipDet ∧ h.pending = seen.2 ∧
    (x.applyNext = false → x.applyAt ≠ some n → x.plan.line ≠ n →
      h.tdu.queue = seen.1.queue ∧ h.left = [] ∧ h.done = [] ∧ h.tdu.stepX = 0 ∧ h.tdu.stepY = 0 ∧
      h.tdu.applyAt = x.applyAt ∧ h.tdu.newVals = x.newVals ∧ h.tdu.slipField = x.slipField)) ∧
  (∀ (tape : Bool) (n : Nat) (F c A : Int) (st : RefSt) (fc : FieldCount) (x : Tdu),
    let y := ((x.formLines tape n F c A).detectSlip st fc).1
    let h := x.handOver tape n F c A st fc
    x.applyNext = true ∨ x.applyAt = some n ∨ x.plan.line = n →
    h.left = y.applied.left ∧ h.tdu.queue = y.applied.kept ∧ h.tdu.stepX = y.applied.T ∧ h.tdu.stepY = y.applied.Y ∧
    h.tdu.D = y.D ∧ h.tdu.shiftExcess = y.applied.excess ∧ h.tdu.holdCount = x.holdCount - 1 ∧
    h.tdu.slipField = (x.slipField || y.applied.T != 0) ∧ h.tdu.pendCfg = none ∧ h.tdu.applyNext = false ∧
    h.tdu.applyAt = (if x.applyAt = some n then none else x.applyAt) ∧
    h.pending = ((x.formLines tape n F c A).detectSlip st fc).2 ∧
    (∀ amount, y.applied.slipDone = some amount →
      h.done = [.slipDone (roundR amount 256) (roundR y.applied.D 256) fc]) ∧
    (y.applied.slipDone = none → h.done = []) ∧ h.tdu.hoff = x.hoff ∧ h.tdu.ppl = x.ppl ∧
    (∀ q, x.pendCfg = some q → h.tdu.newVals = some ⟨n + 2, q.ppl, y.applied.hoff, some q.keyDelay⟩) ∧
    (x.pendCfg = none → x.newVals = none →
      h.tdu.newVals = if y.applied.hoff = x.hoff then none else some ⟨n + 2, x.ppl, y.applied.hoff, none⟩) ∧
    (∀ v, x.pendCfg = none → x.newVals = some v →
      h.tdu.newVals = if y.applied.hoff = v.hoff then some v else some ⟨n + 2, v.ppl, y.applied.hoff, v.keyDelay⟩)) ∧
  (∀ (old new : Int) (x : Tdu),
    (x.newVals = none → old = x.hoff) → (∀ v, x.newVals = some v → old = v.hoff) →
    (x.pendCfg = none → new = old) → (∀ q, x.pendCfg = some q → new = q.hoff) →
    x.applied = x.queue.foldl (fun a e => a.entry x.holdCount e) {
      T := (new - old) * 256, Y := 0, D := x.D, hoff := new, excess := x.shiftExcess, kept := [], left := []
      slipDone := none }) ∧
  (∀ (hold : Nat) (e : AdjEntry) (a : Applying),
    let limit : Int := 8192 * 256
    let b := a.entry hold e
    (e.kind = .slip ∨ e.kind = .recentre →
      let allowed := max (-limit) (min limit (a.T - a.D)) - a.T
      (hold = 0 → b = { a with
        T := a.T + allowed, Y := a.Y + allowed, D := a.D + allowed, left := a.left ++ [e]
        slipDone := if e.kind = .slip then some allowed else a.slipDone }) ∧
      (hold ≠ 0 → b = { a with kept := a.kept ++ [e] })) ∧
    (∀ amount, e.kind = .shift amount →
      let inRange := max (-2048) (min 2047 (a.hoff + amount)) - a.hoff
      ∃ part, b = { a with
          T := a.T + part * 256, hoff := a.hoff + part, left := a.left ++ [e]
          excess := max (-32768) (min 32767 (a.excess + (amount - part))) } ∧
        ((a.T + inRange * 256).natAbs ≤ limit → part = inRange) ∧
        (limit < a.T + inRange * 256 → a.T + part * 256 ≤ limit ∧ limit < a.T + (part + 1) * 256) ∧
        (a.T + inRange * 256 < -limit → -limit ≤ a.T + part * 256 ∧ a.T + (part - 1) * 256 < -limit))) ∧
  (∀ (st : RefSt) (fc : FieldCount) (x : Tdu),
    let settled : Prop := st = .acquire ∨ st = .locked
    (settled → 65536 < x.D.natAbs →
      (x.slipDet < 2 → x.detectSlip st fc = ({ x with slipDet := x.slipDet + 1 }, [])) ∧
      (2 ≤ x.slipDet → x.slips = 0 →
        x.detectSlip st fc = ({ x with slipDet := 3, queue := x.queue ++ [⟨.slip, false⟩] },
          [.slipPending (roundR x.D 256) x.holdCount fc])) ∧
      (2 ≤ x.slipDet → 0 < x.slips → x.detectSlip st fc = ({ x with slipDet := 3 }, []))) ∧
    (x.D.natAbs ≤ 65536 ∨ ¬settled → x.detectSlip st fc = ({ x with slipDet := 0 }, []))) ∧
  (∀ x : Tdu, x.rangesOk →
    x.applied.T.natAbs ≤ 8192 * 256 ∧ -2048 ≤ x.applied.hoff ∧ x.applied.hoff ≤ 2047 ∧
    (∀ e ∈ x.applied.kept, e ∈ x.queue ∧ (e.kind = .slip ∨ e.kind = .recentre)) ∧
    (x.holdCount = 0 → x.applied.kept = []))

/-- DELIVERED_LINE_START once the line before has its length: HSYNC is asserted, the next line opens at its start, the
Keyer takes the line's list, and permits keying only in LOCKED, HOLD or PROBE, outside slip fields, with join quiet 0, within
a quarter line of the reference, on a keyable line. Before that nothing happens (log 2). That a line starts with an empty list
where none is ready is the model's choice (log 28).

A setting of the slip-field flag during one line acts from the next: the line lies in a slip field by the flag that came with
its list, or by the one in force as it begins. That the flag which a FIRST boundary sets at the line's very start counts for
that line is the model's choice (log 68).

A new H_off, PPL and key delay govern from the line paired with their reference line, the delivered line 2 of their
application, and no earlier (an inserted line keeps the old ones, log 41); a key delay that differs from the one in force
empties the delay line, with KEY low. -/
def Obligations.DeliveredLineStartOpensTheLine : Prop :=
  ∀ s : State, s.resetHeld = false →
    (∀ o, s.time.tdu.openLine = some o → o.len = none → exec .deliveredLineStart s = .next s) ∧
    (∀ l rest, (∀ o, s.time.tdu.openLine = some o → o.len ≠ none) →
      s.desk.sb.ready = l :: rest ∨ (s.desk.sb.ready = [] ∧ rest = [] ∧ l = LineList.empty) →
      Completes .deliveredLineStart s (fun t =>
        t.time.tdu.hsync = true ∧ t.time.tdu.vsyncLeft = s.time.tdu.vsyncLeft - 1 ∧
        (∃ o, t.time.tdu.openLine = some o ∧ o.start = s.time.tdu.nextStart ∧ o.ppl = t.time.tdu.ppl ∧ o.pixel = 0 ∧
          (∀ f fs, s.time.tdu.fixedLines = f :: fs → o.ref = f.ref ∧ o.len = some f.len) ∧
          (s.time.tdu.fixedLines = [] → o.ref = some s.time.tdu.nextRef ∧ o.len = none) ∧
          (∀ v m, s.time.tdu.newVals = some v → o.ref = some m → v.line ≤ m →
            t.time.tdu.hoff = v.hoff ∧ t.time.tdu.ppl = v.ppl ∧ t.time.tdu.newVals = none ∧
            (∀ k, v.keyDelay = some k → k ≠ s.desk.ky.keyDelay → t.desk.ky.keyDelay = k ∧
              t.desk.ky.delay = List.replicate k false ∧ t.desk.ky.key = false) ∧
            (v.keyDelay = none ∨ v.keyDelay = some s.desk.ky.keyDelay → t.desk.ky.keyDelay = s.desk.ky.keyDelay ∧
              t.desk.ky.delay = s.desk.ky.delay ∧ t.desk.ky.key = s.desk.ky.key)) ∧
          ((∀ v m, s.time.tdu.newVals = some v → o.ref = some m → m < v.line) →
            t.time.tdu.hoff = s.time.tdu.hoff ∧ t.time.tdu.ppl = s.time.tdu.ppl ∧
            t.time.tdu.newVals = s.time.tdu.newVals ∧ t.desk.ky.keyDelay = s.desk.ky.keyDelay ∧
            t.desk.ky.delay = s.desk.ky.delay ∧ t.desk.ky.key = s.desk.ky.key)) ∧
        t.desk.ky.line = l ∧ t.desk.sb = { s.desk.sb with ready := rest } ∧
        (t.desk.ky.permitted = true ↔
          (s.time.ref.st = .locked ∨ s.time.ref.st = .hold ∨ s.time.ref.st = .probe) ∧ l.slip = false ∧
          s.time.tdu.slipField = false ∧
          (t.time.tdu.toGive = some .first → (t.time.tdu.give s.sys).slipField = false) ∧
          s.desk.pt.joinQuiet = 0 ∧ l.D.natAbs ≤ 8192 * 256 ∧ l.keyable = true) ∧
        (t.desk.ky.stop = .clear ↔ s.desk.ky.stop = .clear) ∧ t.desk.ky.stop ≠ .nextLine ∧
        t.time.tdu.D = s.time.tdu.D ∧ t.time.tdu.queue = s.time.tdu.queue ∧ t.time.tdu.vsync = s.time.tdu.vsync ∧
        t.time.loop = s.time.loop ∧ t.time.ref = s.time.ref ∧ t.time.ft = s.time.ft ∧ t.time.sfe = s.time.sfe ∧
        t.desk.cbi = s.desk.cbi ∧ t.desk.pt = s.desk.pt ∧ t.desk.ce = s.desk.ce ∧ t.desk.hp = s.desk.hp))

/-- HSYNC_END and VSYNC_END release their pins, and nothing else changes.

DELIVERED_BOUNDARY_GIVEN on the planned line asserts VSYNC for 5 half-lines (625) or 6 (525), gives FIELD the planned
parity, and clears the slip-field flag unless the new field has its step already. A boundary owed from the plan
before comes first, and a boundary the tracker found early comes before both and begins a slip field. That it comes before
one still owed, which is given after it and sets FIELD and the flag anew, is the model's choice (log 73).

A boundary from the Field Tracker that agrees with the plan in line and parity changes nothing given; a slip mark sets the
slip-field flag, or marks the boundary that is still owed (log 9). One that disagrees is a realignment. With the planned
boundary given, FIELD takes the tracker's parity and the field is a slip field; otherwise the plan is withdrawn, and a
boundary of the tracker's parity and a queue application are due at once. The next plan is the nominal count of the
tracker's parity after its line 0, with the other parity. A field of the old plan whose line has not been handed over
keeps its queue application. A withdrawn plan's application, if it has come, is no reason not to make the one due at
once (log 58). -/
def Obligations.DeliveredPulsesAndBoundaries : Prop :=
  (∀ s : State, s.resetHeld = false →
    exec .hsyncEnd s = .next (s.withTime { s.time with tdu := { s.time.tdu with hsync := false } }) ∧
    exec .vsyncEnd s = .next (s.withTime { s.time with tdu := { s.time.tdu with vsync := false, vsyncLeft := 0 } })) ∧
  (∀ (o : OpenLine) (s : State),
    let x := s.time.tdu
    let halves := match s.sys with
      | .sys625 => 5
      | .sys525 => 6
    s.resetHeld = false → x.openLine = some o →
    (x.early = none → x.owed = none → x.plan.given = false → o.ref = some x.plan.line →
      exec .deliveredBoundaryGiven s = .next (s.withTime { s.time with tdu := { x with
        vsync := true, vsyncLeft := halves, delParity := x.plan.parity, slipField := x.plan.stepped,
        plan := { x.plan with given := true } } })) ∧
    (∀ w, x.early = none → x.owed = some w → o.ref = some w.line →
      exec .deliveredBoundaryGiven s = .next (s.withTime { s.time with tdu := { x with
        vsync := true, vsyncLeft := halves, delParity := w.parity, slipField := w.stepped, owed := none } })) ∧
    (∀ p, x.early = some p →
      exec .deliveredBoundaryGiven s = .next (s.withTime { s.time with tdu := { x with
        vsync := true, vsyncLeft := halves, delParity := p, slipField := true, early := none } })) ∧
    (x.early = none → x.owed = none → x.plan.given = true → exec .deliveredBoundaryGiven s = .next s)) ∧
  (∀ (sys : System) (n line0 : Nat) (parity : Parity) (mark : Bool) (x : Tdu),
    let t := x.takeBoundary sys n line0 parity mark
    let next : Plan :=
      ⟨line0 + nominalCount sys parity, if parity = .first then .second else .first, false, false⟩
    let kept := if n ≤ x.plan.line then some x.plan.line else x.applyAt
    let agrees := x.plan.line = line0 ∧ x.plan.parity = parity
    (agrees → x.plan.given = true →
      t = { x with plan := next, applyAt := kept, slipField := x.slipField || mark }) ∧
    (agrees → x.plan.given = false → t = { x with
      plan := next, applyAt := kept, owed := some { x.plan with stepped := x.plan.stepped || mark } }) ∧
    (¬agrees → x.plan.given = true →
      t = { x with plan := next, applyAt := kept, delParity := parity, slipField := true }) ∧
    (¬agrees → x.plan.given = false → t = { x with plan := next, early := some parity, applyNext := true })) ∧
  (∀ (tk : Taking) (s : State),
    let ft := s.time.ft.take s.sys s.time.ref.st tk
    (s.takeField tk).time.tdu = s.time.tdu.takeBoundary s.sys s.time.loop.n (s.time.loop.n - ft.counter) ft.parity
      (tk.start == .slip || s.time.ft.adopts s.time.ref.st tk))

/-- PIXEL_CLOCK_EDGE of the open line: the decision of the pixel that begins enters the delay line and the decision
that entered k edges before drives KEY; a join quiet count above 0 suppresses every pixel (log 42); the half-line point
of the line counts for VSYNC. A line that has had all its edges has no more.

Successive periods of a line differ by at most one tick, and within that an edge lies at its exact place, rounded (log 11).

A decision drives KEY after exactly as many further edges as the delay line is long. -/
def Obligations.PixelClockEdgeKeysOnePixel : Prop :=
  (∀ (transp : Bool) (o : OpenLine) (s : State),
    let k := s.desk.ky
    let keyed : Bool := k.permitted && !(k.stop == .acting) && !s.desk.cbi.muted && s.desk.hp.configured &&
      s.desk.pt.joinQuiet == 0 && k.line.spans.any (fun w => decide (w.left ≤ (o.pixel : Int)) && decide ((o.pixel : Int) ≤ w.right) &&
        (w.kind == .fill || !transp))
    let tdu : Tdu := { s.time.tdu with
      openLine := some { o with
        pixel := o.pixel + 1
        edge := o.edgeTick
        period := if o.pixel = 0 then none else some (tsDiff o.edgeTick o.edge) }
      vsyncLeft := if o.pixel = o.ppl / 2 then s.time.tdu.vsyncLeft - 1 else s.time.tdu.vsyncLeft }
    s.resetHeld = false → s.time.tdu.openLine = some o →
    (o.pixel < o.ppl → k.delay = [] → exec (.pixelClockEdge transp) s =
      .next { s with time := { s.time with tdu := tdu }, desk := { s.desk with ky := { k with key := keyed } } }) ∧
    (∀ old rest, o.pixel < o.ppl → k.delay = old :: rest → exec (.pixelClockEdge transp) s =
      .next { s with
        time := { s.time with tdu := tdu }
        desk := { s.desk with ky := { k with key := old, delay := rest ++ [keyed] } } }) ∧
    (o.ppl ≤ o.pixel → exec (.pixelClockEdge transp) s = .next s)) ∧
  (∀ (k : Ky) (dec : Bool) (later : List Bool), later.length = k.delay.length →
    (later.foldl (fun x b => x.shift b) (k.shift dec)).key = dec) ∧
  (∀ (o : OpenLine) (p : Int), o.period = some p → p.natAbs < 500000 →
    (tsDiff o.edgeTick o.edge - p).natAbs ≤ 1 ∧
    ((tsDiff o.placeTick o.edge - p).natAbs ≤ 1 → o.edgeTick = o.placeTick)) ∧
  (∀ o : OpenLine,
    (o.period = none → o.edgeTick = o.placeTick) ∧
    (o.len = none → o.baseIx = 0 → o.baseNum = 0 → 0 < o.ppl → o.placeTick =
      BitVec.ofInt 20 (roundR ((o.start.toNat : Int) * o.ppl + (o.pixel : Int) * o.prov) (256 * o.ppl))) ∧
    (∀ len, o.len = some len → o.baseIx < o.ppl → o.pixel = o.ppl →
      o.placeTick = BitVec.ofInt 20 (roundR ((o.start.toNat : Int) + len) 256)))

/-- TRIG_FALLING_EDGE sets the pending trigger, or counts a lost one, stopping at 255. Nothing else changes. -/
def Obligations.TriggerEdgeIsHeldOrCounted : Prop :=
  ∀ s : State, s.resetHeld = false →
    (s.desk.ce.trigger = false → exec .trigFallingEdge s =
      .next (s.withDesk { s.desk with ce := { s.desk.ce with trigger := true } })) ∧
    (s.desk.ce.trigger = true → exec .trigFallingEdge s =
      .next (s.withDesk { s.desk with ce := { s.desk.ce with lostTriggers := min 255 (s.desk.ce.lostTriggers + 1) } }))

/-! ## The claim bus -/

/-- BUS_IDLE in WAIT enters IDLE; a burst with nothing queued ends; with a frame ready and permitted the line is pulled
low. In any other state of the line there is no such event (log 2).

In IDLE the line is pulled for as long as a frame is ready and permitted, so that the fall is that of the frame which then
contends (log 31): a CLEAR at the head; of a configured station the beacon or the head of the queue; of a muted one none.

BUS_FIRST_FALL in IDLE: a station with no frame receives; one whose beacon is due contends with it at first rank;
one with a CLAIM, a resend, a WITHDRAW or a RECALL at the head contends at first rank while its allowance lasts, else at
second rank, continuing a burst if it has one; a CLEAR at the head goes at first rank, ahead of a beacon and UNCONFIGURED
too. The contents are taken at that moment: a CLAIM's E is FC + 2, a resend repeats the claim that was sent. The first
cell is begun: nothing of the frame has been sampled, and a contender holds the line for its rank bit.

In IDLE no cell of a frame before is held (R101). -/
def Obligations.IdleBusStartsTheContest : Prop :=
  (∀ s : State,
    let c := s.desk.cbi
    let free : Wire := { c.wire with drive := 0 }
    s.resetHeld = false →
    (c.line = .wait → c.txq = [] → c.beaconDue = false →
      exec .busIdle s = .next (s.withDesk { s.desk with cbi := { c with line := .idle, burst := 0, wire := free } })) ∧
    (c.line = .wait → c.txq = [] → c.beaconDue = true → c.muted = false → s.desk.hp.configured = true →
      let t := s.withDesk { s.desk with cbi := { c with line := .idle, burst := 0, wire := free } }
      exec .busIdle s = .next t ∧ t.clbPulled = true) ∧
    (∀ e rest, c.line = .wait → c.txq = e :: rest → c.muted = false → s.desk.hp.configured = true →
      let t := s.withDesk { s.desk with cbi := { c with line := .idle, wire := free } }
      exec .busIdle s = .next t ∧ t.clbPulled = true) ∧
    (c.line ≠ .wait → exec .busIdle s = .next s)) ∧
  (∀ s : State,
    let c := s.desk.cbi
    c.line = .idle → c.wire.drive = 0 → (s.clbPulled = true ↔ c.muted = false ∧
      ((∃ e rest, c.txq = e :: rest ∧ e.what = .clear) ∨
        (s.desk.hp.configured = true ∧ (c.beaconDue = true ∨ c.txq ≠ []))))) ∧
  (∀ s : State,
    let c := s.desk.cbi
    s.resetHeld = false →
    let begun (low : Nat) : Wire :=
      { c.wire with bits := [], tail := 0, sinceFall := 0, inCell := 0, sampled := false, drive := max c.wire.drive low }
    let carries (w : TxWhat) (sent : FrameContents) : Prop := match w with
      | .claim i =>
        let q := (s.desk.slot i).cue
        let ppl := s.time.tdu.configuredPpl
        let origin := s.time.tdu.hoff * 256 * ppl
        let right := origin + ((q.left : Int) + q.width) * s.time.loop.F
        sent = .claim {
          id := i, layer := q.layer, top := q.top, bottom := q.top + q.height - 1
          left := (max 0 (min 1023 ((origin + q.left * s.time.loop.F) / (8192 * ppl) - 8))).toNat
          right := (max 1 (min 1024 (-(-right / (8192 * ppl)) + 8))).toNat, e := s.fc + 2, base := q.base, mask := q.mask } false
      | .resend i => ∃ q, (s.desk.slot i).claim = some q ∧ sent = .claim q true
      | .withdraw i => sent = .withdraw i
      | .recall n i => sent = .recall n i
      | .clear => False
    (c.line ≠ .idle → exec .busFirstFall s = .next s) ∧
    (c.line = .idle → c.txq = [] → c.beaconDue = false →
      exec .busFirstFall s = .next (s.withDesk { s.desk with cbi := { c with
        line := .receiving, attempt := none, objected := false, wire := begun 0 } })) ∧
    (c.line = .idle → c.txq = [] → c.beaconDue = true → c.muted = false → s.desk.hp.configured = true →
      exec .busFirstFall s = .next (s.withDesk { s.desk with cbi := { c with
        line := .contending, objected := false, burst := 0, wire := begun 23,
        attempt := some ⟨true, false, .beacon {
          st := s.time.ref.st, fieldLocked := s.time.ft.fs == .locked, parity := s.time.ft.parity,
          top := s.desk.ce.topLayer, fc := s.fc, live := s.desk.ce.liveSet }⟩ } })) ∧
    (∀ e rest sent, c.line = .idle → c.txq = e :: rest → carries e.what sent → c.beaconDue = false → c.muted = false →
      s.desk.hp.configured = true →
      exec .busFirstFall s = .next (s.withDesk { s.desk with cbi := { c with
        line := .contending, objected := false,
        wire := begun (if 0 < c.allowance then 23 else 7),
        burst := if 0 < c.allowance then 0 else c.burst,
        txq := { e with stage := .contending } :: rest,
        attempt := some ⟨decide (0 < c.allowance), !decide (0 < c.allowance) && decide (0 < c.burst), sent⟩ } })) ∧
    (∀ e rest, c.line = .idle → c.txq = e :: rest → e.what = .clear → c.muted = false →
      exec .busFirstFall s = .next (s.withDesk { s.desk with cbi := { c with
        line := .contending, objected := false, wire := begun 23, burst := 0,
        txq := { e with stage := .contending } :: rest, attempt := some ⟨true, false, .clear⟩ } })))

/-- ARBITRATION_LOST while contending: the station drives nothing more and receives, and its frame, kept with its attempts,
waits again.

ARBITRATION_WON while contending: the frame is in flight. A CLAIM, WITHDRAW or RECALL at first rank takes one from the
allowance, and the last one posts ALLOWANCE_SPENT if the field has none yet; at second rank it opens a burst of 3 more or
uses one of it; a beacon and a CLEAR take nothing.

A field boundary sets the allowance to 4, clears its ALLOWANCE_SPENT flag, the burst and the beacon-sent flag, and drops a
beacon still due; inside the beacon window it makes a new one due. Of the rest of the bus interface the boundary's blocks
change only the queue and its pass-lock. LINE_BOUNDARY makes a beacon due at line 10, if the station may send and none was
sent in the field, and drops it past the window. -/
def Obligations.ArbitrationAndTheFieldsAllowance : Prop :=
  (∀ s : State,
    let c := s.desk.cbi
    s.resetHeld = false →
    (c.line ≠ .contending → exec .arbitrationLost s = .next s) ∧
    (c.line = .contending → (∀ x ∈ c.txq, x.stage = .waiting) →
      exec .arbitrationLost s = .next (s.withDesk { s.desk with cbi := { c with
        line := .receiving, attempt := none, objected := false, wire := { c.wire with drive := 0 } } })) ∧
    (∀ e rest, c.line = .contending → c.txq = e :: rest → e.stage = .contending → (∀ x ∈ rest, x.stage = .waiting) →
      e.removeAsked = false → e.doomed = false → e.silent = false →
      exec .arbitrationLost s = .next (s.withDesk { s.desk with cbi := { c with
        line := .receiving, attempt := none, objected := false, wire := { c.wire with drive := 0 },
        txq := { e with stage := .waiting } :: rest } }))) ∧
  (∀ (a : Attempt) (s : State),
    let c := s.desk.cbi
    s.resetHeld = false → c.line = .contending → c.attempt = some a →
    (∀ b, a.contents = .beacon b → c.txq = [] → exec .arbitrationWon s =
      .next (s.withDesk { s.desk with cbi := { c with line := .sending } })) ∧
    (∀ e rest, c.txq = e :: rest → e.stage = .contending → (∀ x ∈ rest, x.stage = .waiting) →
      let flying : List TxEntry := { e with stage := .inFlight, removeAsked := false } :: rest
      let counted : Prop := (∃ q resend, a.contents = .claim q resend) ∨ (∃ i, a.contents = .withdraw i) ∨
        ∃ target i, a.contents = .recall target i
      (a.contents = .clear → exec .arbitrationWon s =
        .next (s.withDesk { s.desk with cbi := { c with line := .sending, txq := flying } })) ∧
      (counted → a.firstRank = true → 1 < c.allowance → exec .arbitrationWon s = .next (s.withDesk { s.desk with
        cbi := { c with line := .sending, txq := flying, allowance := c.allowance - 1 } })) ∧
      (counted → a.firstRank = true → c.allowance = 1 → c.spentPosted = false → exec .arbitrationWon s =
        .next ((s.withDesk { s.desk with
          cbi := { c with line := .sending, txq := flying, allowance := 0, spentPosted := true } }).report
          (.allowanceSpent s.fc (rest.length + 1)))) ∧
      (counted → a.firstRank = true → c.allowance = 1 → c.spentPosted = true → exec .arbitrationWon s =
        .next (s.withDesk { s.desk with cbi := { c with line := .sending, txq := flying, allowance := 0 } })) ∧
      (counted → a.firstRank = false → a.continuing = false → exec .arbitrationWon s = .next (s.withDesk { s.desk with
        cbi := { c with line := .sending, txq := flying, burst := 3 } })) ∧
      (counted → a.firstRank = false → a.continuing = true → exec .arbitrationWon s = .next (s.withDesk { s.desk with
        cbi := { c with line := .sending, txq := flying, burst := c.burst - 1 } })))) ∧
  (∀ (sys : System) (parity : Parity) (line : Nat) (d : Desk),
    let c := d.cbi
    let last := nominalCount sys parity - 10
    let may := d.hp.configured = true ∧ c.muted = false ∧ c.line ≠ .fault
    let due (x : Cbi) : Desk := { d with cbi := { x with beaconDue := true, beaconAttempts := 0 } }
    let fresh : Cbi := { c with
      allowance := 4, spentPosted := false, burst := 0, beaconSent := false, beaconDue := false }
    (may → 10 ≤ line → line ≤ last → d.cbiBoundary sys parity line = due fresh) ∧
    (¬(may ∧ 10 ≤ line ∧ line ≤ last) → d.cbiBoundary sys parity line = { d with cbi := fresh }) ∧
    (may → c.beaconSent = false → c.beaconDue = false → d.cbiLine sys parity 10 = due c) ∧
    (¬may ∨ c.beaconSent = true ∨ c.beaconDue = true → d.cbiLine sys parity 10 = d) ∧
    d.cbiLine sys parity (last + 1) = { d with cbi := { c with beaconDue := false } } ∧
    (line ≠ 10 → line ≠ last + 1 → d.cbiLine sys parity line = d)) ∧
  (∀ (sys : System) (stn : Station) (fc : FieldCount) (parity : Parity) (line : Nat) (d : Desk),
    let t := d.fieldBoundary sys stn fc parity line
    t.cbi = { (d.cbiBoundary sys parity line).cbi with txq := t.cbi.txq, passLock := t.cbi.passLock }) ∧
  (∀ (time : Ts) (s : State), s.resetHeld = false → s.lineFree = true →
    s.time.ft.coastsNow s.sys s.straps.tape = false →
    Completes (.lineBoundary time) s (fun t =>
      t.desk.cbi = (s.desk.cbiLine s.sys s.time.ft.parity (s.time.ft.counter + 1)).cbi))

/-- ATTEMPT_SUCCEEDED of a beacon: the beacon is sent for this field, and every cue of the live set it carried that has
no beacon field takes its FC. Of a frame of the Peer Table that no FENCE marks: the frame leaves the queue.

ATTEMPT_FAILED: after an objection the bus is waited for, after a collision the station receives the rest. A beacon
counts the attempt, and is abandoned at its 4th; an attempt from before a REINIT counts against a beacon that CONFIGURE has
made due since, which is the model's choice (log 45). A queued frame waits with one attempt more, and one of the Peer
Table that no FENCE marks leaves at its 4th, counted as abandoned.

Each command is the whole event, to the end of its frame, with the line released (log 46). -/
def Obligations.AttemptsSucceedOrFail : Prop :=
  (∀ (a : Attempt) (s : State),
    let c := s.desk.cbi
    s.resetHeld = false → c.line = .sending → c.attempt = some a →
    (∀ b, a.contents = .beacon b → Completes .attemptSucceeded s (fun t =>
      t.time = s.time ∧ t.desk.cbi = { c with
        line := .wait, attempt := none, beaconSent := true, beaconDue := false, wire := { c.wire with drive := 0 } } ∧
      t.desk.pt = s.desk.pt ∧ t.desk.sb = s.desk.sb ∧ t.desk.ky = s.desk.ky ∧ t.desk.hp = s.desk.hp ∧
      t.desk.ce.chains = s.desk.ce.chains ∧
      ∀ i, t.desk.slot i = if b.live.getLsbD i.val = true ∧ (s.desk.slot i).inLiveSet = true ∧
          (s.desk.slot i).beaconField = none
        then { s.desk.slot i with beaconField := some b.fc } else s.desk.slot i)) ∧
    (∀ e rest, (∀ b, a.contents ≠ .beacon b) → c.txq = e :: rest → e.stage = .inFlight →
      (∀ x ∈ rest, x.stage = .waiting) → e.owner = .peerTable → e.marked = false →
      exec .attemptSucceeded s = .next (s.withDesk { s.desk with cbi := { c with
        line := .wait, attempt := none, txq := rest, passLock := if rest = [] then false else c.passLock,
        wire := { c.wire with drive := 0 } } }))) ∧
  (∀ (collision : Bool) (a : Attempt) (s : State),
    let c := s.desk.cbi
    let ended : Cbi := { c with
      line := if collision then .receiving else .wait, attempt := none, objected := false,
      wire := { c.wire with drive := 0 } }
    let lost : WrapCount := if c.abandoned.count ≥ 255 then ⟨0, true⟩ else ⟨c.abandoned.count + 1, c.abandoned.wrapped⟩
    s.resetHeld = false → c.line = .sending → c.attempt = some a →
    (∀ b, a.contents = .beacon b → c.beaconDue = true → c.beaconAttempts < 3 → exec (.attemptFailed collision) s =
      .next (s.withDesk { s.desk with cbi := { ended with beaconAttempts := c.beaconAttempts + 1 } })) ∧
    (∀ b, a.contents = .beacon b → c.beaconDue = true → c.beaconAttempts = 3 → exec (.attemptFailed collision) s =
      .next (s.withDesk { s.desk with cbi := { ended with
        beaconDue := false, beaconAttempts := 4, abandoned := lost } })) ∧
    (∀ e rest, (∀ b, a.contents ≠ .beacon b) → c.txq = e :: rest → e.stage = .inFlight →
      (∀ x ∈ rest, x.stage = .waiting) → e.silent = false → e.doomed = false →
      (e.attempts < 3 → exec (.attemptFailed collision) s = .next (s.withDesk { s.desk with cbi := { ended with
        txq := { e with stage := .waiting, attempts := e.attempts + 1 } :: rest } })) ∧
      (e.attempts = 3 → e.owner = .peerTable → e.marked = false → exec (.attemptFailed collision) s =
        .next (s.withDesk { s.desk with cbi := { ended with
          txq := rest, passLock := if rest = [] then false else c.passLock, abandoned := lost } }))))

/-- ATTEMPT_SUCCEEDED of a CLAIM, to the end of its frame (log 46): its cue is SCHEDULED with the claim that was sent, and
the frame has left: what is in the queue then waits, and is what waited before or a frame of the Cue Engine for another
cue.

A cue marked to end goes to ENDING with that claim, and its WITHDRAW is queued when there is room. One that CLEAR_ALL
stopped is ENDED, and its CUE(ENDED) carries the E of that claim.

ATTEMPT_FAILED of a CLAIM at its 4th attempt abandons it: CUE(FAILED) is posted and the slot is LOADED.

A WITHDRAW that is sent, or abandoned at its 4th attempt, or discarded, ends its cue: CUE(ENDED) is posted, with the E of the
claim, if the cue asks for it, and the slot is LOADED, or FREE with auto-free. -/
def Obligations.CueEngineFramesAndTheirOutcomes : Prop :=
  (∀ (i : Slot) (a : Attempt) (q : Claim) (e : TxEntry) (rest : List TxEntry) (s : State),
    let x := s.desk.slot i
    s.resetHeld = false → s.desk.cbi.line = .sending → s.desk.cbi.attempt = some a → a.contents = .claim q false →
    s.desk.cbi.txq = e :: rest → e.stage = .inFlight → (∀ x ∈ rest, x.stage = .waiting) → e.what = .claim i →
    e.owner = .cueEngine → e.silent = false → x.st = .claiming →
    (x.endAfter = false → x.dropAfter = false → Completes .attemptSucceeded s (fun t =>
      t.desk.cbi.line = .wait ∧ t.desk.cbi.attempt = none ∧ rest.Sublist t.desk.cbi.txq ∧
      (∀ x ∈ t.desk.cbi.txq, x.stage = .waiting ∧
        (x ∈ rest ∨ (x = TxEntry.fresh x.what .cueEngine ∧ x.what.concerns i = false))) ∧
      t.desk.slot i = { x with st := .scheduled, claim := some q } ∧ t.time = s.time ∧
      t.desk.pt = s.desk.pt ∧ t.desk.sb = s.desk.sb ∧ t.desk.ky = s.desk.ky)) ∧
    (x.endAfter = true → x.dropAfter = false → rest.length < 8 → Completes .attemptSucceeded s (fun t =>
      (t.desk.slot i).st = .ending ∧ (t.desk.slot i).claim = some q ∧ (t.desk.slot i).wdQueued = true ∧
      (∃ w ∈ t.desk.cbi.txq, w.what = .withdraw i) ∧ t.time = s.time ∧ t.desk.pt = s.desk.pt)) ∧
    (x.dropAfter = true → x.cue.notifyEnd = true → e.marked = false → s.desk.hp.reports = [] → x.cue.next ≠ some i →
      (∀ c w, (s.desk.chain c).waiting = some w → w.slot ≠ i) → Completes .attemptSucceeded s (fun t =>
      t.desk.slot i = (if x.cue.autoFree then CueSlot.freed else CueSlot.idle .loaded x.cue) ∧
      (∃ r ∈ t.desk.hp.reports, r.report = .cue i x.chain .ended s.fc q.e) ∧ t.time = s.time ∧ t.desk.pt = s.desk.pt))) ∧
  (∀ (i : Slot) (collision : Bool) (a : Attempt) (e : TxEntry) (rest : List TxEntry) (s : State),
    let x := s.desk.slot i
    let c := s.desk.cbi
    let lost : WrapCount := if c.abandoned.count ≥ 255 then ⟨0, true⟩ else ⟨c.abandoned.count + 1, c.abandoned.wrapped⟩
    let freed : CueSlot := if x.cue.autoFree then CueSlot.freed else CueSlot.idle .loaded x.cue
    let kept (t : State) : Prop := t.time = s.time ∧ t.desk.pt = s.desk.pt ∧ t.desk.sb = s.desk.sb ∧ t.desk.ky = s.desk.ky
    s.resetHeld = false → c.line = .sending → c.attempt = some a → (∀ b, a.contents ≠ .beacon b) → c.txq = e :: rest →
    e.stage = .inFlight → (∀ x ∈ rest, x.stage = .waiting) → e.owner = .cueEngine → e.silent = false → e.doomed = false →
    e.marked = false → s.desk.hp.reports = [] → (∀ h w, (s.desk.chain h).waiting = some w → w.slot ≠ i) →
    (e.what = .claim i → x.st = .claiming → x.claim = none → x.cue.next ≠ some i → e.attempts = 3 →
      Completes (.attemptFailed collision) s (fun t => t.desk.slot i = CueSlot.idle .loaded x.cue ∧
        (∃ r ∈ t.desk.hp.reports, r.report = .cue i x.chain .failed s.fc 0) ∧ t.desk.cbi.abandoned = lost ∧ kept t)) ∧
    (∀ q, e.what = .withdraw i → x.st = .ending → x.claim = some q →
      let told (t : State) : Prop :=
        x.cue.notifyEnd = true → ∃ r ∈ t.desk.hp.reports, r.report = .cue i x.chain .ended s.fc q.e
      Completes .attemptSucceeded s (fun t =>
        t.desk.slot i = freed ∧ told t ∧ t.desk.cbi.abandoned = c.abandoned ∧ kept t) ∧
      (e.attempts = 3 → Completes (.attemptFailed collision) s (fun t =>
        t.desk.slot i = freed ∧ told t ∧ t.desk.cbi.abandoned = lost ∧ kept t)))) ∧
  (∀ (fc : FieldCount) (i : Slot) (q : Claim) (d : Desk),
    let x := d.slot i
    let t := d.frameDiscarded fc (.withdraw i)
    x.st = .ending → x.claim = some q → d.hp.reports = [] → (∀ h w, (d.chain h).waiting = some w → w.slot ≠ i) →
    t.slot i = (if x.cue.autoFree then CueSlot.freed else CueSlot.idle .loaded x.cue) ∧
    (x.cue.notifyEnd = true → ∃ r ∈ t.hp.reports, r.report = .cue i x.chain .ended fc q.e) ∧ t.cbi = d.cbi)

/-- FRAME_ERROR, FRAME_TRUNCATED and FRAME_OBJECTED while receiving: a check error ends the frame (to WAIT, log 46) and
counts as bad; a bad kind or length counts and makes the station object until the frame ends by truncation; truncation
counts once for a frame with no error found, and not for one with a bad kind or length, a muted receiver's too (log 44);
another station's objection ends the frame (to WAIT, log 46) uncounted.

BUS_FAULT_ENTER in any state without an own frame in the air: the station drives nothing, drops its beacon-due flag
and posts BUS_FAULT; the queue, the attempt counts and the allowance stay. BUS_FAULT_CLEARED enters IDLE, ends a burst with
nothing queued and posts BUS_FAULT; the beacon is due again inside the window, if none was sent in the field, and then
pulls the line (log 31). -/
def Obligations.ErrorsAndFaultsOfTheLine : Prop :=
  (∀ s : State,
    let c := s.desk.cbi
    let bad : WrapCount := if c.badCheck.count ≥ 255 then ⟨0, true⟩ else ⟨c.badCheck.count + 1, c.badCheck.wrapped⟩
    let cut : WrapCount := if c.truncated.count ≥ 255 then ⟨0, true⟩ else ⟨c.truncated.count + 1, c.truncated.wrapped⟩
    let on (x : Cbi) : Host.Outcome State Fault Refusal := .next (s.withDesk { s.desk with cbi := x })
    s.resetHeld = false → c.line = .receiving →
    (c.objected = false →
      exec (.frameError .checkError) s = on { c with line := .wait, badCheck := bad } ∧
      exec (.frameError .invalidKind) s = on { c with objected := true, badCheck := bad } ∧
      exec (.frameError .wrongLength) s = on { c with objected := true, badCheck := bad } ∧
      exec .frameTruncated s = on { c with line := .wait, truncated := cut } ∧
      exec .frameObjected s = on { c with line := .wait }) ∧
    (c.objected = true → exec .frameTruncated s = on { c with line := .wait, objected := false })) ∧
  (∀ s : State,
    let c := s.desk.cbi
    s.resetHeld = false →
    (c.line ≠ .fault → c.line ≠ .contending → c.line ≠ .sending → exec .busFaultEnter s =
      .next ((s.withDesk { s.desk with cbi := { c with
        line := .fault, beaconDue := false, objected := false, attempt := none,
        wire := { c.wire with drive := 0, tail := 0 } } }).report (.busFault false s.fc))) ∧
    (c.line = .fault → exec .busFaultEnter s = .next s) ∧
    (c.line ≠ .fault → exec .busFaultCleared s = .next s) ∧
    (c.line = .fault → c.txq = [] → c.beaconDue = false → s.time.ft.counter < 10 → exec .busFaultCleared s =
      .next ((s.withDesk { s.desk with cbi := { c with line := .idle, burst := 0, wire := { c.wire with drive := 0 } } }).report
        (.busFault true s.fc))) ∧
    (c.line = .fault → c.txq = [] → c.beaconDue = false → c.beaconSent = false → c.muted = false →
      s.desk.hp.configured = true → 10 ≤ s.time.ft.counter →
      s.time.ft.counter ≤ nominalCount s.sys s.time.ft.parity - 10 →
      let t := (s.withDesk { s.desk with cbi := { c with
        line := .idle, burst := 0, beaconDue := true, beaconAttempts := 0,
        wire := { c.wire with drive := 0 } } }).report (.busFault true s.fc)
      exec .busFaultCleared s = .next t ∧ t.clbPulled = true))

/-! ## Frames of peers -/

/-- BEACON_RECEIVED from a peer: presence by the table, missed count 0, the contents kept, the entries and dropped ids of
the sender cut to its live set. A beacon with reference state 5, 6 or 7 only ends the frame. The command brings the line
to WAIT (log 46).

For the live ids that are neither stored nor dropped, and for which no RECALL has gone to the sender in this field, a
configured station that is not muted queues a RECALL, lowest id first, 4 in a field at most and as long as there is room;
each is noted as sent.

A good beacon of a LOCKED, field-locked peer whose count is 1 to 32767 ahead is this field's count candidate in
F_LOCKED, unless a candidate as far ahead or farther stands; its parity is tallied for its sender. Nothing else of
the tracker changes. -/
def Obligations.BeaconUpdatesItsSender : Prop :=
  (∀ (n : Station) (payload : BitVec 64) (s : State), s.hears n →
    (5 ≤ (payload.extractLsb' 61 3).toNat → exec (.beaconReceived n payload) s = .next (s.heard s.desk.pt)) ∧
    (∀ b, decodeBeacon payload = some b → Completes (.beaconReceived n payload) s (fun t =>
      let p := s.desk.pt.peer n
      let p' := t.desk.pt.peer n
      let lacking := allSlots.filter (fun i => b.live.getLsbD i.val && !s.desk.pt.stores n i &&
        !p.dropped.getLsbD i.val && !p.recalled.getLsbD i.val)
      let asked := if s.desk.hp.configured = true ∧ s.desk.cbi.muted = false
        then lacking.take (min (4 - s.desk.pt.recalls) (8 - s.desk.cbi.txq.length)) else []
      t.desk.cbi = { s.desk.cbi with
        line := .wait, txq := s.desk.cbi.txq ++ asked.map (fun i => TxEntry.fresh (.recall n i) .peerTable) } ∧
      t.desk.pt.recalls = s.desk.pt.recalls + asked.length ∧
      (∀ i : Slot, p'.recalled.getLsbD i.val = true ↔ p.recalled.getLsbD i.val = true ∨ i ∈ asked) ∧
      p'.missed = 0 ∧ p'.seen = true ∧ p'.last = some b ∧
      p'.dropped = p.dropped &&& b.live ∧
      (p.presence = .absent → p'.presence = .joining) ∧
      (p.presence = .joining → p'.presence = if p.seen then .joining else .present) ∧
      (p.presence = .present ∨ p.presence = .silent → p'.presence = .present) ∧
      (∀ e, e ∈ t.desk.pt.store ↔ e ∈ s.desk.pt.store ∧ (e.station = n → b.live.getLsbD e.claim.id.val = true)) ∧
      (∀ m, m ≠ n → t.desk.pt.peer m = s.desk.pt.peer m) ∧
      t.desk.ce = s.desk.ce ∧ t.desk.sb = s.desk.sb ∧ t.desk.ky = s.desk.ky ∧ t.time.loop = s.time.loop ∧
      t.time.tdu = s.time.tdu))) ∧
  (∀ (n : Station) (payload : BitVec 64) (b : Beacon) (s : State), s.hears n → decodeBeacon payload = some b →
    b.st = .locked →
    Completes (.beaconReceived n payload) s (fun t =>
      let k := (b.fc - s.fc).toNat
      t.time.ft = { s.time.ft with
        tally := s.time.ft.tally.set n.val (some b.parity)
        cand := if s.time.ft.fs = .locked ∧ b.fieldLocked = true ∧ 1 ≤ k ∧ k ≤ 32767 ∧
            (∀ c, s.time.ft.cand = some c → c.k < k)
          then some ⟨k, n⟩ else s.time.ft.cand }))

/-- CLAIM_RECEIVED from a peer: a well-formed claim that finds room, or an entry of its own station and id, is stored
and its id is dropped no longer, a resend of an id in the sender's live set too, with the mark of a claim already applied if
the entry that it replaces had it for the same E, and without it otherwise; an ill-formed one removes that entry and
drops the id; a resend of an id outside the live set changes nothing but the line, which the command brings to WAIT
(log 46). Other entries stay.

A claim that finds the store full of other claims, all its own rank or higher, is refused and its id dropped; one
that outranks the lowest entry, be it the sender's own, takes that entry's place, whose id is dropped for its station. -/
def Obligations.ClaimIsStoredOrDropped : Prop :=
  (∀ (n : Station) (payload : BitVec 72) (s : State),
    let c := (decodeClaim payload).1
    let p := s.desk.pt.peer n
    let formed := c.top ≤ 319 ∧ c.bottom ≤ 319 ∧ c.top ≤ c.bottom ∧ c.left < c.right
    s.hears n →
    (formed → ((decodeClaim payload).2 = true → ∃ b, p.last = some b ∧ b.live.getLsbD c.id.val = true) →
      s.desk.pt.store.length < 64 ∨ s.desk.pt.stores n c.id = true →
      Completes (.claimReceived n payload) s (fun t =>
        (∃ mark, (⟨n, c, mark⟩ : StoreEntry) ∈ t.desk.pt.store ∧
          (mark = true ↔ ∃ e ∈ s.desk.pt.store, e.station = n ∧ e.claim.id = c.id ∧ e.claim.e = c.e ∧ e.applied = true) ∧
          (s.desk.pt.storeOk → ∀ e ∈ t.desk.pt.store, e.station = n → e.claim.id = c.id → e = ⟨n, c, mark⟩)) ∧
        (∀ e, ¬(e.station = n ∧ e.claim.id = c.id) → (e ∈ t.desk.pt.store ↔ e ∈ s.desk.pt.store)) ∧
        t.desk.pt.peer n = { p with dropped := IdSet.erase p.dropped c.id } ∧
        (∀ m, m ≠ n → t.desk.pt.peer m = s.desk.pt.peer m) ∧
        t.desk.cbi = { s.desk.cbi with line := .wait } ∧ t.time = s.time ∧ t.desk.ce = s.desk.ce ∧
        t.desk.hp = s.desk.hp)) ∧
    (¬formed → exec (.claimReceived n payload) s = .next (s.heard { s.desk.pt with
      store := s.desk.pt.store.filter (fun e => !(e.station == n && e.claim.id == c.id))
      peers := s.desk.pt.peers.set n.val { p with dropped := IdSet.insert p.dropped c.id } })) ∧
    (formed → (decodeClaim payload).2 = true → (∀ b, p.last = some b → b.live.getLsbD c.id.val = false) →
      exec (.claimReceived n payload) s = .next (s.heard s.desk.pt))) ∧
  (∀ (n : Station) (c : Claim) (pt : Pt), pt.storeOk → pt.store.length = 64 → pt.stores n c.id = false →
    ((∀ e ∈ pt.store, (⟨n, c, false⟩ : StoreEntry).ranksAbove e = false) →
      pt.placeClaim n c = pt.drop n c.id) ∧
    (∀ low ∈ pt.store, (∀ e ∈ pt.store, e ≠ low → e.ranksAbove low = true) →
      (⟨n, c, false⟩ : StoreEntry).ranksAbove low = true →
      (∀ e, e ∈ (pt.placeClaim n c).store ↔ (e ∈ pt.store ∧ e ≠ low) ∨ e = ⟨n, c, false⟩) ∧
      IdSet.has ((pt.placeClaim n c).peer low.station).dropped low.claim.id = true ∧
      IdSet.has ((pt.placeClaim n c).peer n).dropped c.id = false))

/-- WITHDRAW_RECEIVED from a peer removes the entry of its sender and id, and takes the id out of the sender's dropped
set and of the live set in its last beacon. An id that is not held changes only the two sets; the sender's
presence, and a CLAIM's too, stays. The command brings the line to WAIT (log 46). -/
def Obligations.WithdrawRemovesTheEntry : Prop :=
  ∀ (n : Station) (payload : BitVec 8) (s : State),
    let i : Slot := (payload.extractLsb' 0 5).toFin
    let p := s.desk.pt.peer n
    s.hears n →
    exec (.withdrawReceived n payload) s = .next (s.heard { s.desk.pt with
      store := s.desk.pt.store.filter (fun e => !(e.station == n && e.claim.id == i))
      peers := s.desk.pt.peers.set n.val { p with
        dropped := p.dropped &&& ~~~BitVec.twoPow 32 i.val
        last := p.last.map (fun b => { b with live := b.live &&& ~~~BitVec.twoPow 32 i.val }) } }) ∧
    ((∀ e ∈ s.desk.pt.store, ¬(e.station = n ∧ e.claim.id = i)) →
      ∃ t, exec (.withdrawReceived n payload) s = .next t ∧ t.desk.pt.store = s.desk.pt.store) ∧
    (∀ claim : BitVec 72, ∃ t, exec (.claimReceived n claim) s = .next t ∧
      (t.desk.pt.peer n).presence = p.presence)

/-- RECALL_RECEIVED: one aimed at another station, or at this one while UNCONFIGURED or muted, or while a frame for the id
waits, is not answered; a live id is answered with a resend, another with a WITHDRAW, when the queue has room. The
WITHDRAW passes, behind a CLEAR and a frame in flight, when the pass-lock is clear and no entry concerns the id, and goes
to the tail otherwise. The command brings the line to WAIT (log 46). -/
def Obligations.RecallIsAnswered : Prop :=
  ∀ (n : Station) (payload : BitVec 16) (s : State),
    let target : Station := (payload.extractLsb' 12 4).toFin
    let i : Slot := (payload.extractLsb' 7 5).toFin
    let c := s.desk.cbi
    let answered (q : List TxEntry) : Host.Outcome State Fault Refusal :=
      .next (s.withDesk { s.desk with cbi := { c with line := .wait, txq := q } })
    s.hears n →
    (target ≠ s.straps.stn ∨ s.desk.hp.configured = false ∨ c.muted = true ∨ c.answersAlready i = true →
      exec (.recallReceived n payload) s = answered c.txq) ∧
    (target = s.straps.stn → s.desk.hp.configured = true → c.muted = false → c.answersAlready i = false →
      (8 ≤ c.txq.length → exec (.recallReceived n payload) s = answered c.txq) ∧
      (c.txq.length < 8 → (s.desk.slot i).inLiveSet = true →
        exec (.recallReceived n payload) s = answered (c.txq ++ [TxEntry.fresh (.resend i) .peerTable])) ∧
      (c.txq.length < 8 → (s.desk.slot i).inLiveSet = false →
        c.passLock = true ∨ (∃ e ∈ c.txq, e.what.concerns i = true) →
        exec (.recallReceived n payload) s = answered (c.txq ++ [TxEntry.fresh (.withdraw i) .peerTable])) ∧
      (∀ front rest, c.txq.length < 8 → (s.desk.slot i).inLiveSet = false → c.passLock = false →
        (∀ e ∈ c.txq, e.what.concerns i = false) → c.txq = front ++ rest →
        (∀ e ∈ front, e.what = .clear ∨ e.stage = .inFlight) →
        (∀ e, rest.head? = some e → e.what ≠ .clear ∧ e.stage ≠ .inFlight) →
        exec (.recallReceived n payload) s = .next (s.withDesk { s.desk with cbi := { c with
          line := .wait, passLock := true, txq := front ++ TxEntry.fresh (.withdraw i) .peerTable :: rest } })))

/-- CLEAR_RECEIVED: one that is not accepted only posts CLEAR_SEEN. One that is honoured leaves no cue of a chain not
IDLE on air or scheduled, sets the Keyer's stop flag with KEY as it was, and forgets the sender's claims, dropped ids
and live set, but keeps its presence. The command brings the line to WAIT (log 46). -/
def Obligations.ClearIsHonouredOrIgnored : Prop :=
  ∀ (n : Station) (s : State), s.hears n →
    (s.desk.pt.accept.getLsbD n.val = false → exec (.clearReceived n) s =
      .next ((s.heard s.desk.pt).report (.clearSeen n false s.fc))) ∧
    (s.desk.pt.accept.getLsbD n.val = true → Completes (.clearReceived n) s (fun t =>
      t.desk.cbi.line = .wait ∧ t.desk.ky.stop ≠ .clear ∧ t.desk.ky.key = s.desk.ky.key ∧
      (∀ e, e ∈ t.desk.pt.store ↔ e ∈ s.desk.pt.store ∧ e.station ≠ n) ∧
      (t.desk.pt.peer n).dropped = 0 ∧ (t.desk.pt.peer n).live = 0 ∧
      (t.desk.pt.peer n).presence = (s.desk.pt.peer n).presence ∧
      (∀ i c, (s.desk.slot i).chain = some c → (s.desk.chain c).st ≠ .idle →
        (t.desk.slot i).st ≠ .scheduled ∧ (t.desk.slot i).st ≠ .onAir) ∧
      t.time = s.time))

/-- A good frame with the station's own number, of any kind, mutes the station: the queue is emptied, no beacon is due,
nothing is keyed at once, also while a stop already acts (log 63), every chain is aborted or over, and the Peer Table does
not take the frame. The command brings the line to WAIT (log 46). -/
def Obligations.OwnNumberMutes : Prop :=
  ∀ (c : Instr) (s : State), s.resetHeld = false → s.desk.cbi.line = .receiving → s.desk.cbi.objected = false →
    s.desk.cbi.muted = false →
    ((∃ p, c = .beaconReceived s.straps.stn p) ∨ (∃ p, c = .claimReceived s.straps.stn p) ∨
      (∃ p, c = .withdrawReceived s.straps.stn p) ∨ (∃ p, c = .recallReceived s.straps.stn p) ∨
      c = .clearReceived s.straps.stn) →
    Completes c s (fun t =>
      t.desk.cbi.muted = true ∧ t.desk.cbi.txq = [] ∧ t.desk.cbi.beaconDue = false ∧ t.desk.cbi.line = .wait ∧
      t.desk.ky.key = false ∧ t.desk.keyingStopped = true ∧ t.desk.pt = s.desk.pt ∧ t.time = s.time ∧
      (∀ h, (t.desk.chain h).st = .idle ∨ (t.desk.chain h).st = .aborting))

/-! ## The host port -/

/-- REQUEST_BYTE_STROBE: with a free place and PRDY released the byte is taken with PACK; with the buffer full, or while
PRDY is asserted, it waits under HSTB. Releasing HSTB releases PACK, and a byte that still waits is gone (log 25).

MALFORMED_REQUEST: REFUSED is posted with UNKNOWN_KIND or BAD_LENGTH, and the framer passes over as many bytes as the
length byte says. A pair that is well formed is no such event (log 2). -/
def Obligations.RequestBytesAndMalformedRecords : Prop :=
  (∀ (b : Byte) (s : State),
    let h := s.desk.hp
    let on (x : Hp) : Host.Outcome State Fault Refusal := .next (s.withDesk { s.desk with hp := x })
    s.resetHeld = false →
    (h.inbound.length < 64 → h.prdy = false → exec (.requestByteStrobe (.asserted b)) s =
      on { h with hstb := true, inbound := h.inbound ++ [b], pack := true, held := none }) ∧
    (64 ≤ h.inbound.length ∨ h.prdy = true → exec (.requestByteStrobe (.asserted b)) s =
      on { h with hstb := true, held := some b }) ∧
    (h.transfer = none → exec (.requestByteStrobe .released) s =
      on { h with hstb := false, pack := false, held := none })) ∧
  (∀ (kind length : Byte) (s : State), s.resetHeld = false →
    (requestLength kind = none → exec (.malformedRequest kind length) s =
      .next ((s.withDesk { s.desk with hp := { s.desk.hp with
        framer := if length.toNat = 0 then .kind else .skip length.toNat } }).report
        (.refused kind .unknownKind s.fc))) ∧
    (∀ n, requestLength kind = some n → n ≠ length.toNat → exec (.malformedRequest kind length) s =
      .next ((s.withDesk { s.desk with hp := { s.desk.hp with
        framer := if length.toNat = 0 then .kind else .skip length.toNat } }).report
        (.refused kind .badLength s.fc))) ∧
    (requestLength kind = some length.toNat → exec (.malformedRequest kind length) s = .next s))

/-- A record of a valid kind whose length byte is the defined one is framed, byte by byte, into its request, and the
framer expects a kind again.

The kinds 1 to 15 have their lengths, and no other is a kind. The payload bytes are the request's fields, in order, the most
significant byte of each first: a slot is the low five bits of its byte, a chain the low two, a start mode the low two; the
top bit of LOAD_CUE's slot and next means none; its flags byte holds kind, announce, notify-start, notify-end, demand-end and
auto-free from the top bit on; cadence base and mask are the high and the low four bits. -/
def Obligations.FramerReadsAWholeRecord : Prop :=
  (∀ (kind : Byte) (payload : List Byte) (i : Instr), requestLength kind = some payload.length →
    parseRequest kind payload = some i →
    ∃ before last : List (Framer × Framed),
      before.length = payload.length + 1 ∧ (∀ x ∈ before, x.2 = .nothing) ∧ last = [(.kind, .request i)] ∧
      before ++ last = (([kind, BitVec.ofNat 8 payload.length] ++ payload).foldl
        (fun (acc : List (Framer × Framed) × Framer) b => (acc.1 ++ [acc.2.read b], (acc.2.read b).1)) ([], .kind)).1) ∧
  (∀ kind : Byte, requestLength kind = List.lookup kind.toNat
    [(1, 7), (2, 0), (3, 0), (4, 18), (5, 1), (6, 2), (7, 1), (8, 1), (9, 1), (10, 1), (11, 2), (12, 0), (13, 1), (14, 0),
      (15, 0)]) ∧
  (∀ p1 p0 h1 h0 k a1 a0 : Byte, ∃ ppl hoff accept,
    parseRequest 0x01 [p1, p0, h1, h0, k, a1, a0] = some (.configure ppl hoff k accept) ∧
    ppl.toNat = 256 * p1.toNat + p0.toNat ∧ hoff.toNat = 256 * h1.toNat + h0.toNat ∧
    accept.toNat = 256 * a1.toNat + a0.toNat) ∧
  (∀ s t1 t0 h1 h0 l1 l0 w1 w0 layer flags cad mode f1 f0 d1 d0 n : Byte, ∃ r : LoadCue,
    let word (hi lo : Byte) : Nat := 256 * hi.toNat + lo.toNat
    let flag (place : Nat) : Bool := flags.toNat / place % 2 == 1
    let slotIs (b : Byte) (o : Option Slot) : Prop :=
      (128 ≤ b.toNat → o = none) ∧ (b.toNat < 128 → ∃ i : Slot, o = some i ∧ i.val = b.toNat % 32)
    parseRequest 0x04 [s, t1, t0, h1, h0, l1, l0, w1, w0, layer, flags, cad, mode, f1, f0, d1, d0, n] = some (.loadCue r) ∧
    slotIs s r.slot ∧ slotIs n r.next ∧ r.top.toNat = word t1 t0 ∧ r.height.toNat = word h1 h0 ∧ r.left.toNat = word l1 l0 ∧
    r.width.toNat = word w1 w0 ∧ r.layer = layer ∧ r.kind = (if flag 128 then .cutout else .fill) ∧ r.announce = flag 64 ∧
    r.notifyStart = flag 32 ∧ r.notifyEnd = flag 16 ∧ r.demandEnd = flag 8 ∧ r.autoFree = flag 4 ∧
    r.cadBase.toNat = cad.toNat / 16 ∧ r.cadMask.toNat = cad.toNat % 16 ∧
    (mode.toNat % 4 = 0 → r.start = .immediate) ∧ (mode.toNat % 4 = 1 → r.start = .atField) ∧
    (mode.toNat % 4 = 2 → r.start = .onTrigger) ∧ (mode.toNat % 4 = 3 → r.start = .afterPrevious) ∧
    r.startField.toNat = word f1 f0 ∧ r.duration.toNat = word d1 d0) ∧
  (∀ b1 b0 : Byte, ∃ (c : ChainNo) (i j : Slot) (amount : BitVec 16),
    c.val = b1.toNat % 4 ∧ i.val = b1.toNat % 32 ∧ j.val = b0.toNat % 32 ∧ amount.toNat = 256 * b1.toNat + b0.toNat ∧
    parseRequest 0x05 [b1] = some (.freeCue i) ∧ parseRequest 0x06 [b1, b0] = some (.startChain c j) ∧
    parseRequest 0x07 [b1] = some (.pauseChain c) ∧ parseRequest 0x08 [b1] = some (.resumeChain c) ∧
    parseRequest 0x09 [b1] = some (.abortChain c) ∧ parseRequest 0x0A [b1] = some (.withdrawCue i) ∧
    parseRequest 0x0B [b1, b0] = some (.shift amount) ∧ parseRequest 0x0D [b1] = some (.holdSlips b1)) ∧
  parseRequest 0x02 [] = some .reinit ∧ parseRequest 0x03 [] = some .statusQuery ∧ parseRequest 0x0C [] = some .recentre ∧
  parseRequest 0x0E [] = some .fence ∧ parseRequest 0x0F [] = some .clearAll

/-- REPORT_TRANSFER_START: the head record leaves the queue and its kind byte is presented with PRDY, when no record is in
transfer and HSTB is released, whatever HACK is (log 64); otherwise nothing happens.

REPORT_BYTE_ACKNOWLEDGE and REPORT_TRANSFER_END: HACK asserted takes the byte off HD and releases PRDY; released, the
next byte is presented; the last byte's acknowledgement, which is HACK's assertion (log 64), ends the transfer.

A record's bytes are its kind, the number of bytes that follow (log 17), its repeat count, and the fields of Report.layout in
their widths, most significant byte first and negative ones in two's complement, with the codes of R174 (the width of
FIELD_STATE's count is the model's, log 16). -/
def Obligations.ReportsAreReadOutByteByByte : Prop :=
  (∀ s : State,
    let h := s.desk.hp
    s.resetHeld = false →
    (∀ q rest, h.reports = q :: rest → h.transfer = none → h.hstb = false →
      ∃ bytes, q.bytes = BitVec.ofNat 8 q.report.kind :: bytes ∧
      exec .reportTransferStart s = .next (s.withDesk { s.desk with hp := { h with
        reports := rest, transfer := some (BitVec.ofNat 8 q.report.kind :: bytes),
        hd := some (BitVec.ofNat 8 q.report.kind), prdy := true } })) ∧
    (h.reports = [] ∨ h.transfer ≠ none ∨ h.hstb = true → exec .reportTransferStart s = .next s)) ∧
  (∀ s : State,
    let h := s.desk.hp
    let on (x : Hp) : Host.Outcome State Fault Refusal := .next (s.withDesk { s.desk with hp := x })
    s.resetHeld = false →
    (∀ b next rest, h.prdy = true → h.held = none → h.transfer = some (b :: next :: rest) →
      exec (.reportByteAcknowledge true) s =
        on { h with hack := true, prdy := false, hd := none, transfer := some (next :: rest) }) ∧
    (∀ b rest, h.prdy = false → h.hstb = false → h.transfer = some (b :: rest) →
      exec (.reportByteAcknowledge false) s = on { h with hack := false, hd := some b, prdy := true }) ∧
    (∀ b, h.prdy = true → h.held = none → h.transfer = some [b] →
      exec .reportTransferEnd s = on { h with hack := true, prdy := false, hd := none, transfer := none }) ∧
    (h.prdy = false → exec .reportTransferEnd s = .next s)) ∧
  (∀ q : QReport,
    let fields := q.report.layout.2
    q.bytes = layoutBytes ((1, q.report.layout.1) :: (1, 1 + ((fields.map Prod.fst).sum : Nat)) :: (1, (q.again : Int)) :: fields)) ∧
  ([RefSt.search, .acquire, .locked, .hold, .probe].map RefSt.code = [0, 1, 2, 3, 4] ∧
    [FieldSt.search, .locked, .coast].map FieldSt.code = [0, 1, 2] ∧ [Parity.first, .second].map parityCode = [0, 1] ∧
    [RefCause.sourceFound, .lockConfirmed, .activityLost, .pinned, .misses, .candidate, .newSource, .aged, .probeConfirmed,
      .probeFailed].map RefCause.code = List.range 10 ∧
    [FieldCause.anchored, .coasting, .resumed, .lost, .fieldSlip, .irregular].map FieldCause.code = List.range 6 ∧
    [CueEvent.onAir, .ended, .failed].map CueEvent.code = [0, 1, 2] ∧
    [ChainOutcome.complete, .broken, .aborted].map ChainOutcome.code = [0, 1, 2] ∧
    [Presence.absent, .joining, .present, .silent].map Presence.code = [0, 1, 2, 3] ∧
    [Reason.unknownKind, .badLength, .unconfigured, .alreadyConfigured, .muted, .noSlot, .live, .notLoaded, .busy, .notRunning,
      .queueFull].map Reason.code = List.range 11)

/-- A posted report of a kind and subject already queued takes that record's place with the repeat count one higher; a
STATUS then takes the union of the wrap flags and the saturating sum of the shift excesses. A new one is placed while 15
records are not yet queued, and otherwise only the OVERFLOW record notes it, which is renewed if it is queued already. -/
def Obligations.ReportsCoalesceOrQueue : Prop :=
  ∀ (fc : FieldCount) (r : Report) (qs : List QReport),
    (∀ before q after, (∀ f, r ≠ .status f) → qs = before ++ q :: after → q.report.key = r.key →
      (∀ x ∈ before ++ after, x.report.key ≠ r.key) →
      postReport fc r qs = before ++ ⟨r, min 255 (q.again + 1)⟩ :: after) ∧
    (∀ before f again after new, r = .status new → qs = before ++ ⟨.status f, again⟩ :: after →
      (∀ x ∈ before ++ after, x.report.key ≠ r.key) →
      postReport fc r qs = before ++ ⟨.status { new with
        shiftExcess := max (-32768) (min 32767 (f.shiftExcess + new.shiftExcess))
        badCheck := ⟨new.badCheck.count, f.badCheck.wrapped || new.badCheck.wrapped⟩
        truncated := ⟨new.truncated.count, f.truncated.wrapped || new.truncated.wrapped⟩
        abandoned := ⟨new.abandoned.count, f.abandoned.wrapped || new.abandoned.wrapped⟩ },
        min 255 (again + 1)⟩ :: after) ∧
    ((∀ x ∈ qs, x.report.key ≠ r.key) →
      (qs.length < 15 → postReport fc r qs = qs ++ [⟨r, 0⟩]) ∧
      (15 ≤ qs.length → (∀ x ∈ qs, isOverflow x = false) →
        postReport fc r qs = qs ++ [⟨.overflow r.kind fc, 0⟩]) ∧
      (∀ before q after, 15 ≤ qs.length → qs = before ++ q :: after → isOverflow q = true →
        (∀ x ∈ before ++ after, isOverflow x = false) →
        postReport fc r qs = before ++ ⟨.overflow r.kind fc, min 255 (q.again + 1)⟩ :: after))

/-! ## Requests -/

/-- A request is refused, with REFUSED posted and no other effect, in the first case that holds: every request but
CONFIGURE, REINIT and STATUS_QUERY while UNCONFIGURED; CONFIGURE while configured; cue and chain requests and CLEAR_ALL
while muted. -/
def Obligations.RequestsAreRefusedByMode : Prop :=
  ∀ (c : Instr) (k : Byte) (s : State), requestKindOf c = some k → s.resetHeld = false →
    (s.desk.hp.configured = false → 4 ≤ k.toNat →
      exec c s = .next (s.report (.refused k .unconfigured s.fc))) ∧
    (s.desk.hp.configured = true → k = 1 → exec c s = .next (s.report (.refused k .alreadyConfigured s.fc))) ∧
    (s.desk.hp.configured = true → s.desk.cbi.muted = true → (4 ≤ k.toNat ∧ k.toNat ≤ 10) ∨ k = 15 →
      exec c s = .next (s.report (.refused k .muted s.fc)))

/-- CONFIGURE while UNCONFIGURED: the station is configured, the acceptance set is replaced, join quiet is 4, and PPL,
H_off and the key delay, clamped, wait for the next queue application. Outside the beacon window nothing else
changes; inside it a beacon is due. -/
def Obligations.ConfigureTakesItsValues : Prop :=
  ∀ (ppl hoff : BitVec 16) (keyDelay : Byte) (accept : StationSet) (s : State),
    let vals : ConfigVals := ⟨max 640 (min 1280 ppl.toNat), max (-2048) (min 2047 hoff.toInt), min 7 keyDelay.toNat⟩
    let line := s.time.ft.counter
    let window := 10 ≤ line ∧ line ≤ nominalCount s.sys s.time.ft.parity - 10
    let c := s.desk.cbi
    let on (x : Cbi) : Host.Outcome State Fault Refusal := .next { s with
      time := { s.time with tdu := { s.time.tdu with pendCfg := some vals } }
      desk := { s.desk with
        cbi := x
        hp := { s.desk.hp with configured := true }
        pt := { s.desk.pt with accept := accept, joinQuiet := 4 } } }
    s.resetHeld = false → s.desk.hp.configured = false →
    (¬window → exec (.configure ppl hoff keyDelay accept) s = on c) ∧
    (window → c.muted = false → c.line ≠ .fault → c.beaconSent = false → c.beaconDue = false →
      exec (.configure ppl hoff keyDelay accept) s = on { c with beaconDue := true, beaconAttempts := 0 })

/-- REINIT in any state: UNCONFIGURED; every slot FREE and every chain IDLE, the lost-trigger count kept; CLAIM, WITHDRAW
and RECALL frames that wait leave the queue and no beacon is due; the report queue is empty and a FENCE dropped;
nothing is keyed; the snapshot's own regions are gone. The time half, the Peer Table and muting stay.

Two points are the model's own: the line state, and a frame contending with it, goes on to its outcome (log 24), and a
list built and not yet handed to the Keyer keeps its spans (log 55). -/
def Obligations.ReinitFreesTheStation : Prop :=
  ∀ s : State, s.resetHeld = false → Completes .reinit s (fun t =>
    t.desk.hp.configured = false ∧ t.desk.hp.reports = [] ∧ t.desk.hp.fence = false ∧
    t.desk.hp.inbound = s.desk.hp.inbound ∧ t.desk.hp.transfer = s.desk.hp.transfer ∧
    (∀ i, (t.desk.slot i).st = .free) ∧ t.desk.ce.free = allSlots ∧ (∀ c, (t.desk.chain c).st = .idle) ∧
    t.desk.ce.trigger = false ∧ t.desk.ce.lostTriggers = s.desk.ce.lostTriggers ∧
    t.desk.cbi.beaconDue = false ∧ (∀ e ∈ t.desk.cbi.txq, e.stage = .waiting → e.what = .clear) ∧
    t.desk.cbi.muted = s.desk.cbi.muted ∧ t.desk.cbi.line = s.desk.cbi.line ∧
    t.desk.ky.key = false ∧ (∀ b ∈ t.desk.ky.delay, b = false) ∧ t.desk.sb = { s.desk.sb with own := [] } ∧
    t.time = s.time ∧ t.desk.pt = s.desk.pt ∧ t.straps = s.straps)

/-- STATUS_QUERY: a STATUS that is placed, or coalesces with one that is queued, carries the current values of its fields
and clears the shift excess and the wrap flags; one that finds the queue full is noted by OVERFLOW and clears
nothing. Two points are the model's choice: between a hand-over and the next delivered line start its D is the one just
formed (log 47), and between a CONFIGURE and delivered line 2 of its application its H_off is still the one in force (log
74). -/
def Obligations.StatusIsPlacedAndClears : Prop :=
  ∀ s : State,
    let h := s.desk.hp
    let c := s.desk.cbi
    let x := s.time.tdu
    let fields : StatusFields := {
      st := s.time.ref.st, fs := s.time.ft.fs, parity := s.time.ft.parity, fc := s.fc, d := roundR x.D 256,
      hoff := x.hoff, F := s.time.loop.F, pinned := s.time.loop.pinnedCount, jumps := s.time.loop.jumpCount,
      queue := x.queue.map AdjEntry.kind, hold := x.holdCount, shiftExcess := x.shiftExcess,
      badCheck := c.badCheck, truncated := c.truncated, abandoned := c.abandoned, overflow := s.desk.sb.overflow,
      lostTriggers := s.desk.ce.lostTriggers, configured := h.configured, muted := c.muted,
      busFault := c.line == .fault }
    let cleared (qs : List QReport) : State := { s with
      time := { s.time with tdu := { x with shiftExcess := 0 } }
      desk := { s.desk with
        hp := { h with reports := qs }
        cbi := { c with
          badCheck := ⟨c.badCheck.count, false⟩
          truncated := ⟨c.truncated.count, false⟩
          abandoned := ⟨c.abandoned.count, false⟩ } } }
    s.resetHeld = false →
    ((∀ q ∈ h.reports, q.report.kind ≠ 0x93) → h.reports.length < 15 →
      exec .statusQuery s = .next (cleared (h.reports ++ [⟨.status fields, 0⟩]))) ∧
    (∀ before f again after, h.reports = before ++ ⟨.status f, again⟩ :: after →
      (∀ q ∈ before ++ after, q.report.kind ≠ 0x93) →
      exec .statusQuery s = .next (cleared (before ++ ⟨.status { fields with
        shiftExcess := max (-32768) (min 32767 (f.shiftExcess + x.shiftExcess))
        badCheck := ⟨c.badCheck.count, f.badCheck.wrapped || c.badCheck.wrapped⟩
        truncated := ⟨c.truncated.count, f.truncated.wrapped || c.truncated.wrapped⟩
        abandoned := ⟨c.abandoned.count, f.abandoned.wrapped || c.abandoned.wrapped⟩ },
        min 255 (again + 1)⟩ :: after))) ∧
    ((∀ q ∈ h.reports, q.report.kind ≠ 0x93) → 15 ≤ h.reports.length →
      exec .statusQuery s = .next (s.report (.status fields)) ∧
      (s.report (.status fields)).desk.hp.reports.any isOverflow = true)

/-- LOAD_CUE into a named slot that is FREE or LOADED, or into the head of the free list, which a SLOT report names: the
slot leaves the free list and holds the record of the request, and no run: a top line above 319 is taken as 319, a left
above PPL−1 as PPL−1, a layer above 15 as 15, a height or width of 0 as 1 and one that leaves the picture reduced to it; every
other field is as given, and so are these where they are in range. An armed slot answers BUSY, a live one LIVE, an empty
free list NO_SLOT.

FREE_CUE of a LOADED slot frees it at the tail of the free list; a FREE slot answers NOT_LOADED, an ARMED one BUSY, a
live one LIVE. -/
def Obligations.SlotsAreLoadedAndFreed : Prop :=
  (∀ (r : LoadCue) (s : State),
    let ppl := s.time.tdu.configuredPpl
    let top := min 319 r.top.toNat
    let left := min (ppl - 1) r.left.toNat
    let record : CueRec := {
      top := top, height := min (max 1 r.height.toNat) (320 - top), left := left
      width := min (max 1 r.width.toNat) (ppl - left), layer := Fin.ofNat 16 (min 15 r.layer.toNat), kind := r.kind
      announce := r.announce, base := r.cadBase, mask := r.cadMask, start := r.start, startField := r.startField
      duration := r.duration.toNat, next := r.next, notifyStart := r.notifyStart, notifyEnd := r.notifyEnd
      demandEnd := r.demandEnd, autoFree := r.autoFree }
    let loaded (i : Slot) : Desk := { s.desk with ce := { s.desk.ce.setSlot i (CueSlot.idle .loaded record) with
      free := s.desk.ce.free.filter (fun j => j != i) } }
    let no (why : Reason) : Host.Outcome State Fault Refusal := .next (s.report (.refused 4 why s.fc))
    s.taken →
    (∀ i, r.slot = some i → (s.desk.slot i).st = .free ∨ (s.desk.slot i).st = .loaded →
      exec (.loadCue r) s = .next (s.withDesk (loaded i))) ∧
    (∀ i rest, r.slot = none → s.desk.ce.free = i :: rest →
      exec (.loadCue r) s = .next ((s.withDesk (loaded i)).report (.slot i))) ∧
    (r.slot = none → s.desk.ce.free = [] → exec (.loadCue r) s = no .noSlot) ∧
    (∀ i, r.slot = some i → (s.desk.slot i).st = .armed → exec (.loadCue r) s = no .busy) ∧
    (∀ i, r.slot = some i → (s.desk.slot i).st.live = true → exec (.loadCue r) s = no .live) ∧
    1 ≤ record.height ∧ record.top + record.height ≤ 320 ∧
    (1 ≤ ppl → 1 ≤ record.width ∧ record.left + record.width ≤ ppl)) ∧
  (∀ (i : Slot) (s : State), s.taken →
    ((s.desk.slot i).st = .loaded → exec (.freeCue i) s = .next (s.withDesk { s.desk with
      ce := { s.desk.ce.setSlot i CueSlot.freed with free := s.desk.ce.free ++ [i] } })) ∧
    ((s.desk.slot i).st = .free → exec (.freeCue i) s = .next (s.report (.refused 5 .notLoaded s.fc))) ∧
    ((s.desk.slot i).st = .armed → exec (.freeCue i) s = .next (s.report (.refused 5 .busy s.fc))) ∧
    ((s.desk.slot i).st.live = true → exec (.freeCue i) s = .next (s.report (.refused 5 .live s.fc))))

/-- START_CHAIN of an IDLE chain at a LOADED head: the chain runs and its head is ARMED; a head that waits for a trigger
waits; an announced head that starts at once, within the limits and with room in the transmit queue, goes to CLAIMING
with its CLAIM queued. A FREE head answers NOT_LOADED, another LIVE, a chain not IDLE BUSY. -/
def Obligations.StartChainArmsItsHead : Prop :=
  ∀ (c : ChainNo) (i : Slot) (s : State),
    let d := s.desk
    let q := (d.slot i).cue
    let running : Chain := { d.chain c with st := .running, armed := some i, waiting := none }
    let armed : CueSlot := { CueSlot.idle .armed q with chain := some c, predEnded := true }
    s.taken →
    ((d.chain c).st = .idle → (d.slot i).st = .loaded → q.start = .onTrigger →
      exec (.startChain c i) s = .next (s.withDesk { d with ce := (d.ce.setChain c running).setSlot i armed })) ∧
    ((d.chain c).st = .idle → (d.slot i).st = .loaded → q.start = .immediate → q.announce = true →
      d.ce.liveCount < 16 → d.ce.chainLive c < 2 → d.cbi.txq.length < 8 →
      exec (.startChain c i) s = .next (s.withDesk { d with
        ce := (d.ce.setChain c running).setSlot i { armed with st := .claiming, held := true }
        cbi := { d.cbi with txq := d.cbi.txq ++ [TxEntry.fresh (.claim i) .cueEngine] } })) ∧
    ((d.chain c).st = .idle → (d.slot i).st = .free →
      exec (.startChain c i) s = .next (s.report (.refused 6 .notLoaded s.fc))) ∧
    ((d.chain c).st = .idle → (d.slot i).st = .armed ∨ (d.slot i).st.live = true →
      exec (.startChain c i) s = .next (s.report (.refused 6 .live s.fc))) ∧
    ((d.chain c).st ≠ .idle → exec (.startChain c i) s = .next (s.report (.refused 6 .busy s.fc)))

/-- PAUSE_CHAIN and RESUME_CHAIN by the chain's state. RESUME_CHAIN tests no start condition of a cue armed before, which is
the model's choice (log 52). The LOADED successor of a cue that ended while the chain was PAUSED is armed (log 20).

WITHDRAW_CUE by the slot's state: a cue SCHEDULED or ON_AIR ends at the next boundary; one ENDING is left; FREE answers
NOT_LOADED, LOADED and ARMED answer NOT_RUNNING. A cue CLAIMING whose frame waits ends at once, its frame removed; with
the frame contending or in flight it is marked to end after the outcome (log 33). That holds for a cue that an abort has
marked, too; a second WITHDRAW_CUE changes nothing. -/
def Obligations.PauseResumeAndWithdrawByState : Prop :=
  (∀ (c : ChainNo) (s : State),
    let x := s.desk.chain c
    let on (y : Chain) : Host.Outcome State Fault Refusal :=
      .next (s.withDesk { s.desk with ce := s.desk.ce.setChain c y })
    s.taken →
    (x.st = .running → exec (.pauseChain c) s = on { x with st := .paused } ∧ exec (.resumeChain c) s = .next s) ∧
    (x.st = .paused → exec (.pauseChain c) s = .next s ∧
      (x.due = none → exec (.resumeChain c) s = on { x with st := .running }) ∧
      (∀ p n, x.due = some ⟨p, some n⟩ → (s.desk.slot n).st = .loaded → (s.desk.slot n).cue.start = .onTrigger →
        x.broken = false → x.terminal = false → exec (.resumeChain c) s = .next (s.withDesk { s.desk with
          ce := (s.desk.ce.setChain c { x with st := .running, due := none, armed := some n, waiting := none }).setSlot n
            { CueSlot.idle .armed (s.desk.slot n).cue with chain := some c, pred := some p, predEnded := true } }))) ∧
    (x.st = .idle → exec (.pauseChain c) s = .next (s.report (.refused 7 .notRunning s.fc)) ∧
      exec (.resumeChain c) s = .next (s.report (.refused 8 .notRunning s.fc))) ∧
    (x.st = .aborting → exec (.pauseChain c) s = .next (s.report (.refused 7 .busy s.fc)) ∧
      exec (.resumeChain c) s = .next (s.report (.refused 8 .busy s.fc)))) ∧
  (∀ (i : Slot) (s : State),
    let x := s.desk.slot i
    s.taken →
    (x.st = .scheduled ∨ x.st = .onAir → exec (.withdrawCue i) s = .next (s.withDesk { s.desk with
      ce := s.desk.ce.setSlot i { x with endOrdered := true } })) ∧
    (x.st = .ending → exec (.withdrawCue i) s = .next s) ∧
    (x.st = .free → exec (.withdrawCue i) s = .next (s.report (.refused 10 .notLoaded s.fc))) ∧
    (x.st = .loaded ∨ x.st = .armed → exec (.withdrawCue i) s = .next (s.report (.refused 10 .notRunning s.fc))) ∧
    (x.st = .claiming → x.withdrawn = true → exec (.withdrawCue i) s = .next s) ∧
    (x.st = .claiming → x.withdrawn = false → (∀ e, s.desk.cbi.claimEntry i = some e → e.stage ≠ .waiting) →
      exec (.withdrawCue i) s = .next (s.withDesk { s.desk with
        ce := s.desk.ce.setSlot i { x with endAfter := true, withdrawn := true } })) ∧
    (∀ e, x.st = .claiming → x.withdrawn = false → s.desk.cbi.claimEntry i = some e → e.stage = .waiting →
      x.cue.next ≠ some i → (∀ c w, (s.desk.chain c).waiting = some w → w.slot ≠ i) →
      Completes (.withdrawCue i) s (fun t =>
        t.desk.slot i = (if x.cue.autoFree then CueSlot.freed else CueSlot.idle .loaded x.cue) ∧
        t.desk.cbi.claimEntry i = none ∧ t.time = s.time ∧ t.desk.pt = s.desk.pt ∧ t.desk.sb = s.desk.sb ∧
        t.desk.ky = s.desk.ky)))

/-- ABORT_CHAIN of a RUNNING or PAUSED chain: it is ABORTING, or IDLE with nothing live; no cue of it stays ARMED, and its
SCHEDULED and ON_AIR cues end at the next boundary. A CLAIMING cue of it whose frame waits ends at once, its frame removed;
with the frame contending or in flight it ends after the outcome, and a contending frame is to be removed if it loses
(log 33). An IDLE chain answers NOT_RUNNING, an ABORTING one BUSY. -/
def Obligations.AbortChainEndsItsCues : Prop :=
  ∀ (c : ChainNo) (s : State),
    let d := s.desk
    s.taken →
    ((d.chain c).st = .running ∨ (d.chain c).st = .paused → Completes (.abortChain c) s (fun t =>
      ((t.desk.chain c).st = .aborting ∨ ((t.desk.chain c).st = .idle ∧ t.desk.ce.chainLive c = 0)) ∧
      (∀ i, (t.desk.slot i).chain = some c → (t.desk.slot i).st ≠ .armed) ∧
      (∀ i, (d.slot i).chain = some c → (d.slot i).st = .scheduled ∨ (d.slot i).st = .onAir →
        (t.desk.slot i).st = (d.slot i).st ∧ (t.desk.slot i).endOrdered = true ∧
        (t.desk.slot i).claim = (d.slot i).claim) ∧
      (∀ i e, (d.slot i).chain = some c → (d.slot i).st = .claiming → d.cbi.claimEntry i = some e →
        (e.stage = .waiting → (∀ h w, (d.chain h).waiting = some w → w.slot = i → h = c) →
          t.desk.slot i = (if (d.slot i).cue.autoFree then CueSlot.freed else CueSlot.idle .loaded (d.slot i).cue) ∧
          t.desk.cbi.claimEntry i = none) ∧
        (e.stage ≠ .waiting → (t.desk.slot i).st = .claiming ∧ (t.desk.slot i).endAfter = true) ∧
        (e.stage = .contending → { e with removeAsked := true } ∈ t.desk.cbi.txq) ∧
        (e.stage = .inFlight → e ∈ t.desk.cbi.txq)) ∧
      t.time = s.time ∧ t.desk.pt = s.desk.pt ∧ t.desk.sb = s.desk.sb ∧ t.desk.ky = s.desk.ky)) ∧
    ((d.chain c).st = .idle → exec (.abortChain c) s = .next (s.report (.refused 9 .notRunning s.fc))) ∧
    ((d.chain c).st = .aborting → exec (.abortChain c) s = .next (s.report (.refused 9 .busy s.fc)))

/-- CLEAR_ALL: a CLEAR stands at the head of the queue and nothing waits behind it; KEY is low, the delay line holds no key,
and nothing is keyed; no cue is SCHEDULED or ON_AIR and the live set is empty; every chain is ABORTING or IDLE. A stop that waits for the
next line acts at once (log 22), and so does one that already acts while the delay line drains (log 63). -/
def Obligations.ClearAllStopsEverything : Prop :=
  ∀ s : State, s.taken → Completes .clearAll s (fun t =>
    t.desk.cbi.txq.head? = some (TxEntry.fresh .clear .cueEngine) ∧
    (∀ e ∈ t.desk.cbi.txq, e.stage = .waiting → e.what = .clear) ∧
    t.desk.ky.key = false ∧ (∀ b ∈ t.desk.ky.delay, b = false) ∧ t.desk.ky.stop = .acting ∧
    (∀ i, (t.desk.slot i).st ≠ .scheduled ∧ (t.desk.slot i).st ≠ .onAir) ∧
    t.desk.ce.liveSet = 0 ∧ (∀ c, (t.desk.chain c).st = .aborting ∨ (t.desk.chain c).st = .idle) ∧
    t.time = s.time ∧ t.desk.pt = s.desk.pt ∧ t.desk.sb = s.desk.sb)

/-- SHIFT, RECENTRE and HOLD_SLIPS of a configured station, muted or not: a SHIFT is clamped to ±1024 ticks and queued, what
is cut off goes to the shift excess; a RECENTRE is queued in LOCKED and latched in every other state; a fourth host entry
answers QUEUE_FULL; the hold count is the request's, 250 at most.

A set latch is converted, with its RECENTRE at the tail of the queue, at the line boundary that enters LOCKED, before that
boundary's hand-over (the model's choice, log 37), and in LOCKED when a host entry leaves the queue; with 3 host entries it
stays set. -/
def Obligations.TimingRequestsQueueOrLatch : Prop :=
  (∀ (amount : BitVec 16) (n : Byte) (s : State),
    let x := s.time.tdu
    let a := max (-1024) (min 1024 amount.toInt)
    let on (y : Tdu) : Host.Outcome State Fault Refusal := .next (s.withTime { s.time with tdu := y })
    s.serves →
    (x.hostEntries < 3 → exec (.shift amount) s = on { x with
      queue := x.queue ++ [⟨.shift a, false⟩]
      shiftExcess := max (-32768) (min 32767 (x.shiftExcess + (amount.toInt - a))) }) ∧
    (3 ≤ x.hostEntries → exec (.shift amount) s = .next (s.report (.refused 11 .queueFull s.fc))) ∧
    (s.time.ref.st = .locked → x.hostEntries < 3 →
      exec .recentre s = on { x with queue := x.queue ++ [⟨.recentre, false⟩] }) ∧
    (s.time.ref.st = .locked → 3 ≤ x.hostEntries →
      exec .recentre s = .next (s.report (.refused 12 .queueFull s.fc))) ∧
    (s.time.ref.st ≠ .locked → exec .recentre s =
      .next (s.withTime { s.time with ref := { s.time.ref with latch := true } })) ∧
    exec (.holdSlips n) s = on { x with holdCount := min 250 n.toNat }) ∧
  (∀ (time : Ts) (s t : State),
    let x := s.time.tdu
    exec (.lineBoundary time) s = .next t → s.time.ref.st ≠ .locked → t.time.ref.st = .locked → s.time.ref.latch = true →
    x.applyNext = false → x.applyAt ≠ some s.time.loop.n → x.plan.line ≠ s.time.loop.n →
    ∃ more, (∀ e ∈ more, e.kind = .slip) ∧
      (x.hostEntries < 3 → t.time.ref.latch = false ∧ t.time.tdu.queue = x.queue ++ ⟨.recentre, false⟩ :: more) ∧
      (3 ≤ x.hostEntries → t.time.ref.latch = true ∧ t.time.tdu.queue = x.queue ++ more)) ∧
  (∀ (step : Int) (s : State),
    let m := s.time.ref
    let h := s.time.tdu.handOver s.straps.tape s.time.loop.n s.time.loop.F s.time.loop.C step m.st s.fc
    let t := (s.handOver step).1
    (m.st = .locked → m.latch = true → (∃ e ∈ h.left, e.kind ≠ .slip) → h.tdu.hostEntries < 3 →
      t.time.ref = { m with latch := false } ∧
      t.time.tdu = { h.tdu with queue := h.tdu.queue ++ [⟨.recentre, false⟩] }) ∧
    (m.st ≠ .locked ∨ m.latch = false ∨ (∀ e ∈ h.left, e.kind = .slip) ∨ 3 ≤ h.tdu.hostEntries →
      t.time.ref = m ∧ t.time.tdu = h.tdu))

/-- FENCE of a configured station, muted or not: with both queues empty FENCE_DONE is posted at once, in the end cells of a frame that has succeeded too, which is
the model's choice (log 56); else every entry and frame is marked and the FENCE waits for
them; a second FENCE is refused BUSY.

The FENCE is done when the last marked item leaves: then, and only then, FENCE_DONE is posted. -/
def Obligations.FenceMarksAndCounts : Prop :=
  (∀ s : State,
    let x := s.time.tdu
    let c := s.desk.cbi
    s.serves →
    (s.desk.hp.fence = false → x.queue = [] → c.txq = [] →
      exec .fence s = .next (s.report (.fenceDone s.fc))) ∧
    (s.desk.hp.fence = false → x.queue ≠ [] ∨ c.txq ≠ [] → exec .fence s = .next { s with
      time := { s.time with tdu := { x with queue := x.queue.map (fun e => ⟨e.kind, true⟩) } }
      desk := { s.desk with
        cbi := { c with txq := c.txq.map (fun e => { e with marked := true }) }
        hp := { s.desk.hp with fence := true, fenceLeft := x.queue.length + c.txq.length } } }) ∧
    (s.desk.hp.fence = true → exec .fence s = .next (s.report (.refused 14 .busy s.fc)))) ∧
  (∀ (fc : FieldCount) (d : Desk), d.hp.fence = true →
    (1 < d.hp.fenceLeft → d.itemLeft fc true = { d with hp := { d.hp with fenceLeft := d.hp.fenceLeft - 1 } }) ∧
    (d.hp.fenceLeft = 1 → d.itemLeft fc true =
      { d with hp := { d.hp with fence := false, fenceLeft := 0 } }.post fc (.fenceDone fc)) ∧
    d.itemLeft fc false = d)

/-! ## Cues in the field boundary -/

/-- An announced cue goes on air at a field boundary only in SCHEDULED, in a RUNNING chain, its predecessor ended, its E
not one or two fields ahead, its id carried by a beacon of an earlier field, and no end ordered. An unannounced one does so
only if it was ARMED in a RUNNING chain with its start condition held before that boundary (log 32). There, its predecessor
ended, it is on air for its duration, with CUE(ON_AIR) if it asks for it; held by the limit of 16 it posts REGION_FULL
once (logs 53, 61); with two live cues in its chain it waits.

A cue on air in a RUNNING chain counts each field down. It ends at its last one, at a trigger edge that its chain takes
under demand-end, or, SCHEDULED too and in any chain state, by an order: an announced cue is ENDING with its WITHDRAW
queued, unless the queue is full; an unannounced one is off the air, one armed again at that boundary too (log 32). Otherwise
it stays on air. In a chain that is not
RUNNING it counts nothing. A SCHEDULED successor that meets its other conditions goes on air at the boundary at which its
predecessor ends.

The boundary consumes or discards the pending edge; only RUNNING chains take it, and an armed ON_TRIGGER cue of theirs has
its start condition held.

The successor of an ended cue of a RUNNING chain is ARMED when it is LOADED, waited for when it is armed or live, and breaks
the chain when it is FREE. In a PAUSED chain it waits for the chain to run again (log 20), and a cue with no next completes
the chain. Pre-roll arms the LOADED successor of a cue with 1 to 3 fields left, once: an immediate
announced one claims at once, one that starts AFTER_PREVIOUS waits. -/
def Obligations.CueEngineAtAFieldBoundary : Prop :=
  (∀ (fc : FieldCount) (d : Desk) (i : Slot), (d.slot i).cue.announce = true → (d.slot i).st ≠ .onAir →
    ((d.ceBoundary fc).slot i).st = .onAir →
    (d.slot i).st = .scheduled ∧ (d.slot i).endOrdered = false ∧ d.runsSlot i = true ∧
    ((d.ceBoundary fc).slot i).predEnded = true ∧
    (∃ q, (d.slot i).claim = some q ∧ q.e - fc ≠ 1 ∧ q.e - fc ≠ 2) ∧
    (∃ f, (d.slot i).beaconField = some f ∧ f ≠ fc)) ∧
  (∀ (fc : FieldCount) (d : Desk) (i : Slot), (d.slot i).cue.announce = false → (d.slot i).st ≠ .onAir →
    (d.slot i).st ≠ .scheduled → ((d.ceBoundary fc).slot i).st = .onAir →
    (d.slot i).st = .armed ∧ (d.slot i).held = true ∧ d.runsSlot i = true) ∧
  (∀ (fc : FieldCount) (ripe : List Slot) (d : Desk) (i : Slot) (c : ChainNo),
    let x := d.slot i
    let t := d.stepOnAir fc ripe i
    let posted (r : Report) : List QReport := postReport fc r d.hp.reports
    x.st = .armed → x.cue.announce = false → x.held = true → x.predEnded = true → x.chain = some c →
    (d.chain c).st = .running →
    (i ∉ ripe → t = d) ∧
    (i ∈ ripe → d.ce.liveCount < 16 → d.ce.chainLive c < 2 →
      t.slot i = { x with st := .onAir, remaining := x.cue.duration } ∧ (t.chain c).onAir = some i ∧
      ((d.chain c).armed = some i → (t.chain c).armed = none) ∧ t.cbi = d.cbi ∧
      t.hp.reports = if x.cue.notifyStart then posted (.cue i (some c) .onAir fc ((x.claim.map Claim.e).getD 0))
        else d.hp.reports) ∧
    (i ∈ ripe → 16 ≤ d.ce.liveCount → t.slot i = { x with fullPosted := true } ∧ t.cbi = d.cbi ∧
      t.hp.reports = if x.fullPosted then d.hp.reports else posted (.regionFull i (some c) fc)) ∧
    (i ∈ ripe → d.ce.liveCount < 16 → 2 ≤ d.ce.chainLive c → t = d)) ∧
  (∀ (fc : FieldCount) (d : Desk) (i : Slot),
    let x := d.slot i
    let t := d.ceBoundary fc
    let y := t.slot i
    let edge := d.ce.trigger = true ∧ x.cue.demandEnd = true
    let ends := (x.endOrdered = true ∧ (x.st = .scheduled ∨ x.st = .onAir)) ∨
      (x.st = .onAir ∧ d.runsSlot i = true ∧ ((x.cue.duration ≠ 0 ∧ x.remaining ≤ 1) ∨
        (edge ∧ ∃ c, x.chain = some c ∧ (d.chain c).onAir = some i)))
    (ends → x.cue.announce = true → y.st = .ending ∧
      ((y.wdQueued = true ∧ ∃ w ∈ t.cbi.txq, w.what = .withdraw i) ∨ 8 ≤ t.cbi.txq.length)) ∧
    (ends → x.cue.announce = false → y.st ≠ .onAir ∧ y.st ≠ .scheduled) ∧
    (x.st = .onAir → x.endOrdered = false → ¬edge → d.runsSlot i = true → x.cue.duration = 0 ∨ 2 ≤ x.remaining →
      y.st = .onAir ∧ y.remaining = if x.cue.duration = 0 then x.remaining else x.remaining - 1) ∧
    (x.st = .onAir → x.endOrdered = false → d.runsSlot i = false → y.st = .onAir ∧ y.remaining = x.remaining)) ∧
  (∀ (fc : FieldCount) (d : Desk) (i n : Slot) (c : ChainNo) (q : Claim) (f : FieldCount),
    let x := d.slot i
    let z := d.slot n
    x.st = .onAir → x.chain = some c → (d.chain c).st = .running → x.cue.duration ≠ 0 → x.remaining ≤ 1 →
    z.st = .scheduled → z.chain = some c → z.pred = some i → z.endOrdered = false → z.claim = some q →
    q.e - fc ≠ 1 → q.e - fc ≠ 2 → z.beaconField = some f → f ≠ fc →
    ((d.ceBoundary fc).slot i).st ≠ .onAir ∧ ((d.ceBoundary fc).slot n).st = .onAir ∧
    ((d.ceBoundary fc).slot n).remaining = z.cue.duration) ∧
  (∀ (fc : FieldCount) (d : Desk), (d.ceBoundary fc).ce.trigger = false) ∧
  (∀ (d : Desk) (c : ChainNo) (i : Slot),
    (d.ce.trigger = false → d.stepTrigger d.consumers = d) ∧
    ((d.chain c).st ≠ .running → c ∉ d.consumers) ∧
    (d.ce.trigger = true → (d.chain c).st = .running → (d.chain c).armed = some i → (d.slot i).cue.start = .onTrigger →
      c ∈ d.consumers ∧ ((d.stepTrigger d.consumers).slot i).held = true)) ∧
  (∀ (fc : FieldCount) (d : Desk) (e : EndedCue) (c : ChainNo) (n : Slot),
    let t := d.stepSucceed fc e
    let z := (d.slot n).cue
    e.chain = some c → e.succDone = false → e.next = some n → (d.chain c).st = .running → (d.chain c).broken = false →
    (d.chain c).terminal = false →
    ((d.slot n).st = .loaded → (t.slot n).st = .armed ∧ (t.slot n).chain = some c ∧ (t.slot n).pred = some e.slot ∧
      (t.slot n).predEnded = true ∧ (t.slot n).cue = z ∧ (t.chain c).armed = some n ∧
      ((t.slot n).held = true ↔ z.start = .immediate ∨ z.start = .afterPrevious ∨
        (z.start = .atField ∧ (fc - z.startField).toNat ≤ 32767))) ∧
    ((d.slot n).st = .free → d.ce.chainLive c = 0 → (t.chain c).st = .idle) ∧
    ((d.slot n).st = .free → d.ce.chainLive c ≠ 0 → (t.chain c).broken = true) ∧
    ((d.slot n).st = .armed ∨ (d.slot n).st.live = true → (t.chain c).waiting = some ⟨n, e.slot, true⟩)) ∧
  (∀ (fc : FieldCount) (d : Desk) (e : EndedCue) (c : ChainNo),
    let t := d.stepSucceed fc e
    e.chain = some c → e.succDone = false → (d.chain c).st = .paused →
    (∀ n, e.next = some n → t.chain c = { d.chain c with due := some ⟨e.slot, some n⟩ } ∧
      (∀ i, i ≠ e.slot → t.slot i = d.slot i)) ∧
    (e.next = none → d.ce.chainLive c = 0 → (t.chain c).st = .idle) ∧
    (e.next = none → d.ce.chainLive c ≠ 0 → t.chain c = { d.chain c with terminal := true })) ∧
  (∀ (fc : FieldCount) (d : Desk) (i n : Slot) (c : ChainNo),
    let x := d.slot i
    let z := (d.slot n).cue
    let t := d.stepPreroll fc i
    (x.remaining = 0 ∨ 4 ≤ x.remaining ∨ x.succDone = true ∨ x.cue.duration = 0 → t = d) ∧
    (x.st = .onAir → x.chain = some c → (d.chain c).st = .running → x.cue.duration ≠ 0 → 1 ≤ x.remaining →
      x.remaining ≤ 3 → x.succDone = false → x.cue.next = some n → (d.slot n).st = .loaded →
      t.slot i = { x with succDone := true } ∧ (t.slot n).chain = some c ∧ (t.slot n).pred = some i ∧
      (t.chain c).armed = some n ∧
      (z.start = .immediate → z.announce = true → d.ce.liveCount < 16 → d.ce.chainLive c < 2 → d.cbi.txq.length < 8 →
        (t.slot n).st = .claiming ∧
        t.cbi = { d.cbi with txq := d.cbi.txq ++ [TxEntry.fresh (.claim n) .cueEngine] }) ∧
      (z.start = .afterPrevious → (t.slot n).st = .armed ∧ (t.slot n).held = false ∧ t.cbi = d.cbi)))

/-- A WITHDRAW offered to the queue passes when the pass-lock is clear and no entry concerns its id: it goes behind a CLEAR
and the frame in flight and ahead of the rest, and sets the lock. Otherwise it goes to the tail and the
lock stays. No step leaves the lock set over a queue with no entry and no frame in flight, and hardware reset clears
it. -/
def Obligations.WithdrawPassesOnce : Prop :=
  (∀ (i : Slot) (owner : TxOwner) (c : Cbi),
    let w := TxEntry.fresh (.withdraw i) owner
    (∀ front rest, c.passLock = false → (∀ e ∈ c.txq, e.what.concerns i = false) → c.txq = front ++ rest →
      (∀ e ∈ front, e.what = .clear ∨ e.stage = .inFlight) →
      (∀ e, rest.head? = some e → e.what ≠ .clear ∧ e.stage ≠ .inFlight) →
      c.enqueueWithdraw i owner = { c with txq := front ++ w :: rest, passLock := true }) ∧
    (c.passLock = true ∨ (∃ e ∈ c.txq, e.what.concerns i = true) →
      c.enqueueWithdraw i owner = { c with txq := c.txq ++ [w] })) ∧
  (∀ s t : State, s.desk.cbi.lockOk → step s = .next t → t.desk.cbi.lockOk) ∧ Desk.reset.cbi.passLock = false

/-! ## What is keyed -/

/-- An occluder, or a blanket, outranks an own region when its layer is higher, or its layer is the same and its station
number lower than the station's own; everything outranks an unannounced region. The test is made region by region. -/
def Obligations.OutrankingByLayerThenStation : Prop :=
  (∀ (stn n : Station) (layer : Layer) (r : OwnRegion),
    (r.clip ≠ none → (outranks stn layer n r = true ↔
      r.layer.val < layer.val ∨ (layer = r.layer ∧ n.val < stn.val))) ∧
    (r.clip = none → outranks stn layer n r = true)) ∧
  (∀ (stn : Station) (v : LineVals) (line : Nat) (r : OwnRegion) (sb : Sb) (z : Ivl),
    z ∈ sb.rangesOver stn v line r ↔
      (∃ o ∈ sb.occluders, o.claim.top ≤ line ∧ line ≤ o.claim.bottom ∧
        outranks stn o.claim.layer o.station r = true ∧ z = v.occluded o.claim.left o.claim.right) ∨
      (∃ b ∈ sb.blankets, outranks stn b.layer b.station r = true ∧ z = (0, (v.ppl : Int) - 1)))

/-- The occluded range of a claim is the least pixel interval of the line that holds every pixel touching the claim, and the
clip range the greatest that lies wholly inside it, on the line's pixel grid: bus unit u lies ((u·32 − H_off)·256 − D)·PPL
F-ths of a pixel after the line's reference point. Neither holds a pixel outside 0..PPL−1.

An own claim reaches from the bus unit that holds the region's left edge, less 8, to the one after its right edge, plus 8,
with D taken as 0, clamped to 0..1023 and 1..1024. -/
def Obligations.OcclusionRoundsOutwardClippingInward : Prop :=
  (∀ (v : LineVals) (uL uR : Nat) (x : Int), 0 < v.F →
    let place (u : Nat) : Int := (((u : Int) * 32 - v.hoff) * 256 - v.D) * v.ppl
    ((v.occluded uL uR).1 ≤ x ∧ x ≤ (v.occluded uL uR).2 ↔
      0 ≤ x ∧ x < v.ppl ∧ place uL < (x + 1) * v.F ∧ x * v.F < place uR) ∧
    ((v.clipRange uL uR).1 ≤ x ∧ x ≤ (v.clipRange uL uR).2 ↔
      0 ≤ x ∧ x < v.ppl ∧ place uL ≤ x * v.F ∧ (x + 1) * v.F ≤ place uR)) ∧
  (∀ (F hoff lo hi : Int) (ppl left width : Nat),
    let unit : Int := 8192 * ppl
    let start := hoff * 256 * ppl + left * F
    let finish := hoff * 256 * ppl + ((left : Int) + width) * F
    lo * unit ≤ start → start < (lo + 1) * unit → (hi - 1) * unit < finish → finish ≤ hi * unit →
    (ownExtent F hoff ppl left width).1 = (max 0 (min 1023 (lo - 8))).toNat ∧
    (ownExtent F hoff ppl left width).2 = (max 1 (min 1024 (hi + 8))).toNat)

/-- The spans of a line hold exactly the pixels that the station may key: a FILL span those of its FILL regions, a CUTOUT
span those of its CUTOUT regions that no FILL region keys. They are sorted by left edge and disjoint.

The list built for a line holds the 16 leftmost of them on a keyable line with |D| at most 8192 ticks, and is empty on
every other; a line on which spans are dropped counts in SPAN_OVERFLOW, to 255 at most. With it go the line number, D, PPL,
slip-field flag, parity and keyable flag.

LINE_BOUNDARY that brings no coasted boundary builds the next line's list from the values that it leaves, a new H_off and PPL
from delivered line 2, after an empty list where the hand-over of the closed line inserts a delivered line. The slip-field
flag that goes with it is the hand-over's. What goes with that empty list, the next paired line's number, D and PPL and no
keyable flag, is the model's choice (log 62). -/
def Obligations.SpansAreTheKeyablePixels : Prop :=
  (∀ (stn : Station) (v : LineVals) (line : Nat) (sb : Sb) (x : Int),
    ((∃ w ∈ sb.spans stn v line, w.kind = .fill ∧ w.left ≤ x ∧ x ≤ w.right) ↔
      ∃ r ∈ sb.own, r.kind = .fill ∧ sb.mayKey stn v line x r) ∧
    ((∃ w ∈ sb.spans stn v line, w.kind = .cutout ∧ w.left ≤ x ∧ x ≤ w.right) ↔
      (∃ r ∈ sb.own, r.kind = .cutout ∧ sb.mayKey stn v line x r) ∧
      ¬∃ r ∈ sb.own, r.kind = .fill ∧ sb.mayKey stn v line x r)) ∧
  (∀ (stn : Station) (v : LineVals) (line : Nat) (sb : Sb),
    (sb.spans stn v line).Pairwise (fun a b => a.right < b.left)) ∧
  (∀ (sys : System) (stn : Station) (v : LineVals) (line : Nat) (slip : Bool) (parity : Parity) (sb : Sb),
    let key := keyableLine sys parity line
    let keyable := (if sys = .sys625 then 22 else 18) ≤ line ∧ line + 3 ≤ nominalCount sys parity
    let all := sb.spans stn v line
    let shown := keyable ∧ v.D.natAbs ≤ 8192 * 256
    let t := sb.build stn v line key slip parity
    ∃ l, t = { sb with ready := sb.ready ++ [l], overflow := t.overflow } ∧
      l.fieldLine = line ∧ l.D = v.D ∧ l.ppl = v.ppl ∧ l.slip = slip ∧ l.parity = parity ∧
      (l.keyable = true ↔ keyable) ∧
      (shown → l.spans = all.take 16 ∧
        t.overflow = if 16 < all.length then min 255 (sb.overflow + 1) else sb.overflow) ∧
      (¬shown → l.spans = [] ∧ t.overflow = sb.overflow)) ∧
  (∀ (time : Ts) (s : State), s.resetHeld = false → s.lineFree = true →
    s.time.ft.coastsNow s.sys s.straps.tape = false →
    let k := s.closeLine time
    let inserted : Bool := (k.1.handOver k.2.step).2
    Completes (.lineBoundary time) s (fun t =>
      let v := t.time.lineVals
      let line := t.time.ft.counter
      let parity := t.time.ft.parity
      let slip := t.time.tdu.slipField
      let sb := if inserted then { s.desk.sb with ready := s.desk.sb.ready ++ [⟨[], line, v.D, v.ppl, slip, parity, false⟩] }
        else s.desk.sb
      v.F = t.time.loop.F ∧ v.D = t.time.tdu.D ∧
      (∀ w, t.time.tdu.newVals = some w → w.line ≤ t.time.loop.n → v.hoff = w.hoff ∧ v.ppl = w.ppl) ∧
      ((∀ w, t.time.tdu.newVals = some w → t.time.loop.n < w.line) →
        v.hoff = t.time.tdu.hoff ∧ v.ppl = t.time.tdu.ppl) ∧ line = s.time.ft.counter + 1 ∧ parity = s.time.ft.parity ∧
      t.desk.sb = sb.build s.straps.stn v line (keyableLine s.sys parity line) slip parity))

/-! ## Encodings -/

/-- A beacon's payload reads back as the beacon.

A claim's payload, and its resend flag, read back; a right edge of 1024 among them.

The other payloads read back.

Every field of a payload lies at its positions, counted from 1, most significant bit first, and what lies between is 0: in a
live set position 33 is id 31 and position 64 id 0; a right edge of 1024 is sent as 0. A CLEAR has no payload. -/
def Obligations.PayloadsReadBack : Prop :=
  (∀ b : Beacon, decodeBeacon (encodeBeacon b) = some b) ∧
  (∀ (c : Claim) (resend : Bool), c.top < 512 → c.bottom < 512 → c.left < 1024 → 1 ≤ c.right → c.right ≤ 1024 →
    decodeClaim (encodeClaim c resend) = (c, resend)) ∧
  (∀ (target : Station) (i : Slot),
    decodeWithdraw (encodeWithdraw i) = i ∧ decodeRecall (encodeRecall target i) = (target, i)) ∧
  (∀ b : Beacon,
    let w := (FrameContents.beacon b).payload
    let st : Nat := match b.st with
      | .search => 0
      | .acquire => 1
      | .locked => 2
      | .hold => 3
      | .probe => 4
    w.length = 64 ∧ fieldAt w 1 3 = st ∧ fieldAt w 4 4 = numOf b.fieldLocked ∧
    fieldAt w 5 5 = (if b.parity = .first then 0 else 1) ∧ fieldAt w 6 6 = numOf b.top.isSome ∧ fieldAt w 7 8 = 0 ∧
    (∀ layer, b.top = some layer → fieldAt w 9 12 = layer.val) ∧ (b.top = none → fieldAt w 9 12 = 0) ∧
    fieldAt w 13 16 = 0 ∧ fieldAt w 17 32 = b.fc.toNat ∧
    ∀ i : Slot, fieldAt w (64 - i.val) (64 - i.val) = numOf (b.live.getLsbD i.val)) ∧
  (∀ (c : Claim) (resend : Bool), c.top < 512 → c.bottom < 512 → c.left < 1024 → c.right ≤ 1024 →
    let w := (FrameContents.claim c resend).payload
    w.length = 72 ∧ fieldAt w 1 5 = c.id.val ∧ fieldAt w 6 6 = numOf resend ∧ fieldAt w 7 10 = c.layer.val ∧
    fieldAt w 11 19 = c.top ∧ fieldAt w 20 28 = c.bottom ∧ fieldAt w 29 38 = c.left ∧
    fieldAt w 39 48 = (if c.right = 1024 then 0 else c.right) ∧ fieldAt w 49 64 = c.e.toNat ∧
    fieldAt w 65 68 = c.base.toNat ∧ fieldAt w 69 72 = c.mask.toNat) ∧
  (∀ (target : Station) (i : Slot),
    let w := (FrameContents.withdraw i).payload
    let r := (FrameContents.recall target i).payload
    w.length = 8 ∧ fieldAt w 1 3 = 0 ∧ fieldAt w 4 8 = i.val ∧
    r.length = 16 ∧ fieldAt r 1 4 = target.val ∧ fieldAt r 5 9 = i.val ∧ fieldAt r 10 16 = 0) ∧
  FrameContents.clear.payload = []

/-- A receiver reads a frame as it was sent: the sender, the kind, the length, a check that agrees, the payload.

The frame's cells are, in order: rank, 0 for first; continuation, 0 for one; station number; kind; length in bytes; payload;
check; three recessive cells. The check is a 16-bit register, all ones before the kind, which each bit of kind, length and
payload shifts by one place, combined with x^12 + x^5 + 1 where the bit that leaves differs from the frame's; it is sent as
it stands after the payload, and a receiver takes no other. -/
def Obligations.SentFrameReadsBack : Prop :=
  ∀ (stn : Station) (a : Attempt),
    let bits := frameBits stn a
    bits.length = 33 + a.contents.payload.length ∧ rxSender bits = stn ∧ rxKind bits = a.contents.kind ∧
    frameLength a.contents.kind = some (rxLength bits) ∧ rxFormError bits = none ∧ rxCheckOk bits = true ∧
    rxPayload bits = a.contents.payload ∧
    (∀ (w : Nat) (word : BitVec w), wordOf w (bitsOf word) = word) ∧
    (let n := a.contents.payload.length
    let kind : Nat := match a.contents with
      | .beacon _ => 1
      | .claim _ _ => 2
      | .withdraw _ => 3
      | .recall _ _ => 4
      | .clear => 5
    let register := ((bits.drop 6).take (8 + n)).foldl
      (fun (r : BitVec 16) b => if r.getLsbD 15 = b then r <<< 1 else (r <<< 1) ^^^ 0x1021#16) 0xFFFF#16
    fieldAt bits 1 1 = (if a.firstRank then 0 else 1) ∧ fieldAt bits 2 2 = (if a.continuing then 0 else 1) ∧
    fieldAt bits 3 6 = stn.val ∧ fieldAt bits 7 10 = kind ∧ 8 * fieldAt bits 11 14 = n ∧
    (bits.drop 14).take n = a.contents.payload ∧ fieldAt bits (15 + n) (30 + n) = register.toNat ∧
    fieldAt bits (31 + n) (33 + n) = 7 ∧
    ∀ other : List Bool, other.length = 33 + n → fieldAt other 7 14 = fieldAt bits 7 14 →
      (other.drop 14).take n = a.contents.payload → fieldAt other (15 + n) (30 + n) ≠ register.toNat →
      rxCheckOk other = false)

/-! ## What every step keeps -/

/-- F stays within the clamp range of the strapped system.

While a pulse is in progress the slicer is enabled and no blank window is open: no level update falls in a pulse, and a
disabled slicer cuts none short (a falling crossing at samples j + 1 to j + 39 abandons the window too, log 35). It is so at
reset. -/
def Obligations.StepKeepsTheReference : Prop :=
  (∀ s t : State, s.freqOk → step s = .next t → t.freqOk) ∧
  (∀ s t : State, s.time.sfe.pulseOk → step s = .next t → t.time.sfe.pulseOk) ∧ State.reset.time.sfe.pulseOk

/-- The adjustment queue holds at most 3 host entries and one SLIP.

PPL, H_off, the key delay and the hold count stay within their ranges, those on their way to delivered line 2 too. -/
def Obligations.StepKeepsTheDeliveryUnit : Prop :=
  (∀ s t : State, s.time.tdu.queueOk → step s = .next t → t.time.tdu.queueOk) ∧
  (∀ s t : State, s.time.tdu.rangesOk → step s = .next t → t.time.tdu.rangesOk)

/-- The report queue holds at most 16 records, at most 15 of them not OVERFLOW, and no two of one kind and subject. -/
def Obligations.StepKeepsTheReportQueue : Prop :=
  ∀ s t : State, reportsOk s.desk.hp.reports → step s = .next t → reportsOk t.desk.hp.reports

/-- The delay line is as long as the key delay.

Every span list that the Keyer holds or will take has at most 16 spans, sorted, disjoint, within 0..PPL−1. -/
def Obligations.StepKeepsTheKeyersData : Prop :=
  (∀ s t : State, s.desk.ky.delayOk → step s = .next t → t.desk.ky.delayOk) ∧
  (∀ s t : State, s.desk.listsOk → step s = .next t → t.desk.listsOk)

/-- The claim store holds at most 64 claims, one for a station and id.

Each of the 32 slots is on the free list exactly once or loaded. At most 16 cues are live, at most 2 of one chain. -/
def Obligations.StepKeepsTheClaimStoreAndTheSlots : Prop :=
  (∀ s t : State, s.desk.pt.storeOk → step s = .next t → t.desk.pt.storeOk) ∧
  (∀ s t : State, s.desk.ce.slotsOk → step s = .next t → t.desk.ce.slotsOk) ∧
  (∀ s t : State, s.desk.ce.liveOk → step s = .next t → t.desk.ce.liveOk)
end

