-- ==== Sys2Proof/Laws/Queue.lean ====
section
/-! SUPPORT. What the operations of the transmit queue leave (R113 to R115). -/

namespace Sys2Proof.Machine

/-- A passing WITHDRAW goes behind the entries that are held first and ahead of the rest. -/
theorem passAhead_append (w : TxEntry) (front rest : List TxEntry) (hf : ∀ e ∈ front, e.heldFirst = true)
    (hr : ∀ e, rest.head? = some e → e.heldFirst = false) : passAhead w (front ++ rest) = front ++ w :: rest := by
  induction front with
  | nil =>
    cases rest with
    | nil => rfl
    | cons e more => simp [passAhead, hr e rfl]
  | cons e more ih =>
    simp only [List.cons_append, passAhead, hf e List.mem_cons_self, if_true]
    rw [ih (fun x hx => hf x (List.mem_cons_of_mem _ hx))]

/-- A passing WITHDRAW adds itself and drops nothing. -/
theorem passAhead_perm (w : TxEntry) (es : List TxEntry) : (passAhead w es).Perm (w :: es) := by
  induction es with
  | nil => exact List.Perm.refl _
  | cons e rest ih =>
    unfold passAhead
    split
    · exact (ih.cons e).trans (List.Perm.swap w e rest)
    · exact List.Perm.refl _

/-- A taken WITHDRAW adds itself and drops nothing. -/
theorem enqueueWithdraw_perm (i : Slot) (owner : TxOwner) (c : Cbi) :
    (c.enqueueWithdraw i owner).txq.Perm (TxEntry.fresh (.withdraw i) owner :: c.txq) := by
  unfold Cbi.enqueueWithdraw
  split
  · exact passAhead_perm _ _
  · exact List.perm_append_comm

/-- Settling the lock changes no entry. -/
@[simp] theorem settleLock_txq (c : Cbi) : c.settleLock.txq = c.txq := by
  unfold Cbi.settleLock
  split <;> rfl

/-- Settling the lock leaves what is in flight. -/
@[simp] theorem settleLock_queueFlies (c : Cbi) : c.settleLock.queueFlies = c.queueFlies := by
  unfold Cbi.settleLock
  split <;> rfl

/-- An empty queue, with no frame of it in flight, has its pass-lock clear once settled. -/
theorem settleLock_of_empty {c : Cbi} (h : c.txq = []) (hf : c.queueFlies = false) :
    c.settleLock.passLock = false := by
  simp [Cbi.settleLock, h, hf]

/-- A queue with an entry keeps its lock. -/
theorem settleLock_of_entry {c : Cbi} (h : c.txq ≠ []) : c.settleLock = c := by
  simp [Cbi.settleLock, h]

end Sys2Proof.Machine
end

