-- ==== Sys2Proof/Laws/Attempt.lean ====
section
/-! SUPPORT. What the operations on the frame contending or in flight do to a queue that it heads, and to one in which
every frame waits (R106, R108). -/

namespace Sys2Proof.Machine

variable {c : Cbi} {d : Desk} {fc : FieldCount} {e : TxEntry} {rest : List TxEntry}

/-- A queue in which every frame waits is its waiting part. -/
theorem filter_of_allWait (h : ∀ x ∈ rest, x.stage = .waiting) : rest.filter (fun x => x.stage == .waiting) = rest :=
  List.filter_eq_self.mpr (fun x hx => by simp [h x hx])

/-- Changing the frame that is not waiting changes nothing in it. -/
theorem map_of_allWait (h : ∀ x ∈ rest, x.stage = .waiting) (f : TxEntry → TxEntry) :
    rest.map (fun x => if x.stage = .waiting then x else f x) = rest := by
  conv => rhs; rw [← List.map_id rest]
  exact List.map_congr_left (fun x hx => by simp [h x hx])

/-- With every frame waiting none contends or flies. -/
theorem active_of_allWait (h : ∀ x ∈ c.txq, x.stage = .waiting) : c.active = none :=
  List.find?_eq_none.mpr (fun x hx => by simp [h x hx])

/-- The frame contending or in flight is the head. -/
theorem active_of_head (hq : c.txq = e :: rest) (he : e.stage ≠ .waiting) : c.active = some e := by
  simp [Cbi.active, hq, he]

/-- The queue without the frame contending or in flight at its head. -/
theorem dropActive_of_head (hq : c.txq = e :: rest) (he : e.stage ≠ .waiting) (hw : ∀ x ∈ rest, x.stage = .waiting) :
    c.dropActive = { c with txq := rest }.settleLock := by
  simp [Cbi.dropActive, Cbi.waitingEntries, hq, he, filter_of_allWait hw]

/-- The frame contending or in flight at the head, changed. -/
theorem modActive_of_head (hq : c.txq = e :: rest) (he : e.stage ≠ .waiting) (hw : ∀ x ∈ rest, x.stage = .waiting)
    (f : TxEntry → TxEntry) : c.modActive f = { c with txq := f e :: rest } := by
  simp [Cbi.modActive, hq, he, map_of_allWait hw]

/-- With every frame waiting there is none to release. -/
theorem releaseEntry_of_allWait (h : ∀ x ∈ d.cbi.txq, x.stage = .waiting) (p : TxEntry → Bool) : d.releaseEntry fc p = d := by
  simp [Desk.releaseEntry, active_of_allWait h]

/-- The head that is no longer sent and stays waits again. -/
theorem releaseEntry_stays (hq : d.cbi.txq = e :: rest) (he : e.stage ≠ .waiting) (hw : ∀ x ∈ rest, x.stage = .waiting)
    {p : TxEntry → Bool} (hp : p e = false) :
    d.releaseEntry fc p = { d with cbi := { d.cbi with txq := { e with stage := .waiting } :: rest } } := by
  simp [Desk.releaseEntry, active_of_head hq he, hp, Desk.withCbi, modActive_of_head hq he hw]

/-- A frame that no FENCE marks leaves the head of the queue. -/
theorem leaveQueue_of_head (hq : d.cbi.txq = e :: rest) (he : e.stage ≠ .waiting) (hw : ∀ x ∈ rest, x.stage = .waiting)
    (hm : e.marked = false) : d.leaveQueue fc e = { d with cbi := { d.cbi with txq := rest }.settleLock } := by
  simp [Desk.leaveQueue, Desk.withCbi, dropActive_of_head hq he hw, Desk.itemLeft, hm]

/-- The last end cell of a frame of the queue that is already over, with every frame waiting. -/
theorem endOwnFrame_of_allWait (hs : d.cbi.line = .sending) (h : ∀ x ∈ d.cbi.txq, x.stage = .waiting) :
    d.endOwnFrame fc = { d with cbi :=
      if d.cbi.queueFlies then d.cbi.leaveFrame.settleLock else d.cbi.leaveFrame } := by
  unfold Desk.endOwnFrame
  rw [if_pos hs]
  dsimp only
  have : (d.withCbi Cbi.leaveFrame).landEntry fc = d.withCbi Cbi.leaveFrame :=
    releaseEntry_of_allWait (d := d.withCbi Cbi.leaveFrame) h _
  rw [this]
  split <;> rfl

end Sys2Proof.Machine
end

