-- ==== Sys2Proof/Laws/State.lean ====
section
/-! SUPPORT. What each named update of the state leaves and what it sets, one lemma a field; true by `rfl`. -/

namespace Sys2Proof.Machine

@[simp] theorem onTime_time (f : Timebase → Timebase) (s : State) : (s.onTime f).time = f s.time := rfl
@[simp] theorem onTime_desk (f : Timebase → Timebase) (s : State) : (s.onTime f).desk = s.desk := rfl
@[simp] theorem onTime_straps (f : Timebase → Timebase) (s : State) : (s.onTime f).straps = s.straps := rfl
@[simp] theorem onTime_pending (f : Timebase → Timebase) (s : State) : (s.onTime f).pending = s.pending := rfl
@[simp] theorem onTime_inputs (f : Timebase → Timebase) (s : State) : (s.onTime f).inputs = s.inputs := rfl
@[simp] theorem onTime_held (f : Timebase → Timebase) (s : State) : (s.onTime f).resetHeld = s.resetHeld := rfl
@[simp] theorem onTime_tieIx (f : Timebase → Timebase) (s : State) : (s.onTime f).tieIx = s.tieIx := rfl
@[simp] theorem onTime_sys (f : Timebase → Timebase) (s : State) : (s.onTime f).sys = s.sys := rfl

@[simp] theorem onDesk_time (f : Desk → Desk) (s : State) : (s.onDesk f).time = s.time := rfl
@[simp] theorem onDesk_desk (f : Desk → Desk) (s : State) : (s.onDesk f).desk = f s.desk := rfl
@[simp] theorem onDesk_straps (f : Desk → Desk) (s : State) : (s.onDesk f).straps = s.straps := rfl
@[simp] theorem onDesk_pending (f : Desk → Desk) (s : State) : (s.onDesk f).pending = s.pending := rfl
@[simp] theorem onDesk_inputs (f : Desk → Desk) (s : State) : (s.onDesk f).inputs = s.inputs := rfl
@[simp] theorem onDesk_held (f : Desk → Desk) (s : State) : (s.onDesk f).resetHeld = s.resetHeld := rfl
@[simp] theorem onDesk_tieIx (f : Desk → Desk) (s : State) : (s.onDesk f).tieIx = s.tieIx := rfl
@[simp] theorem onDesk_sys (f : Desk → Desk) (s : State) : (s.onDesk f).sys = s.sys := rfl
@[simp] theorem onDesk_fc (f : Desk → Desk) (s : State) : (s.onDesk f).fc = s.fc := rfl

@[simp] theorem onHp_time (f : Hp → Hp) (s : State) : (s.onHp f).time = s.time := rfl
@[simp] theorem onHp_straps (f : Hp → Hp) (s : State) : (s.onHp f).straps = s.straps := rfl
@[simp] theorem onHp_hp (f : Hp → Hp) (s : State) : (s.onHp f).desk.hp = f s.desk.hp := rfl
@[simp] theorem onHp_cbi (f : Hp → Hp) (s : State) : (s.onHp f).desk.cbi = s.desk.cbi := rfl
@[simp] theorem onHp_pt (f : Hp → Hp) (s : State) : (s.onHp f).desk.pt = s.desk.pt := rfl
@[simp] theorem onHp_ce (f : Hp → Hp) (s : State) : (s.onHp f).desk.ce = s.desk.ce := rfl
@[simp] theorem onHp_sb (f : Hp → Hp) (s : State) : (s.onHp f).desk.sb = s.desk.sb := rfl
@[simp] theorem onHp_ky (f : Hp → Hp) (s : State) : (s.onHp f).desk.ky = s.desk.ky := rfl

@[simp] theorem onWire_time (f : Wire → Wire) (s : State) : (s.onWire f).time = s.time := rfl
@[simp] theorem onWire_straps (f : Wire → Wire) (s : State) : (s.onWire f).straps = s.straps := rfl

@[simp] theorem release_drive (w : Wire) : w.release.drive = 0 := rfl
@[simp] theorem release_bits (w : Wire) : w.release.bits = w.bits := rfl
@[simp] theorem release_tail (w : Wire) : w.release.tail = w.tail := rfl

@[simp] theorem stopDriving_line (c : Cbi) : c.stopDriving.line = .receiving := rfl
@[simp] theorem stopDriving_txq (c : Cbi) : c.stopDriving.txq = c.txq := rfl
@[simp] theorem stopDriving_wire (c : Cbi) : c.stopDriving.wire = c.wire.release := rfl

@[simp] theorem leaveFrame_line (c : Cbi) : c.leaveFrame.line = .wait := rfl
@[simp] theorem leaveFrame_txq (c : Cbi) : c.leaveFrame.txq = c.txq := rfl
@[simp] theorem leaveFrame_wire (c : Cbi) : c.leaveFrame.wire = c.wire.release := rfl

@[simp] theorem withCbi_cbi (f : Cbi → Cbi) (d : Desk) : (d.withCbi f).cbi = f d.cbi := rfl
@[simp] theorem withCbi_pt (f : Cbi → Cbi) (d : Desk) : (d.withCbi f).pt = d.pt := rfl
@[simp] theorem withCbi_ce (f : Cbi → Cbi) (d : Desk) : (d.withCbi f).ce = d.ce := rfl
@[simp] theorem withCbi_sb (f : Cbi → Cbi) (d : Desk) : (d.withCbi f).sb = d.sb := rfl
@[simp] theorem withCbi_ky (f : Cbi → Cbi) (d : Desk) : (d.withCbi f).ky = d.ky := rfl
@[simp] theorem withCbi_hp (f : Cbi → Cbi) (d : Desk) : (d.withCbi f).hp = d.hp := rfl

@[simp] theorem withPt_cbi (f : Pt → Pt) (d : Desk) : (d.withPt f).cbi = d.cbi := rfl
@[simp] theorem withPt_pt (f : Pt → Pt) (d : Desk) : (d.withPt f).pt = f d.pt := rfl
@[simp] theorem withPt_ce (f : Pt → Pt) (d : Desk) : (d.withPt f).ce = d.ce := rfl
@[simp] theorem withPt_sb (f : Pt → Pt) (d : Desk) : (d.withPt f).sb = d.sb := rfl
@[simp] theorem withPt_ky (f : Pt → Pt) (d : Desk) : (d.withPt f).ky = d.ky := rfl
@[simp] theorem withPt_hp (f : Pt → Pt) (d : Desk) : (d.withPt f).hp = d.hp := rfl

@[simp] theorem post_cbi (fc : FieldCount) (r : Report) (d : Desk) : (d.post fc r).cbi = d.cbi := rfl
@[simp] theorem post_pt (fc : FieldCount) (r : Report) (d : Desk) : (d.post fc r).pt = d.pt := rfl
@[simp] theorem post_ce (fc : FieldCount) (r : Report) (d : Desk) : (d.post fc r).ce = d.ce := rfl
@[simp] theorem post_sb (fc : FieldCount) (r : Report) (d : Desk) : (d.post fc r).sb = d.sb := rfl
@[simp] theorem post_ky (fc : FieldCount) (r : Report) (d : Desk) : (d.post fc r).ky = d.ky := rfl
@[simp] theorem post_reports (fc : FieldCount) (r : Report) (d : Desk) :
    (d.post fc r).hp.reports = postReport fc r d.hp.reports := rfl
@[simp] theorem post_configured (fc : FieldCount) (r : Report) (d : Desk) :
    (d.post fc r).hp.configured = d.hp.configured := rfl
@[simp] theorem post_fence (fc : FieldCount) (r : Report) (d : Desk) : (d.post fc r).hp.fence = d.hp.fence := rfl

@[simp] theorem modSlot_cbi (i : Slot) (f : CueSlot → CueSlot) (d : Desk) : (d.modSlot i f).cbi = d.cbi := rfl
@[simp] theorem modSlot_pt (i : Slot) (f : CueSlot → CueSlot) (d : Desk) : (d.modSlot i f).pt = d.pt := rfl
@[simp] theorem modSlot_sb (i : Slot) (f : CueSlot → CueSlot) (d : Desk) : (d.modSlot i f).sb = d.sb := rfl
@[simp] theorem modSlot_ky (i : Slot) (f : CueSlot → CueSlot) (d : Desk) : (d.modSlot i f).ky = d.ky := rfl
@[simp] theorem modSlot_hp (i : Slot) (f : CueSlot → CueSlot) (d : Desk) : (d.modSlot i f).hp = d.hp := rfl
@[simp] theorem modSlot_chains (i : Slot) (f : CueSlot → CueSlot) (d : Desk) :
    (d.modSlot i f).ce.chains = d.ce.chains := rfl

@[simp] theorem modChain_cbi (c : ChainNo) (f : Chain → Chain) (d : Desk) : (d.modChain c f).cbi = d.cbi := rfl
@[simp] theorem modChain_pt (c : ChainNo) (f : Chain → Chain) (d : Desk) : (d.modChain c f).pt = d.pt := rfl
@[simp] theorem modChain_sb (c : ChainNo) (f : Chain → Chain) (d : Desk) : (d.modChain c f).sb = d.sb := rfl
@[simp] theorem modChain_ky (c : ChainNo) (f : Chain → Chain) (d : Desk) : (d.modChain c f).ky = d.ky := rfl
@[simp] theorem modChain_hp (c : ChainNo) (f : Chain → Chain) (d : Desk) : (d.modChain c f).hp = d.hp := rfl
@[simp] theorem modChain_slots (c : ChainNo) (f : Chain → Chain) (d : Desk) :
    (d.modChain c f).ce.slots = d.ce.slots := rfl

@[simp] theorem replan_plan (n : Nat) (p : Plan) (x : Tdu) : (x.replan n p).plan = p := rfl
@[simp] theorem replan_queue (n : Nat) (p : Plan) (x : Tdu) : (x.replan n p).queue = x.queue := rfl
@[simp] theorem replan_owed (n : Nat) (p : Plan) (x : Tdu) : (x.replan n p).owed = x.owed := rfl
@[simp] theorem replan_early (n : Nat) (p : Plan) (x : Tdu) : (x.replan n p).early = x.early := rfl
@[simp] theorem replan_applyNext (n : Nat) (p : Plan) (x : Tdu) : (x.replan n p).applyNext = x.applyNext := rfl
@[simp] theorem replan_D (n : Nat) (p : Plan) (x : Tdu) : (x.replan n p).D = x.D := rfl
@[simp] theorem replan_hoff (n : Nat) (p : Plan) (x : Tdu) : (x.replan n p).hoff = x.hoff := rfl
@[simp] theorem replan_ppl (n : Nat) (p : Plan) (x : Tdu) : (x.replan n p).ppl = x.ppl := rfl
@[simp] theorem replan_newVals (n : Nat) (p : Plan) (x : Tdu) : (x.replan n p).newVals = x.newVals := rfl
@[simp] theorem replan_pendCfg (n : Nat) (p : Plan) (x : Tdu) : (x.replan n p).pendCfg = x.pendCfg := rfl
@[simp] theorem replan_openLine (n : Nat) (p : Plan) (x : Tdu) : (x.replan n p).openLine = x.openLine := rfl
@[simp] theorem replan_holdCount (n : Nat) (p : Plan) (x : Tdu) : (x.replan n p).holdCount = x.holdCount := rfl

@[simp] theorem giveEdge_pixel (o : OpenLine) : o.giveEdge.pixel = o.pixel + 1 := rfl
@[simp] theorem giveEdge_edge (o : OpenLine) : o.giveEdge.edge = o.edgeTick := rfl
@[simp] theorem giveEdge_ref (o : OpenLine) : o.giveEdge.ref = o.ref := rfl
@[simp] theorem giveEdge_start (o : OpenLine) : o.giveEdge.start = o.start := rfl
@[simp] theorem giveEdge_ppl (o : OpenLine) : o.giveEdge.ppl = o.ppl := rfl
@[simp] theorem giveEdge_len (o : OpenLine) : o.giveEdge.len = o.len := rfl
@[simp] theorem giveEdge_prov (o : OpenLine) : o.giveEdge.prov = o.prov := rfl
@[simp] theorem giveEdge_baseIx (o : OpenLine) : o.giveEdge.baseIx = o.baseIx := rfl
@[simp] theorem giveEdge_baseNum (o : OpenLine) : o.giveEdge.baseNum = o.baseNum := rfl

/-- A slot just set reads as set. -/
@[simp] theorem slot_modSlot_self (i : Slot) (f : CueSlot → CueSlot) (d : Desk) :
    (d.modSlot i f).slot i = f (d.slot i) := by
  simp [Desk.slot, Desk.modSlot, Ce.slot, Ce.setSlot]

/-- Another slot reads as before. -/
theorem slot_modSlot_ne {i j : Slot} (h : i ≠ j) (f : CueSlot → CueSlot) (d : Desk) :
    (d.modSlot i f).slot j = d.slot j := by
  have : i.val ≠ j.val := fun e => h (Fin.ext e)
  simp [Desk.slot, Desk.modSlot, Ce.slot, Ce.setSlot, Vector.getElem_set_ne, this]

/-- A chain just set reads as set. -/
@[simp] theorem chain_modChain_self (c : ChainNo) (f : Chain → Chain) (d : Desk) :
    (d.modChain c f).chain c = f (d.chain c) := by
  simp [Desk.chain, Desk.modChain, Ce.chain, Ce.setChain]

/-- A slot update leaves every chain. -/
@[simp] theorem chain_modSlot (i : Slot) (f : CueSlot → CueSlot) (c : ChainNo) (d : Desk) :
    (d.modSlot i f).chain c = d.chain c := rfl

/-- A chain update leaves every slot. -/
@[simp] theorem slot_modChain (c : ChainNo) (f : Chain → Chain) (i : Slot) (d : Desk) :
    (d.modChain c f).slot i = d.slot i := rfl

/-- A peer record just set reads as set. -/
@[simp] theorem peer_modPeer_self (n : Station) (f : Peer → Peer) (pt : Pt) :
    (pt.modPeer n f).peer n = f (pt.peer n) := by
  simp [Pt.peer, Pt.modPeer, Pt.setPeer]

/-- Another peer record reads as before. -/
theorem peer_modPeer_ne {n m : Station} (h : n ≠ m) (f : Peer → Peer) (pt : Pt) :
    (pt.modPeer n f).peer m = pt.peer m := by
  have : n.val ≠ m.val := fun e => h (Fin.ext e)
  simp [Pt.peer, Pt.modPeer, Pt.setPeer, Vector.getElem_set_ne, this]

@[simp] theorem modPeer_store (n : Station) (f : Peer → Peer) (pt : Pt) : (pt.modPeer n f).store = pt.store := rfl

/-- The slicer is enabled in level tracking with the blank level at least 12 above the tip level (R6). -/
theorem slicerOn_iff (x : Sfe) : x.slicerOn = true ↔ x.mode = .levelTracking ∧ x.tip + 12 ≤ x.blank := by
  have : 12 ≤ x.amplitude ↔ x.tip + 12 ≤ x.blank := by unfold Sfe.amplitude; omega
  simp [Sfe.slicerOn, this]

/-- A command while RESET is released is its meaning. -/
theorem running_released {s : State} (h : s.resetHeld = false) (f : State → State) : s.running f = f s := by
  simp [State.running, h]

/-- A command while RESET is held does nothing (log 27). -/
theorem running_held {s : State} (h : s.resetHeld = true) (f : State → State) : s.running f = s := by
  simp [State.running, h]

end Sys2Proof.Machine
end

