-- ==== Sys2Proof/Laws/Cue.lean ====
section
/-! SUPPORT. What the operations of the Cue Engine leave of a slot that is not theirs: a slot that is not LOADED is armed by
nothing, one that is not ARMED is started by nothing, and the end of another cue changes at most its predecessor's mark
(R142 to R146). -/

namespace Sys2Proof.Machine

variable {d : Desk} {fc : FieldCount} {c : ChainNo} {i j : Slot}

/-- Another slot reads as before. -/
theorem slot_setSlot_ne (h : j ≠ i) (x : CueSlot) (ce : Ce) : (ce.setSlot j x).slot i = ce.slot i := by
  have : j.val ≠ i.val := fun e => h (Fin.ext e)
  simp [Ce.slot, Ce.setSlot, Vector.getElem_set_ne, this]

/-- A slot just set reads as set. -/
@[simp] theorem slot_setSlot_self (x : CueSlot) (ce : Ce) : (ce.setSlot i x).slot i = x := by
  simp [Ce.slot, Ce.setSlot]

@[simp] theorem slot_withCbi (f : Cbi → Cbi) : (d.withCbi f).slot i = d.slot i := rfl
@[simp] theorem slot_post (r : Report) : (d.post fc r).slot i = d.slot i := rfl
@[simp] theorem slot_cueReport (ev : CueEvent) : (d.cueReport fc j ev).slot i = d.slot i := rfl

/-- A fold of steps each of which leaves the slot leaves it. -/
theorem slot_fold {α : Type} (f : Desk → α → Desk) (l : List α) (P : CueSlot → Prop)
    (hf : ∀ d, ∀ a ∈ l, P (d.slot i) → (f d a).slot i = d.slot i) (h : P (d.slot i)) :
    (l.foldl f d).slot i = d.slot i := by
  induction l generalizing d with
  | nil => rfl
  | cons a l ih =>
    have e := hf d a (List.mem_cons_self ..) h
    rw [List.foldl_cons, ih (fun d b hb => hf d b (List.mem_cons_of_mem _ hb)) (e ▸ h), e]

/-! ## Starting and arming -/

/-- REGION_FULL changes the mark of its own slot only. -/
theorem slot_regionFull_ne (h : j ≠ i) : (d.regionFull fc j).slot i = d.slot i := by
  unfold Desk.regionFull
  split
  · rfl
  · rw [slot_post, slot_modSlot_ne h]

/-- An offered CLAIM changes its own slot only. -/
theorem slot_offerClaim_ne (h : j ≠ i) : (d.offerClaim j).slot i = d.slot i := by
  unfold Desk.offerClaim
  split
  · exact slot_modSlot_ne h _ _
  · rfl

/-- A cue that tries to claim changes its own slot only. -/
theorem slot_tryClaim_ne (h : j ≠ i) : (d.tryClaim fc j).slot i = d.slot i := by
  unfold Desk.tryClaim
  split
  · exact slot_regionFull_ne h
  · split
    · rfl
    · exact slot_offerClaim_ne h

/-- A start leaves every slot that is not ARMED. -/
theorem slot_tryStart (h : (d.slot i).st ≠ .armed) : (d.tryStart fc j).slot i = d.slot i := by
  unfold Desk.tryStart
  dsimp only
  split
  · rename_i ha
    exact slot_tryClaim_ne (fun e => h (e ▸ ha.1))
  · rfl

/-- The test of a start condition leaves every slot that is not ARMED. -/
theorem slot_testStart (h : (d.slot i).st ≠ .armed) : (d.testStart fc j).slot i = d.slot i := by
  unfold Desk.testStart
  dsimp only
  split
  · rename_i ha
    exact slot_modSlot_ne (fun e => h (by rw [← e]; exact ha.1)) _ d
  · rfl

/-- A WITHDRAW offered leaves every slot that is not ENDING. -/
theorem slot_offerWithdraw (h : (d.slot i).st ≠ .ending) : (d.offerWithdraw j).slot i = d.slot i := by
  unfold Desk.offerWithdraw
  dsimp only
  split
  · rename_i ha
    exact slot_modSlot_ne (fun e => h (by rw [← e]; exact ha.1)) _ _
  · rfl

/-- A moment of trying again leaves every slot that is neither ENDING nor ARMED. -/
theorem slot_retry (h1 : (d.slot i).st ≠ .ending) (h2 : (d.slot i).st ≠ .armed) : (d.retry fc).slot i = d.slot i := by
  unfold Desk.retry
  have e := slot_fold (d := d) (i := i) (fun x j => x.offerWithdraw j) allSlots (fun x => x.st ≠ .ending)
    (fun _ _ _ h => slot_offerWithdraw h) h1
  have h2' : ((allSlots.foldl (fun x j => x.offerWithdraw j) d).slot i).st ≠ .armed := by
    rw [e]
    exact h2
  exact (slot_fold (fun x j => x.tryStart fc j) allSlots (fun x => x.st ≠ .armed)
    (fun _ _ _ h => slot_tryStart h) h2').trans e

/-- Arming a slot leaves every other. -/
theorem slot_arm_ne (h : j ≠ i) (p : Option Slot) (b : Bool) : (d.arm fc c j p b).slot i = d.slot i := by
  unfold Desk.arm Desk.testStart
  dsimp only
  split
  · rw [slot_modSlot_ne h, slot_modChain, slot_modSlot_ne h]
  · rw [slot_modChain, slot_modSlot_ne h]

/-- A succession leaves every slot that is not LOADED. -/
theorem slot_armSuccessor (h : (d.slot i).st ≠ .loaded) (p : Slot) (next : Option Slot) (b : Bool) :
    (d.armSuccessor fc c p next b).slot i = d.slot i := by
  unfold Desk.armSuccessor
  split
  · rfl
  · split
    · rename_i hl
      exact slot_arm_ne (fun e => h (by rw [← e]; exact hl)) _ _
    · rfl
    · rfl

/-- The look at a chain leaves every slot. -/
@[simp] theorem slot_checkChain : (d.checkChain fc c).slot i = d.slot i := by
  unfold Desk.checkChain
  split
  · rfl
  · split <;> rfl

/-- The look at the chain of a slot leaves every slot. -/
@[simp] theorem slot_checkChainOf (o : Option ChainNo) : (d.checkChainOf fc o).slot i = d.slot i := by
  cases o with
  | none => rfl
  | some c => exact slot_checkChain

/-- A chain that waits on a slot leaves every slot that is not LOADED. -/
theorem slot_wakeChain (h : (d.slot i).st ≠ .loaded) : (d.wakeChain fc j c).slot i = d.slot i := by
  unfold Desk.wakeChain
  split
  · split
    · split
      · rename_i hl
        exact slot_arm_ne (fun e => h (by rw [← e]; exact hl)) _ _
      · rw [slot_checkChain, slot_modChain]
      · rfl
    · rfl
  · rfl

/-- The chains that wait on a slot leave every slot that is not LOADED. -/
theorem slot_wake (h : (d.slot i).st ≠ .loaded) : (d.wake fc j).slot i = d.slot i :=
  slot_fold (fun x c => x.wakeChain fc j c) allChains (fun x => x.st ≠ .loaded) (fun _ _ _ h => slot_wakeChain h) h

/-! ## Ending -/

/-- A slot that is freed leaves every other. -/
theorem slot_freeSlot_ne (h : j ≠ i) : (d.freeSlot j).slot i = d.slot i := slot_setSlot_ne h _ d.ce

/-- The end of another cue leaves every slot that is not LOADED. -/
theorem slot_ended_ne (h : j ≠ i) (hl : (d.slot i).st ≠ .loaded) : (d.ended fc j).slot i = d.slot i := by
  have told : ∀ x : Desk, x = (if (d.slot j).cue.notifyEnd then d.cueReport fc j .ended else d) → x.slot i = d.slot i := by
    intro x hx
    subst hx
    split <;> rfl
  have gone : ∀ x : Desk, x.slot i = d.slot i → ((if (d.slot j).cue.autoFree then x.freeSlot j else x.unloadRun j).slot i =
      d.slot i) := by
    intro x hx
    split
    · rw [slot_freeSlot_ne h, hx]
    · rw [Desk.unloadRun, slot_modSlot_ne h, hx]
  have e := gone _ (told _ rfl)
  unfold Desk.ended
  dsimp only
  rw [slot_wake (e.symm ▸ hl), e]

/-- The cue that has ended is told to the slots of its chain: at most the predecessor's mark changes. -/
theorem slot_endForChain : (d.endForChain j).slot i = match (d.slot j).chain with
    | some c => markPredEnded c j (d.slot i)
    | none => d.slot i := by
  unfold Desk.endForChain
  cases (d.slot j).chain with
  | none => rfl
  | some c =>
    rw [slot_modChain]
    simp [Desk.slot, Ce.slot]

/-- The mark of the predecessor and nothing else. -/
theorem slot_endForChain_marked : ∃ b, (d.endForChain j).slot i = { d.slot i with predEnded := b } := by
  rw [slot_endForChain]
  split
  · unfold markPredEnded
    split
    · exact ⟨true, rfl⟩
    · exact ⟨(d.slot i).predEnded, rfl⟩
  · exact ⟨(d.slot i).predEnded, rfl⟩

/-- The end of another SCHEDULED or ON_AIR cue changes at most the predecessor's mark of a slot neither LOADED nor
ENDING. -/
theorem slot_beginEnd_ne (h : j ≠ i) (hl : (d.slot i).st ≠ .loaded) (he : (d.slot i).st ≠ .ending) :
    (d.beginEnd fc j).slot i = (d.endForChain j).slot i := by
  obtain ⟨b, hb⟩ := slot_endForChain_marked (d := d) (i := i) (j := j)
  unfold Desk.beginEnd
  dsimp only
  split
  · have e := slot_modSlot_ne h (fun x => { x with st := .ending, wdQueued := false }) (d.endForChain j)
    rw [slot_offerWithdraw (by rw [e, hb]; exact he), e]
  · exact slot_ended_ne h (by rw [hb]; exact hl)

/-- So does its part in step 3. -/
theorem slot_stepEnd_ne {e : EndedCue} (h : e.slot ≠ i) (hl : (d.slot i).st ≠ .loaded) (he : (d.slot i).st ≠ .ending) :
    ∃ b, (d.stepEnd fc e).slot i = { d.slot i with predEnded := b } := by
  unfold Desk.stepEnd
  rw [slot_checkChainOf, slot_beginEnd_ne h hl he]
  exact slot_endForChain_marked

/-- An announced cue that ends in step 3 is ENDING with its claim. -/
theorem slot_stepEnd_self {e : EndedCue} (ha : (d.slot e.slot).cue.announce = true) :
    ((d.stepEnd fc e).slot e.slot).st = .ending ∧ ((d.stepEnd fc e).slot e.slot).claim = (d.slot e.slot).claim := by
  obtain ⟨b, hb⟩ := slot_endForChain_marked (d := d) (i := e.slot) (j := e.slot)
  unfold Desk.stepEnd
  rw [slot_checkChainOf]
  unfold Desk.beginEnd
  simp only [ha, if_true]
  unfold Desk.offerWithdraw
  dsimp only
  split
  · simp [hb]
  · simp [hb]

/-- Step 4 leaves every slot that is not LOADED but for the mark of the succession. -/
theorem slot_stepSucceed (e : EndedCue) (hl : (d.slot i).st ≠ .loaded) :
    ∃ b, (d.stepSucceed fc e).slot i = { d.slot i with succDone := b } := by
  have same : ∃ b, d.slot i = { d.slot i with succDone := b } := ⟨_, rfl⟩
  unfold Desk.stepSucceed
  split
  · exact same
  · split
    · exact same
    · have marked : ∀ x : Desk, x = (if (d.slot e.slot).st = .ending
          then d.modSlot e.slot (fun x => { x with succDone := true }) else d) →
          ∃ b, x.slot i = { d.slot i with succDone := b } := by
        intro x hx
        subst hx
        split
        · by_cases he : e.slot = i
          · rw [← he, slot_modSlot_self]
            exact ⟨true, rfl⟩
          · exact ⟨_, slot_modSlot_ne he _ d⟩
        · exact same
      dsimp only
      obtain ⟨b, hb⟩ := marked _ rfl
      have hl' : ((if (d.slot e.slot).st = .ending
          then d.modSlot e.slot (fun x => { x with succDone := true }) else d).slot i).st ≠ .loaded := by
        rw [hb]
        exact hl
      split
      · rw [slot_checkChain, slot_armSuccessor hl']
        exact ⟨b, hb⟩
      · split
        · rw [slot_checkChain, slot_armSuccessor hl']
          exact ⟨b, hb⟩
        · exact ⟨b, hb⟩
      · exact same
      · exact same

/-! ## The trigger and the count -/

/-- The trigger's step changes at most that a start condition holds. -/
theorem slot_stepTrigger (cs : List ChainNo) : ∃ b, (d.stepTrigger cs).slot i = { d.slot i with held := b } := by
  have h : ∀ d : Desk, ∃ b, (cs.foldl Desk.triggerStart d).slot i = { d.slot i with held := b } := by
    induction cs with
    | nil => exact fun d => ⟨_, rfl⟩
    | cons c cs ih =>
      intro d
      obtain ⟨b, hb⟩ := ih (d.triggerStart c)
      rw [List.foldl_cons, hb]
      refine ⟨b, ?_⟩
      unfold Desk.triggerStart
      split
      · split
        · rename_i j _ _
          by_cases hj : j = i
          · rw [hj, slot_modSlot_self]
          · rw [slot_modSlot_ne hj]
        · rfl
      · rfl
  exact h d

/-- A count down is that of a cue on air in a RUNNING chain. -/
theorem slot_countDown : (d.countDown j).slot i =
    if j = i ∧ (d.slot i).st = .onAir ∧ d.runsSlot i = true ∧ (d.slot i).cue.duration ≠ 0
    then { d.slot i with remaining := (d.slot i).remaining - 1 } else d.slot i := by
  by_cases hj : j = i
  · subst hj
    by_cases h : (d.slot j).st = .onAir ∧ d.runsSlot j = true ∧ (d.slot j).cue.duration ≠ 0 <;> simp [Desk.countDown, h]
  · rw [if_neg (fun e => hj e.1)]
    unfold Desk.countDown
    dsimp only
    split
    · rw [slot_modSlot_ne hj]
    · rfl

/-! ## Going on air and pre-roll -/

/-- Going on air changes its own slot only. -/
theorem slot_goOnAir_ne (h : j ≠ i) : (d.goOnAir fc j).slot i = d.slot i := by
  have e := slot_modSlot_ne h (fun z => { z with st := .onAir, remaining := z.cue.duration }) d
  unfold Desk.goOnAir
  dsimp only
  split <;> split <;> simp [e]

/-- Step 6 of another cue leaves the slot. -/
theorem slot_stepOnAir_ne (h : j ≠ i) (ripe : List Slot) : (d.stepOnAir fc ripe j).slot i = d.slot i := by
  unfold Desk.stepOnAir
  split
  · split
    · exact slot_goOnAir_ne h
    · split
      · exact slot_regionFull_ne h
      · split
        · rfl
        · exact slot_goOnAir_ne h
  · rfl

/-- Step 6 leaves a cue that is neither SCHEDULED nor ARMED. -/
theorem slot_stepOnAir (h1 : (d.slot i).st ≠ .scheduled) (h2 : (d.slot i).st ≠ .armed) (ripe : List Slot) :
    (d.stepOnAir fc ripe j).slot i = d.slot i := by
  by_cases h : j = i
  · subst h
    have : d.mayGoOnAir fc ripe j = false := by simp [Desk.mayGoOnAir, h1, h2]
    simp [Desk.stepOnAir, this]
  · exact slot_stepOnAir_ne h ripe

/-- Pre-roll leaves every slot that is neither LOADED nor ARMED but for the mark of the succession. -/
theorem slot_stepPreroll (hl : (d.slot i).st ≠ .loaded) (ha : (d.slot i).st ≠ .armed) :
    ∃ b, (d.stepPreroll fc j).slot i = { d.slot i with succDone := b } := by
  have same : ∃ b, d.slot i = { d.slot i with succDone := b } := ⟨_, rfl⟩
  unfold Desk.stepPreroll
  dsimp only
  split
  · split
    · rename_i c hc
      have went : ∃ b, (d.succeed fc j false).slot i = { d.slot i with succDone := b } := by
        unfold Desk.succeed
        dsimp only
        split
        · split
          · exact same
          · by_cases h : j = i
            · subst h
              rw [slot_armSuccessor (by simpa using hl), slot_modSlot_self]
              exact ⟨true, rfl⟩
            · have e := slot_modSlot_ne h (fun y => { y with succDone := true }) d
              rw [slot_armSuccessor (by rw [e]; exact hl), e]
              exact same
        · exact same
      obtain ⟨b, hb⟩ := went
      unfold Desk.tryArmed
      split
      · rw [slot_tryStart (by rw [hb]; exact ha)]
        exact ⟨b, hb⟩
      · exact ⟨b, hb⟩
    · exact same
  · exact same

end Sys2Proof.Machine
end

