-- ==== Sys2Proof/Laws/Keyer.lean ====
section
/-! SUPPORT. When the Keyer permits a line, and what its slip-field flag depends on (R90, R167). -/

namespace Sys2Proof.Machine

/-- A line is permitted exactly under the five conditions of R167's table. -/
theorem linePermitted_iff (st : RefSt) (slipNow : Bool) (joinQuiet : Nat) (l : LineList) :
    linePermitted st slipNow joinQuiet l = true ↔
      st.mayKey = true ∧ (l.slip = false ∧ slipNow = false) ∧ joinQuiet = 0 ∧ l.D.natAbs ≤ 2097152 ∧
        l.keyable = true := by
  simp [linePermitted, tooFar, and_assoc]

/-- A line begins outside a slip field exactly if the flag is clear and no FIRST boundary given at its start sets it. -/
theorem Tdu.slipAtStart_eq_false_iff (sys : System) (x : Tdu) :
    x.slipAtStart sys = false ↔
      x.slipField = false ∧ (x.toGive = some .first → (x.give sys).slipField = false) := by
  simp [Tdu.slipAtStart]

/-- The flag in force as a line begins suppresses it (R90, R167). -/
theorem linePermitted_slipNow (st : RefSt) (joinQuiet : Nat) (l : LineList) :
    linePermitted st true joinQuiet l = false := by
  simp [linePermitted]

end Sys2Proof.Machine
end

