-- ==== Sys2Proof/Laws/Ops.lean ====
section
/-! SUPPORT. What the shared arithmetic can do (R1, R3). -/

namespace Sys2Proof.Machine

/-- Clamping lands in the range. -/
theorem clampInt_ge {lo hi : Int} (x : Int) : lo ≤ clampInt lo hi x := by unfold clampInt; omega

/-- Clamping lands in the range. -/
theorem clampInt_le {lo hi : Int} (h : lo ≤ hi) (x : Int) : clampInt lo hi x ≤ hi := by unfold clampInt; omega

/-- A value in range is left. -/
theorem clampInt_of_mem {lo hi x : Int} (h1 : lo ≤ x) (h2 : x ≤ hi) : clampInt lo hi x = x := by
  unfold clampInt; omega

/-- A saturating count never passes its limit. -/
theorem satInc_le (limit n : Nat) : satInc limit n ≤ limit := by unfold satInc; omega

/-- R rounds to nearest, ties upward (R3): within half below, and less than half above. -/
theorem roundR_bounds (num : Int) {den : Nat} (h : 0 < den) :
    2 * num - den < 2 * den * roundR num den ∧ 2 * den * roundR num den ≤ 2 * num + den := by
  have hd : (0 : Int) < 2 * den := by omega
  have e := Int.mul_ediv_add_emod (2 * num + den) (2 * den)
  have h1 := Int.emod_nonneg (2 * num + den) (ne_of_gt hd)
  have h2 := Int.emod_lt_of_pos (2 * num + den) hd
  unfold roundR
  omega

/-- The ceiling is the least integer at or above the quotient. -/
theorem ceilDiv_bounds (num : Int) {den : Int} (h : 0 < den) :
    num ≤ den * ceilDiv num den ∧ den * ceilDiv num den < num + den := by
  have e := Int.mul_ediv_add_emod (-num) den
  have h1 := Int.emod_nonneg (-num) (ne_of_gt h)
  have h2 := Int.emod_lt_of_pos (-num) h
  unfold ceilDiv
  rw [Int.mul_neg]
  omega

end Sys2Proof.Machine
end

