-- ==== Sys2Proof/Laws/Reports.lean ====
section
/-! SUPPORT. The report queue keeps its form whatever is posted (R182). -/

namespace Sys2Proof.Machine

/-- A merged report keeps the key of the report posted. -/
theorem key_mergeInto (q r : Report) : (q.mergeInto r).key = r.key := by
  cases q <;> cases r <;> rfl

/-- Coalescing keeps every key. -/
theorem coalesce_keys (r : Report) (qs : List QReport) :
    (coalesce r qs).map (fun q => q.report.key) = qs.map (fun q => q.report.key) := by
  simp only [coalesce, List.map_map]
  apply List.map_congr_left
  intro q _
  simp only [Function.comp]
  split
  · rename_i h
    have h' : q.report.key = r.key := by simpa using h
    simp [QReport.again1, key_mergeInto, h']
  · rfl

/-- Whether a record is the OVERFLOW record is read from its key. -/
theorem isOverflow_key (q : QReport) : isOverflow q = (q.report.key.1 == 0x94) := rfl

/-- The ordinary records are counted from the keys. -/
theorem plain_eq (qs : List QReport) :
    plainCount qs = ((qs.map (fun q => q.report.key)).filter (fun k => k.1 != 0x94)).length := by
  induction qs with
  | nil => rfl
  | cons q qs ih =>
    simp only [plainCount, List.map_cons, List.filter_cons, isOverflow_key] at *
    split <;> split <;> simp_all

/-- Discarding for want of room keeps the keys, but for a new OVERFLOW. -/
theorem overflowed_keys (r : Report) (fc : FieldCount) (qs : List QReport) :
    (overflowed r fc qs).map (fun q => q.report.key) =
      if qs.any isOverflow then qs.map (fun q => q.report.key) else qs.map (fun q => q.report.key) ++ [(0x94, 0)] := by
  unfold overflowed
  split
  · simp only [List.map_map]
    apply List.map_congr_left
    intro q _
    simp only [Function.comp]
    split
    · rename_i h
      have : q.report.kind = 0x94 := by simpa [isOverflow] using h
      revert this
      cases q with
      | mk rep again => cases rep <;> simp [Report.key, Report.kind, Report.subject]
    · rfl
  · simp [Report.key, Report.kind, Report.subject]

/-- No record of a key is in the queue unless the queue holds it. -/
theorem queued_false {r : Report} {qs : List QReport} (h : queued r qs = false) :
    r.key ∉ qs.map (fun q => q.report.key) := by
  simp only [queued, List.any_eq_false, beq_iff_eq] at h
  simpa using h

/-- The length of the queue is the ordinary records and the OVERFLOW records. -/
theorem length_of_no_overflow {qs : List QReport} (h : qs.any isOverflow = false) : plainCount qs = qs.length := by
  rw [plainCount, List.filter_eq_self.mpr]
  intro q hq
  simpa using (List.any_eq_false.mp h) q hq

/-- The keys alone decide the form of the queue. -/
theorem reportsOk_of_keys {qs qs' : List QReport}
    (h : qs'.map (fun q => q.report.key) = qs.map (fun q => q.report.key)) (hq : reportsOk qs) : reportsOk qs' := by
  have hl : qs'.length = qs.length := by simpa using congrArg List.length h
  refine ⟨hl ▸ hq.1, ?_, h ▸ hq.2.2⟩
  rw [plain_eq, h, ← plain_eq]
  exact hq.2.1

/-- The report queue keeps its form whatever is posted (R182). -/
theorem reportsOk_post {qs : List QReport} (fc : FieldCount) (r : Report) (hq : reportsOk qs) :
    reportsOk (postReport fc r qs) := by
  unfold postReport
  split
  · exact reportsOk_of_keys (coalesce_keys r qs) hq
  · rename_i hr
    have hnew := queued_false (by simpa using hr)
    split
    · rename_i hlen
      refine ⟨by simp; omega, ?_, ?_⟩
      · have : plainCount (qs ++ [⟨r, 0⟩]) ≤ (qs ++ [(⟨r, 0⟩ : QReport)]).length := List.length_filter_le ..
        simp at this; omega
      · rw [List.map_append, List.nodup_append]
        refine ⟨hq.2.2, by simp, ?_⟩
        intro a ha b hb
        simp only [List.map_cons, List.map_nil, List.mem_singleton] at hb
        rintro rfl
        exact hnew (hb ▸ ha)
    · rename_i hlen
      cases ho : qs.any isOverflow with
      | true => exact reportsOk_of_keys (by rw [overflowed_keys, ho]; rfl) hq
      | false =>
        have hp := length_of_no_overflow ho
        have hk := overflowed_keys r fc qs
        simp only [ho, Bool.false_eq_true, if_false] at hk
        have hl : (overflowed r fc qs).length = qs.length + 1 := by simpa using congrArg List.length hk
        have h2 := hq.2.1
        refine ⟨by omega, ?_, ?_⟩
        · rw [plain_eq, hk, List.filter_append, List.length_append, ← plain_eq]
          simpa using h2
        · rw [hk, List.nodup_append]
          refine ⟨hq.2.2, by simp, ?_⟩
          intro a ha b hb
          simp only [List.mem_singleton] at hb
          rintro rfl
          obtain ⟨q, hqm, hqk⟩ := List.mem_map.mp ha
          have := (List.any_eq_false.mp ho) q hqm
          rw [isOverflow_key, hqk, hb] at this
          simp at this

end Sys2Proof.Machine
end

