-- ==== Sys2Proof/Laws/Requests.lean ====
section
/-! SUPPORT. What a request does, once for all requests (R176). -/

namespace Sys2Proof.Machine

/-- While RESET is released a command acts. -/
theorem State.running_of_released {s : State} (h : s.resetHeld = false) (f : State → State) : s.running f = f s := by
  simp [State.running, h]

/-- While RESET is held a command does nothing. -/
theorem State.running_of_held {s : State} (h : s.resetHeld = true) (f : State → State) : s.running f = s := by
  simp [State.running, h]

/-- A request that no reason refuses is handed on. -/
theorem State.request_of_passes {k : Byte} {s : State} (h : s.desk.refusalOf k = none) (f : State → State) :
    s.request k f = f s := by
  simp [State.request, h]

/-- A refused request posts REFUSED and does nothing else. -/
theorem State.request_of_refused {k : Byte} {why : Reason} {s : State} (h : s.desk.refusalOf k = some why)
    (f : State → State) : s.request k f = s.onDesk (Desk.refuse s.fc k why) := by
  simp [State.request, h]

/-- A configured station that is not muted takes every request but CONFIGURE. -/
theorem refusalOf_taken {s : State} (h : s.taken) {k : Byte} (hk : k ≠ 1) : s.desk.refusalOf k = none := by
  obtain ⟨_, hc, hm⟩ := h
  have h1 : ¬k = 1#8 := hk
  simp [Desk.refusalOf, hc, hm, h1]

/-- A taken request of a configured station acts. -/
theorem State.request_taken {s : State} (h : s.taken) {k : Byte} (hk : k ≠ 1) (f : State → State) :
    s.running (State.request k f) = f s := by
  rw [State.running_of_released h.1, State.request_of_passes (refusalOf_taken h hk)]

end Sys2Proof.Machine
end

