-- ==== Sys2Proof/Laws/Sfe.lean ====
section
/-! SUPPORT. The Sync Front End: which shared operations leave it, and what its own operations do to a pulse in progress
(R6, R12). -/

namespace Sys2Proof.Machine

variable {s : State} {x : Sfe}

/-! ## What leaves it -/

@[simp] theorem sfe_running_of {f : State → State} (h : (f s).time.sfe = s.time.sfe) :
    (s.running f).time.sfe = s.time.sfe := by
  unfold State.running; split
  · rfl
  · exact h

@[simp] theorem sfe_takeField (tk : Taking) : (s.takeField tk).time.sfe = s.time.sfe := rfl

@[simp] theorem sfe_routeLoop (sys : System) (tape : Bool) (r : PulseRecord) (t : Timebase) :
    (t.routeLoop sys tape r).sfe = t.sfe := by
  unfold Timebase.routeLoop; split <;> rfl

@[simp] theorem sfe_takeRecord (r : PulseRecord) : (s.takeRecord r).time.sfe = s.time.sfe := by
  unfold State.takeRecord
  dsimp only
  split <;> simp

@[simp] theorem sfe_convertLatch (t : Timebase) : t.convertLatch.sfe = t.sfe := by
  unfold Timebase.convertLatch; split <;> rfl

@[simp] theorem sfe_latchOnEntry (tr : Option Transition) (t : Timebase) : (t.latchOnEntry tr).sfe = t.sfe := by
  unfold Timebase.latchOnEntry
  split
  · split <;> simp
  · rfl

@[simp] theorem sfe_latchOnLeave (left : List AdjEntry) (t : Timebase) : (t.latchOnLeave left).sfe = t.sfe := by
  unfold Timebase.latchOnLeave; split <;> simp

@[simp] theorem sfe_coast (before : Ft) : (s.coast before).time.sfe = s.time.sfe := by
  unfold State.coast; split <;> simp

/-- A line boundary leaves the Sync Front End. -/
@[simp] theorem sfe_lineBoundary (time : Ts) : (s.lineBoundary time).time.sfe = s.time.sfe := by
  unfold State.lineBoundary
  split
  · simp [State.lineWork, State.buildList, State.openLine, State.handOver, State.closeLine]
  · rfl

/-- A request leaves the Sync Front End if what it hands on does. -/
theorem sfe_request (kind : Byte) {f : State → State} (h : (f s).time.sfe = s.time.sfe) :
    (s.request kind f).time.sfe = s.time.sfe := by
  unfold State.request; split
  · rfl
  · exact h

/-! ## A pulse in progress -/

/-- With no pulse in progress there is nothing to keep. -/
theorem Sfe.pulseOk_of_none (h : x.pulse = none) : x.pulseOk := by simp [Sfe.pulseOk, h]

/-- A window of a level search ends with no pulse in progress. -/
theorem Sfe.pulseOk_endWindow (h : x.pulseOk) (hm : x.mode = .levelSearch) (lo hi : Code) : (x.endWindow lo hi).pulseOk := by
  have hp : x.pulse = none := by
    cases hp : x.pulse with
    | none => rfl
    | some p => simpa [hm] using (h p hp).1
  apply Sfe.pulseOk_of_none
  unfold Sfe.endWindow
  dsimp only
  split <;> exact hp

/-- A falling crossing starts its pulse with the slicer enabled and no window open. -/
theorem Sfe.pulseOk_startPulse {before now : Code} (h : x.falls before now = true) (time : Ts) (snap : Snapshot) :
    (x.startPulse time before now snap).pulseOk := by
  intro p _
  have hs : x.slicerOn = true := by
    simp only [Sfe.falls, Bool.and_eq_true] at h
    exact h.1.1.1
  obtain ⟨hm, ha⟩ := (slicerOn_iff x).mp hs
  exact ⟨hm, ha, rfl⟩

/-- A rising crossing leaves no pulse in progress. -/
theorem Sfe.pulse_endPulse (time : Ts) (tipSum : Nat) (p : Pulse) : (x.endPulse time tipSum p).1.pulse = none := by
  unfold Sfe.endPulse; dsimp only; split <;> rfl

/-- A blank reading falls in no pulse. -/
theorem Sfe.pulseOk_blankAt (h : x.pulseOk) (time : Ts) (sum : Nat) : (x.blankAt time sum).pulseOk := by
  unfold Sfe.blankAt
  split
  · rename_i w hw
    have hp : x.pulse = none := by
      cases hp : x.pulse with
      | none => rfl
      | some p => have := (h p hp).2.2; simp [hw] at this
    split
    · exact Sfe.pulseOk_of_none hp
    · exact h
  · exact h

/-- The levels, the mode, the window and whether a pulse is in progress are all that it looks at. -/
theorem Sfe.pulseOk_congr {y : Sfe} (h : x.pulseOk) (hp : y.pulse.isSome → x.pulse.isSome) (hm : y.mode = x.mode)
    (ht : y.tip = x.tip) (hb : y.blank = x.blank) (hw : x.blankWin = none → y.blankWin = none) : y.pulseOk := by
  intro p hy
  obtain ⟨q, hq⟩ := Option.isSome_iff_exists.mp (hp (by simp [hy]))
  obtain ⟨h1, h2, h3⟩ := h q hq
  exact ⟨by rw [hm, h1], by rw [ht, hb]; exact h2, hw h3⟩

end Sys2Proof.Machine
end

