-- ==== Sys2Proof/Laws/Spans.lean ====
section
/-! SUPPORT. The pixels that the operations on intervals leave (R161, R162). -/

namespace Sys2Proof.Machine

/-- Some interval of the list holds the pixel. -/
def covered (x : Int) (is : List Ivl) : Prop := ∃ i ∈ is, i.1 ≤ x ∧ x ≤ i.2

/-- A cut interval holds the pixels of both. -/
theorem mem_cutTo (lo hi : Int) (i : Ivl) (x : Int) :
    (cutTo lo hi i).1 ≤ x ∧ x ≤ (cutTo lo hi i).2 ↔ (lo ≤ x ∧ x ≤ hi) ∧ i.1 ≤ x ∧ x ≤ i.2 := by
  simp only [cutTo]
  omega

/-- What is left of one interval holds its pixels outside the other. -/
theorem covered_without (o i : Ivl) (ho : o.1 ≤ o.2) (x : Int) :
    covered x (without o i) ↔ (i.1 ≤ x ∧ x ≤ i.2) ∧ ¬(o.1 ≤ x ∧ x ≤ o.2) := by
  unfold covered without
  split_ifs <;> simp <;> omega

/-- Subtracting an interval leaves the pixels outside it. -/
theorem covered_subtract (is : List Ivl) (o : Ivl) (x : Int) :
    covered x (subtract is o) ↔ covered x is ∧ ¬(o.1 ≤ x ∧ x ≤ o.2) := by
  unfold subtract Ivl.nonempty
  by_cases ho : o.1 ≤ o.2
  · simp only [ho, decide_true, if_true]
    constructor
    · rintro ⟨z, hz, hx⟩
      obtain ⟨i, hi, hzi⟩ := List.mem_flatMap.1 hz
      have h := (covered_without o i ho x).1 ⟨z, hzi, hx⟩
      exact ⟨⟨i, hi, h.1⟩, h.2⟩
    · rintro ⟨⟨i, hi, hx⟩, hn⟩
      obtain ⟨z, hz, hzx⟩ := (covered_without o i ho x).2 ⟨hx, hn⟩
      exact ⟨z, List.mem_flatMap.2 ⟨i, hi, hz⟩, hzx⟩
  · simp only [ho, decide_false, Bool.false_eq_true, if_false]
    constructor
    · exact fun h => ⟨h, by omega⟩
    · exact fun h => h.1

/-- Subtracting several intervals leaves the pixels outside all of them. -/
theorem covered_foldl_subtract (os is : List Ivl) (x : Int) :
    covered x (os.foldl subtract is) ↔ covered x is ∧ ∀ o ∈ os, ¬(o.1 ≤ x ∧ x ≤ o.2) := by
  induction os generalizing is with
  | nil => simp
  | cons o rest ih =>
    rw [List.foldl_cons, ih, covered_subtract]
    simp only [List.mem_cons, forall_eq_or_imp]
    tauto

/-- Joining an interval adds its pixels and no others. -/
theorem covered_joinIvl (i : Ivl) (is : List Ivl) (hi : i.1 ≤ i.2) (h : ∀ c ∈ is, c.1 ≤ c.2) (x : Int) :
    covered x (joinIvl i is) ↔ (i.1 ≤ x ∧ x ≤ i.2) ∨ covered x is := by
  induction is generalizing i with
  | nil => simp [joinIvl, covered]
  | cons c rest ih =>
    have hc := h c List.mem_cons_self
    have hr : ∀ d ∈ rest, d.1 ≤ d.2 := fun d hd => h d (List.mem_cons_of_mem _ hd)
    have cons_iff : ∀ (a : Ivl) (as : List Ivl), covered x (a :: as) ↔ (a.1 ≤ x ∧ x ≤ a.2) ∨ covered x as := by
      intro a as
      simp [covered]
    unfold joinIvl
    split_ifs with h1 h2
    · rw [cons_iff]
    · rw [cons_iff, ih i hi hr, cons_iff]
      tauto
    · rw [ih _ (by simp; omega) hr, cons_iff]
      simp only
      constructor
      · rintro (⟨a, b⟩ | a)
        · by_cases hx : i.1 ≤ x ∧ x ≤ i.2
          · exact Or.inl hx
          · exact Or.inr (Or.inl (by omega))
        · exact Or.inr (Or.inr a)
      · rintro (a | a | a)
        · exact Or.inl (by omega)
        · exact Or.inl (by omega)
        · exact Or.inr a

/-- Putting a span in its place adds it and drops nothing. -/
theorem mem_insertSpan (w s : Span) (ss : List Span) : w ∈ insertSpan s ss ↔ w = s ∨ w ∈ ss := by
  induction ss with
  | nil => simp [insertSpan]
  | cons t rest ih =>
    unfold insertSpan
    split
    · simp
    · simp only [List.mem_cons, ih]
      tauto

end Sys2Proof.Machine
end

