-- ==== Sys2Proof/Laws/Stable.lean ====
section
/-! SUPPORT. What the claim half can change. A property that survives any change of the bus interface, the Peer
Table, the Cue Engine and the snapshot, a posted report, a FENCE counted down and a stop of the Keyer survives
every operation of those blocks: one lemma an operation. -/

namespace Sys2Proof.Machine

/-- The changes that the blocks of the claim half make. -/
structure Stable (Q : Desk → Prop) : Prop where
  ce : ∀ {d : Desk} (x : Ce), Q d → Q { d with ce := x }
  cbi : ∀ {d : Desk} (x : Cbi), Q d → Q { d with cbi := x }
  pt : ∀ {d : Desk} (x : Pt), Q d → Q { d with pt := x }
  snap : ∀ {d : Desk} (o : List StoreEntry) (b : List Blanket) (r : List OwnRegion),
    Q d → Q { d with sb := { d.sb with occluders := o, blankets := b, own := r } }
  post : ∀ {d : Desk} (fc : FieldCount) (r : Report), Q d → Q (d.post fc r)
  fence : ∀ {d : Desk} (b : Bool) (n : Nat), Q d → Q { d with hp := { d.hp with fence := b, fenceLeft := n } }
  stop : ∀ {d : Desk} (f : StopFlag), Q d → Q { d with ky := { d.ky with stop := f } }
  silence : ∀ {d : Desk}, Q d → Q { d with ky := d.ky.silence }

namespace Stable

variable {Q : Desk → Prop} {d : Desk} {fc : FieldCount} {i : Slot} {c : ChainNo}

theorem fold {α : Type} (f : Desk → α → Desk) (hf : ∀ x a, Q x → Q (f x a)) (l : List α) :
    ∀ {d : Desk}, Q d → Q (l.foldl f d) := by
  induction l with
  | nil => exact fun h => h
  | cons a l ih => exact fun h => ih (hf _ a h)

theorem withCbi (h : Stable Q) (f : Cbi → Cbi) (q : Q d) : Q (d.withCbi f) := h.cbi _ q
theorem withPt (h : Stable Q) (f : Pt → Pt) (q : Q d) : Q (d.withPt f) := h.pt _ q
theorem modSlot (h : Stable Q) (f : CueSlot → CueSlot) (q : Q d) : Q (d.modSlot i f) := h.ce _ q
theorem modChain (h : Stable Q) (f : Chain → Chain) (q : Q d) : Q (d.modChain c f) := h.ce _ q

theorem postAll (h : Stable Q) (rs : List Report) (q : Q d) : Q (d.postAll fc rs) :=
  fold _ (fun _ r => h.post fc r) rs q

theorem refuse (h : Stable Q) (kind : Byte) (r : Reason) (q : Q d) : Q (d.refuse fc kind r) := h.post _ _ q

theorem itemLeft (h : Stable Q) (m : Bool) (q : Q d) : Q (d.itemLeft fc m) := by
  unfold Desk.itemLeft
  split
  · split
    · exact h.post _ _ (h.fence false 0 q)
    · exact h.fence (d := d) d.hp.fence _ q
  · exact q

theorem itemsLeft (h : Stable Q) (ms : List Bool) (q : Q d) : Q (d.itemsLeft fc ms) :=
  fold _ (fun _ m => h.itemLeft m) ms q

/-! ## The Cue Engine -/

theorem regionFull (h : Stable Q) (q : Q d) : Q (d.regionFull fc i) := by
  unfold Desk.regionFull; split
  · exact q
  · exact h.post _ _ (h.modSlot _ q)

theorem offerClaim (h : Stable Q) (q : Q d) : Q (d.offerClaim i) := by
  unfold Desk.offerClaim; split
  · exact h.modSlot _ (h.withCbi _ q)
  · exact q

theorem tryClaim (h : Stable Q) (q : Q d) : Q (d.tryClaim fc i) := by
  unfold Desk.tryClaim; split
  · exact h.regionFull q
  · split
    · exact q
    · exact h.offerClaim q

theorem tryStart (h : Stable Q) (q : Q d) : Q (d.tryStart fc i) := by
  unfold Desk.tryStart; dsimp only; split
  · exact h.tryClaim q
  · exact q

theorem offerWithdraw (h : Stable Q) (q : Q d) : Q (d.offerWithdraw i) := by
  unfold Desk.offerWithdraw; dsimp only; split
  · exact h.modSlot _ (h.withCbi _ q)
  · exact q

theorem retry (h : Stable Q) (q : Q d) : Q (d.retry fc) :=
  fold (fun x i => x.tryStart fc i) (fun _ _ => h.tryStart) allSlots
    (fold (fun x i => x.offerWithdraw i) (fun _ _ => h.offerWithdraw) allSlots q)

theorem retryIfReleased (h : Stable Q) (before : Desk) (q : Q d) : Q (d.retryIfReleased fc before) := by
  unfold Desk.retryIfReleased; split
  · exact h.retry q
  · exact q

theorem testStart (h : Stable Q) (q : Q d) : Q (d.testStart fc i) := by
  unfold Desk.testStart; dsimp only; split
  · exact h.modSlot _ q
  · exact q

theorem arm (h : Stable Q) (p : Option Slot) (b : Bool) (q : Q d) : Q (d.arm fc c i p b) :=
  h.testStart (h.modChain _ (h.modSlot _ q))

theorem tryArmed (h : Stable Q) (q : Q d) : Q (d.tryArmed fc c) := by
  unfold Desk.tryArmed; split
  · exact h.tryStart q
  · exact q

theorem armSuccessor (h : Stable Q) (p : Slot) (n : Option Slot) (b : Bool) (q : Q d) :
    Q (d.armSuccessor fc c p n b) := by
  unfold Desk.armSuccessor; split
  · exact h.modChain _ q
  · split
    · exact h.arm _ _ q
    · exact h.modChain _ q
    · exact h.modChain _ q

theorem succeed (h : Stable Q) (b : Bool) (q : Q d) : Q (d.succeed fc i b) := by
  unfold Desk.succeed; dsimp only; split
  · split
    · exact q
    · exact h.armSuccessor _ _ _ (h.modSlot _ q)
  · exact q

theorem checkChain (h : Stable Q) (q : Q d) : Q (d.checkChain fc c) := by
  unfold Desk.checkChain; split
  · exact q
  · split
    · exact h.post _ _ (h.modChain _ q)
    · exact q

theorem checkChains (h : Stable Q) (q : Q d) : Q (d.checkChains fc) :=
  fold (fun x c => x.checkChain fc c) (fun _ _ => h.checkChain) allChains q

theorem wakeChain (h : Stable Q) (q : Q d) : Q (d.wakeChain fc i c) := by
  unfold Desk.wakeChain; split
  · split
    · split
      · exact h.arm _ _ q
      · exact h.checkChain (h.modChain _ q)
      · exact q
    · exact q
  · exact q

theorem wake (h : Stable Q) (q : Q d) : Q (d.wake fc i) :=
  fold (fun x c => x.wakeChain fc i c) (fun _ _ => h.wakeChain) allChains q

theorem cueReport (h : Stable Q) (ev : CueEvent) (q : Q d) : Q (d.cueReport fc i ev) := h.post _ _ q

theorem ended (h : Stable Q) (q : Q d) : Q (d.ended fc i) := by
  unfold Desk.ended
  have told : Q (if (d.slot i).cue.notifyEnd = true then d.cueReport fc i .ended else d) := by
    split
    · exact h.cueReport _ q
    · exact q
  dsimp only
  apply h.wake
  split
  · exact h.ce _ told
  · exact h.modSlot _ told

theorem failed (h : Stable Q) (q : Q d) : Q (d.failed fc i) := h.wake (h.modSlot _ (h.cueReport _ q))

theorem endForChain (h : Stable Q) (q : Q d) : Q (d.endForChain i) := by
  unfold Desk.endForChain; split
  · exact h.modChain _ (h.ce _ q)
  · exact q

theorem succeedNow (h : Stable Q) (q : Q d) : Q (d.succeedNow fc i) := by
  unfold Desk.succeedNow; split
  · split
    · exact q
    · exact h.succeed _ q
  · exact q

theorem checkChainOf (h : Stable Q) (o : Option ChainNo) (q : Q d) : Q (d.checkChainOf fc o) := by
  unfold Desk.checkChainOf; split
  · exact h.checkChain q
  · exact q

theorem endNow (h : Stable Q) (q : Q d) : Q (d.endNow fc i) :=
  h.checkChainOf _ (h.ended (h.succeedNow (h.endForChain q)))

theorem failNow (h : Stable Q) (q : Q d) : Q (d.failNow fc i) :=
  h.checkChainOf _ (h.failed (h.succeedNow (h.endForChain q)))

theorem beginEnd (h : Stable Q) (q : Q d) : Q (d.beginEnd fc i) := by
  unfold Desk.beginEnd; dsimp only; split
  · exact h.offerWithdraw (h.modSlot _ (h.endForChain q))
  · exact h.ended (h.endForChain q)

theorem claimSent (h : Stable Q) (x : Claim) (q : Q d) : Q (d.claimSent fc i x) := by
  unfold Desk.claimSent; dsimp only; split
  · exact q
  · split
    · exact h.endNow (h.modSlot _ q)
    · split
      · exact h.checkChainOf _ (h.succeedNow (h.endForChain (h.offerWithdraw (h.modSlot _ q))))
      · exact h.modSlot _ q

theorem claimAbandoned (h : Stable Q) (q : Q d) : Q (d.claimAbandoned fc i) := by
  unfold Desk.claimAbandoned; split
  · exact h.failNow q
  · exact q

theorem claimGone (h : Stable Q) (q : Q d) : Q (d.claimGone fc i) := by
  unfold Desk.claimGone; split
  · exact h.endNow q
  · exact q

theorem withdrawDone (h : Stable Q) (q : Q d) : Q (d.withdrawDone fc i) := by
  unfold Desk.withdrawDone; split
  · exact h.checkChainOf _ (h.ended q)
  · exact q

theorem frameDiscarded (h : Stable Q) (w : TxWhat) (q : Q d) : Q (d.frameDiscarded fc w) := by
  unfold Desk.frameDiscarded; split
  · exact h.claimGone q
  · exact h.withdrawDone q
  all_goals exact q

theorem beaconSent (h : Stable Q) (b : Beacon) (q : Q d) : Q (d.beaconSent b) :=
  fold (fun x i => x.modSlot i (CueSlot.takeBeacon b i)) (fun _ _ => h.modSlot _) allSlots q

theorem triggerStart (h : Stable Q) (q : Q d) : Q (d.triggerStart c) := by
  unfold Desk.triggerStart; split
  · split
    · exact h.modSlot _ q
    · exact q
  · exact q

theorem stepTrigger (h : Stable Q) (cs : List ChainNo) (q : Q d) : Q (d.stepTrigger cs) :=
  h.ce _ (fold Desk.triggerStart (fun _ _ => h.triggerStart) cs q)

theorem countDown (h : Stable Q) (q : Q d) : Q (d.countDown i) := by
  unfold Desk.countDown; dsimp only; split
  · exact h.modSlot _ q
  · exact q

theorem stepEnd (h : Stable Q) (e : EndedCue) (q : Q d) : Q (d.stepEnd fc e) := h.checkChainOf _ (h.beginEnd q)

theorem stepSucceed (h : Stable Q) (e : EndedCue) (q : Q d) : Q (d.stepSucceed fc e) := by
  unfold Desk.stepSucceed; dsimp only; split
  · exact q
  · have marked : Q (if (d.slot e.slot).st = .ending
        then d.modSlot e.slot (fun x => { x with succDone := true }) else d) := by
      split
      · exact h.modSlot _ q
      · exact q
    split
    · exact q
    · split
      · exact h.checkChain (h.armSuccessor _ _ _ marked)
      · split
        · exact h.checkChain (h.armSuccessor _ _ _ marked)
        · exact h.modChain _ marked
      · exact q
      · exact q

theorem goOnAir (h : Stable Q) (q : Q d) : Q (d.goOnAir fc i) := by
  unfold Desk.goOnAir; dsimp only
  split <;> split <;> first
    | exact h.cueReport _ (h.modChain _ (h.modSlot _ q))
    | exact h.cueReport _ (h.modSlot _ q)
    | exact h.modChain _ (h.modSlot _ q)
    | exact h.modSlot _ q

theorem stepOnAir (h : Stable Q) (ripe : List Slot) (q : Q d) : Q (d.stepOnAir fc ripe i) := by
  unfold Desk.stepOnAir; split
  · split
    · exact h.goOnAir q
    · split
      · exact h.regionFull q
      · split
        · exact q
        · exact h.goOnAir q
  · exact q

theorem stepPreroll (h : Stable Q) (q : Q d) : Q (d.stepPreroll fc i) := by
  unfold Desk.stepPreroll; dsimp only; split
  · split
    · exact h.tryArmed (h.succeed _ q)
    · exact q
  · exact q

theorem boundaryEndings (h : Stable Q) (q : Q d) : Q (d.boundaryEndings fc) :=
  fold (Desk.stepSucceed fc) (fun _ e => h.stepSucceed e) _ (fold (Desk.stepEnd fc) (fun _ e => h.stepEnd e) _
    (fold Desk.countDown (fun _ _ => h.countDown) allSlots (h.stepTrigger _ q)))

theorem boundaryStarts (h : Stable Q) (ripe : List Slot) (q : Q d) : Q (d.boundaryStarts fc ripe) := by
  unfold Desk.boundaryStarts
  generalize allSlots = l
  exact fold (Desk.stepPreroll fc) (fun _ _ => h.stepPreroll) l
    (fold (Desk.stepOnAir fc ripe) (fun _ _ => h.stepOnAir ripe) l
      (h.retry (fold (fun x i => x.testStart fc i) (fun _ _ => h.testStart) l q)))

theorem ceBoundary (h : Stable Q) (q : Q d) : Q (d.ceBoundary fc) := h.boundaryStarts _ (h.boundaryEndings q)

theorem loadCue (h : Stable Q) (ppl : Nat) (r : LoadCue) (q : Q d) : Q (d.loadCue fc ppl r) := by
  unfold Desk.loadCue; split
  · split
    · exact h.refuse _ _ q
    · exact h.post _ _ (h.ce _ q)
  · split
    · exact h.ce _ q
    · exact h.ce _ q
    all_goals exact h.refuse _ _ q

theorem freeCue (h : Stable Q) (q : Q d) : Q (d.freeCue fc i) := by
  unfold Desk.freeCue; split
  · exact h.ce _ q
  all_goals exact h.refuse _ _ q

theorem startChain (h : Stable Q) (q : Q d) : Q (d.startChain fc c i) := by
  unfold Desk.startChain; split
  · split
    · exact h.refuse _ _ q
    · exact h.tryArmed (h.arm _ _ (h.modChain _ q))
    · exact h.refuse _ _ q
  · exact h.refuse _ _ q

theorem pauseChain (h : Stable Q) (q : Q d) : Q (d.pauseChain fc c) := by
  unfold Desk.pauseChain; split
  · exact h.refuse _ _ q
  · exact h.modChain _ q
  · exact q
  · exact h.refuse _ _ q

theorem armDue (h : Stable Q) (q : Q d) : Q (d.armDue fc c) := by
  unfold Desk.armDue; split
  · exact h.checkChain (h.tryArmed (h.armSuccessor _ _ _ (h.modChain _ q)))
  · exact q

theorem resumeChain (h : Stable Q) (q : Q d) : Q (d.resumeChain fc c) := by
  unfold Desk.resumeChain; split
  · exact h.refuse _ _ q
  · exact q
  · exact h.armDue (h.modChain _ q)
  · exact h.refuse _ _ q

theorem endClaiming (h : Stable Q) (a : Bool) (q : Q d) : Q (d.endClaiming fc a i) := by
  unfold Desk.endClaiming; dsimp only; split
  · split
    · exact h.claimGone (h.itemLeft _ (h.withCbi _ q))
    · split
      · exact h.withCbi _ (h.modSlot _ q)
      · exact h.modSlot _ q
  · exact h.modSlot _ q

theorem withdrawCue (h : Stable Q) (q : Q d) : Q (d.withdrawCue fc i) := by
  unfold Desk.withdrawCue; split
  · exact h.refuse _ _ q
  · exact h.refuse _ _ q
  · exact h.refuse _ _ q
  · exact h.modSlot _ q
  · exact h.modSlot _ q
  · split
    · exact q
    · exact h.retryIfReleased _ (h.endClaiming _ q)
  · exact q

theorem abortCue (h : Stable Q) (b : Bool) (q : Q d) : Q (d.abortCue fc b i) := by
  unfold Desk.abortCue; split
  · exact h.tryStart (h.wake (h.modSlot _ q))
  · split
    · exact h.beginEnd q
    · exact h.modSlot _ q
  · split
    · exact h.beginEnd q
    · exact h.modSlot _ q
  · exact h.endClaiming _ q
  all_goals exact q

theorem abortWith (h : Stable Q) (b : Bool) (q : Q d) : Q (d.abortWith fc b c) := by
  unfold Desk.abortWith; dsimp only; split
  · exact q
  · exact h.checkChain (fold (Desk.abortCue fc b) (fun _ _ => h.abortCue b) _ (h.modChain _ q))

theorem abortChain (h : Stable Q) (q : Q d) : Q (d.abortChain fc c) := by
  unfold Desk.abortChain; split
  · exact h.refuse _ _ q
  · exact h.refuse _ _ q
  · exact h.retryIfReleased _ (h.abortWith _ q)

theorem stopCue (h : Stable Q) (q : Q d) : Q (d.stopCue fc i) := by
  unfold Desk.stopCue; split
  · exact h.modSlot _ q
  · exact h.ended (h.endForChain q)
  · exact h.ended (h.endForChain q)
  · exact h.modSlot _ q
  · split
    · exact q
    · exact h.ended q
  all_goals exact q

theorem abortChains (h : Stable Q) (q : Q d) : Q d.abortChains := by
  unfold Desk.abortChains
  refine fold _ (fun x c hx => ?_) allChains q
  split
  · exact hx
  · exact h.modChain _ hx

theorem abortAllAtOnce (h : Stable Q) (q : Q d) : Q (d.abortAllAtOnce fc) :=
  h.retryIfReleased _ (fold (Desk.abortWith fc true) (fun _ _ => h.abortWith true) allChains (h.abortChains q))

theorem stopCues (h : Stable Q) (q : Q d) : Q (d.stopCues fc) :=
  fold (Desk.stopCue fc) (fun _ _ => h.stopCue) allSlots (h.abortChains q)

theorem tellDiscards (h : Stable Q) (es : List TxEntry) (q : Q d) : Q (d.tellDiscards fc es) := by
  unfold Desk.tellDiscards
  refine fold _ (fun x e hx => ?_) es q
  dsimp only; split
  · exact h.frameDiscarded _ (h.itemLeft _ hx)
  · exact h.itemLeft _ hx

theorem stopKeyerNow (h : Stable Q) (q : Q d) : Q d.stopKeyerNow := h.stop .acting (h.silence q)

theorem stopKeyerNextLine (h : Stable Q) (q : Q d) : Q d.stopKeyerNextLine := h.stop _ q

theorem clearAll (h : Stable Q) (q : Q d) : Q (d.clearAll fc) := by
  unfold Desk.clearAll
  exact h.retryIfReleased d (h.checkChains (h.tellDiscards _ (h.withCbi _ (h.stopKeyerNow (h.stopCues q)))))

theorem muteCues (h : Stable Q) (q : Q d) : Q (d.muteCues fc) := by
  unfold Desk.muteCues
  exact h.retryIfReleased d (h.checkChains (h.tellDiscards _ (h.withCbi _ (h.stopKeyerNow (h.stopCues q)))))

/-! ## The Peer Table -/

variable {n stn : Station}

theorem peerReport (h : Stable Q) (p : Presence) (q : Q d) : Q (d.peerReport fc n p) := by
  unfold Desk.peerReport; dsimp only; split
  · exact q
  · exact h.post _ _ q

theorem offerRecall (h : Stable Q) (q : Q d) : Q (d.offerRecall n i) := by
  unfold Desk.offerRecall; split
  · exact h.withPt _ (h.withCbi _ q)
  · exact q

theorem takeBeacon (h : Stable Q) (b : Beacon) (q : Q d) : Q (d.takeBeacon fc n b) := by
  unfold Desk.takeBeacon
  generalize allSlots = l
  exact fold (Desk.offerRecall n) (fun _ _ => h.offerRecall) l (h.withPt _ (h.peerReport _ (h.withPt _ q)))

theorem takeRecall (h : Stable Q) (t : Station) (q : Q d) : Q (d.takeRecall stn t i) := by
  unfold Desk.takeRecall; split
  · exact q
  · split <;> exact h.withCbi _ q

theorem takeClear (h : Stable Q) (q : Q d) : Q (d.takeClear fc n) := by
  unfold Desk.takeClear; split
  · exact h.post _ _ (h.withPt _ (h.stopKeyerNextLine (h.abortAllAtOnce q)))
  · exact h.post _ _ q

theorem agePeer (h : Stable Q) (q : Q d) : Q (d.agePeer fc stn n) := by
  unfold Desk.agePeer; split
  · exact q
  · apply h.peerReport
    split
    · exact h.withPt _ (h.withPt _ q)
    · exact h.withPt _ q

theorem ptBoundary (h : Stable Q) (q : Q d) : Q (d.ptBoundary fc stn) :=
  h.withPt _ (fold (Desk.agePeer fc stn) (fun _ _ => h.agePeer) allStations q)

/-! ## The Claim Bus Interface -/

variable {v : BusView}

theorem joinContest (h : Stable Q) (q : Q d) : Q (d.joinContest v) := by
  unfold Desk.joinContest; split
  · exact h.cbi _ q
  · exact h.withCbi _ q

theorem firstFall (h : Stable Q) (q : Q d) : Q (d.firstFall v) := by
  unfold Desk.firstFall; split
  · exact h.withCbi _ (h.joinContest (h.withCbi _ q))
  · exact q

theorem becomeIdle (h : Stable Q) (q : Q d) : Q d.becomeIdle := by
  unfold Desk.becomeIdle; split
  · exact h.withCbi _ q
  · exact q

theorem leaveQueue (h : Stable Q) (e : TxEntry) (q : Q d) : Q (d.leaveQueue fc e) := h.itemLeft _ (h.withCbi _ q)

theorem tellGone (h : Stable Q) (e : TxEntry) (q : Q d) : Q (d.tellGone fc e) := by
  unfold Desk.tellGone; split
  · exact h.retry (h.frameDiscarded _ q)
  · exact q

theorem tellAbandoned (h : Stable Q) (e : TxEntry) (q : Q d) : Q (d.tellAbandoned fc e) := by
  unfold Desk.tellAbandoned; split
  · apply h.retry
    split
    · exact h.claimAbandoned q
    · exact h.withdrawDone q
    all_goals exact q
  · exact q

theorem tellSent (h : Stable Q) (e : TxEntry) (x : FrameContents) (q : Q d) : Q (d.tellSent fc e x) := by
  unfold Desk.tellSent; split
  · apply h.retry
    split
    · exact h.claimSent _ q
    · exact h.withdrawDone q
    · exact q
  · exact q

theorem releaseEntry (h : Stable Q) (f : TxEntry → Bool) (q : Q d) : Q (d.releaseEntry fc f) := by
  unfold Desk.releaseEntry; split
  · exact q
  · split
    · exact h.tellGone _ (h.leaveQueue _ q)
    · exact h.withCbi _ q

theorem loseEntry (h : Stable Q) (q : Q d) : Q (d.loseEntry fc) := h.releaseEntry _ q

theorem landEntry (h : Stable Q) (q : Q d) : Q (d.landEntry fc) := h.releaseEntry _ q

theorem loseAccess (h : Stable Q) (q : Q d) : Q (d.loseAccess fc) := by
  unfold Desk.loseAccess; split
  · exact h.loseEntry (h.withCbi _ q)
  · exact q

theorem debit (h : Stable Q) (q : Q d) : Q (d.debit fc) := by
  unfold Desk.debit; dsimp only; split
  · exact h.post _ _ (h.withCbi _ (h.withCbi _ q))
  · exact h.withCbi _ q

theorem charge (h : Stable Q) (a : Attempt) (q : Q d) : Q (d.charge fc a) := by
  unfold Desk.charge; split
  · exact q
  · exact q
  · split
    · exact h.debit q
    · exact h.withCbi _ q

theorem winAccess (h : Stable Q) (q : Q d) : Q (d.winAccess fc) := by
  unfold Desk.winAccess; dsimp only; split
  · split
    · exact h.charge _ (h.withCbi _ q)
    · exact h.withCbi _ q
  · exact q

theorem attemptSent (h : Stable Q) (q : Q d) : Q (d.attemptSent fc) := by
  unfold Desk.attemptSent; split
  · exact q
  · split
    · exact h.beaconSent _ (h.withCbi _ q)
    · split
      · exact h.tellSent _ _ (h.leaveQueue _ q)
      · exact q

theorem endOwnFrame (h : Stable Q) (q : Q d) : Q (d.endOwnFrame fc) := by
  unfold Desk.endOwnFrame; dsimp only; split
  · split
    · exact h.withCbi _ (h.landEntry (h.withCbi _ q))
    · exact h.withCbi _ q
  · exact q

theorem succeedAttempt (h : Stable Q) (q : Q d) : Q (d.succeedAttempt fc) := by
  unfold Desk.succeedAttempt; split
  · exact h.endOwnFrame (h.attemptSent q)
  · exact q

theorem failEntry (h : Stable Q) (q : Q d) : Q (d.failEntry fc) := by
  unfold Desk.failEntry; split
  · exact q
  · split
    · exact h.tellGone _ (h.leaveQueue _ q)
    · split
      · exact h.tellAbandoned _ (h.withCbi _ (h.leaveQueue _ q))
      · exact h.withCbi _ q

theorem countFailure (h : Stable Q) (a : Option Attempt) (q : Q d) : Q (d.countFailure fc a) := by
  unfold Desk.countFailure; split
  · exact q
  · split
    · exact h.withCbi _ q
    · exact h.withCbi _ (h.failEntry q)

theorem collide (h : Stable Q) (q : Q d) : Q (d.collide fc) := h.countFailure _ (h.withCbi _ q)

theorem attemptObjected (h : Stable Q) (q : Q d) : Q (d.attemptObjected fc) := h.countFailure _ (h.withCbi _ q)

theorem failAttempt (h : Stable Q) (b : Bool) (q : Q d) : Q (d.failAttempt fc b) := by
  unfold Desk.failAttempt; split
  · split
    · exact h.collide q
    · exact h.endOwnFrame (h.attemptObjected q)
  · exact q

theorem mute (h : Stable Q) (k : Nat) (q : Q d) : Q (d.mute fc k) := by
  unfold Desk.mute; split
  · exact q
  · exact h.muteCues (h.post _ _ (h.withCbi _ q))

theorem accept (h : Stable Q) (k : Nat) {f : Desk → Desk} (hf : ∀ x, Q x → Q (f x)) (q : Q d) :
    Q (d.accept fc stn n k f) := by
  unfold Desk.accept; split
  · split
    · exact h.mute _ (h.withCbi _ q)
    · exact hf _ (h.withCbi _ q)
  · exact q

theorem setDue (h : Stable Q) (q : Q d) : Q d.setDue := by
  unfold Desk.setDue; split
  · exact h.withCbi _ q
  · exact q

theorem setDueInWindow (h : Stable Q) {sys : System} {p : Parity} {l : Nat} (q : Q d) :
    Q (d.setDueInWindow sys p l) := by
  unfold Desk.setDueInWindow; split
  · exact h.setDue q
  · exact q

theorem cbiLine (h : Stable Q) {sys : System} {p : Parity} {l : Nat} (q : Q d) : Q (d.cbiLine sys p l) := by
  unfold Desk.cbiLine; split
  · exact h.setDue q
  · split
    · exact h.withCbi _ q
    · exact q

theorem cbiBoundary (h : Stable Q) {sys : System} {p : Parity} {l : Nat} (q : Q d) :
    Q (d.cbiBoundary sys p l) := h.setDueInWindow (h.withCbi _ q)

theorem endIfDecided (h : Stable Q) (q : Q d) : Q (d.endIfDecided fc) := by
  unfold Desk.endIfDecided; split
  · exact h.endOwnFrame q
  · exact q

theorem cutShort (h : Stable Q) (q : Q d) : Q (d.cutShort fc) := h.failAttempt _ (h.endIfDecided (h.loseAccess q))

theorem enterFault (h : Stable Q) (q : Q d) : Q (d.enterFault fc) := by
  unfold Desk.enterFault; split
  · exact q
  · exact h.post _ _ (h.withCbi _ (h.cutShort q))

theorem leaveFault (h : Stable Q) {sys : System} {p : Parity} {l : Nat} (q : Q d) :
    Q (d.leaveFault sys fc p l) := by
  unfold Desk.leaveFault; split
  · exact h.setDueInWindow (h.post _ _ (h.withCbi _ q))
  · exact q

/-! ## The field boundary -/

theorem snapshot (h : Stable Q) (q : Q d) : Q (d.snapshot fc) := by
  have : d.snapshot fc = { { d with sb := { d.sb with
      occluders := d.pt.store.filter (fun e => e.applicable fc)
      blankets := d.pt.blankets
      own := d.ce.regions fc } } with
    pt := { d.pt with store := d.pt.store.map (StoreEntry.afterSnapshot fc) } } := rfl
  rw [this]
  exact h.pt _ (h.snap _ _ _ q)

theorem fieldBoundary (h : Stable Q) {sys : System} {p : Parity} {l : Nat} (q : Q d) :
    Q (d.fieldBoundary sys stn fc p l) := by
  have snapped := h.snapshot (fc := fc) (h.ptBoundary (fc := fc) (stn := stn)
    (h.ceBoundary (fc := fc) (h.cbiBoundary (sys := sys) (p := p) (l := l) q)))
  exact h.stop .clear snapped

end Stable

end Sys2Proof.Machine
end

