-- ==== Sys2Proof/Tests/Slice0.lean ====
section
/-! SUPPORT. The model's own tests: ill-formed commands refused, a few of the manual's worked examples, and for each
statement a state and operands that meet the hypotheses of each of its clauses, with what the command then does. -/

namespace Sys2Proof.Tests

open Sys2Proof.Machine

-- One test after the other: many threads at once need more memory than the check allows.
set_option Elab.async false

/-! ## Ill-formed commands -/

theorem test_ill_window : (Instr.levelSearchWindowEnd 10 9).wellFormed = false := by decide
theorem test_ill_falling_time : (Instr.fallingCrossing 8 150 100).wellFormed = false := by decide
theorem test_ill_falling_codes : (Instr.fallingCrossing 16 100 100).wellFormed = false := by decide
theorem test_ill_rising_time : (Instr.risingCrossing 8 100 150 0).wellFormed = false := by decide
theorem test_ill_rising_codes : (Instr.risingCrossing 16 150 150 0).wellFormed = false := by decide
theorem test_ill_rising_sum : (Instr.risingCrossing 16 100 150 8161).wellFormed = false := by decide
theorem test_ill_broad_time : (Instr.broadClassified 1).wellFormed = false := by decide
theorem test_ill_blank_time : (Instr.blankReading 1 0).wellFormed = false := by decide
theorem test_ill_blank_sum : (Instr.blankReading 16 8161).wellFormed = false := by decide
theorem test_ill_line_time : (Instr.lineBoundary 1).wellFormed = false := by decide
theorem test_ill_aging_time : (Instr.holdAgingRunsOut 1).wellFormed = false := by decide
theorem test_ill_coasted_time : (Instr.coastedBoundary 1).wellFormed = false := by decide
theorem test_ill_malformed : (Instr.malformedRequest 0x02 0).wellFormed = false := by decide
theorem test_well_formed : (Instr.malformedRequest 0x02 1).wellFormed = true ∧
    (Instr.risingCrossing 16 100 150 8160).wellFormed = true := by decide

/-! ## Small states -/

/-- The command answers a next state that passes the test. -/
def after (c : Instr) (s : State) (p : State → Bool) : Bool :=
  match exec c s with
  | .next t => p t
  | .fault _ => false
  | .refused _ => false

def onSfe (f : Sfe → Sfe) (s : State) : State := s.onTime (fun t => { t with sfe := f t.sfe })
def onLoop (f : Loop → Loop) (s : State) : State := s.onTime (fun t => { t with loop := f t.loop })
def onRef (f : Ref → Ref) (s : State) : State := s.onTime (fun t => { t with ref := f t.ref })
def onFt (f : Ft → Ft) (s : State) : State := s.onTime (fun t => { t with ft := f t.ft })
def onTdu (f : Tdu → Tdu) (s : State) : State := s.onTime (fun t => { t with tdu := f t.tdu })
def onCbi (f : Cbi → Cbi) (s : State) : State := s.onDesk (Desk.withCbi f)
def onPt (f : Pt → Pt) (s : State) : State := s.onDesk (Desk.withPt f)
def onKy (f : Ky → Ky) (s : State) : State := s.onDesk (fun d => { d with ky := f d.ky })

/-- Reset released and configured. -/
def conf : State := State.reset.onHp (fun h => { h with configured := true })

/-- RESET held. -/
def held : State := { State.reset with resetHeld := true }

/-- Level tracking with the levels of the manual's edge examples. -/
def tracking : State := onSfe (fun x => { x with mode := .levelTracking, tip := 60, blank := 180, active := true }) conf

/-- In a reference state. -/
def inState (st : RefSt) (s : State) : State := onRef (fun x => { x with st := st }) s

/-- A pulse that started at sample 64,000. -/
def pulse (st : RefSt) (gate : Option Nat) (vwin : Bool) : Pulse :=
  ⟨64000, 63993, 50, 120, .good, ⟨1, 63990, st, gate, vwin⟩, 1920⟩

/-- That pulse in progress. -/
def pulsing (p : Pulse) (s : State) : State := onSfe (fun x => { x with pulse := some p }) s

/-- LOCKED with these records for the open line. -/
def locked (rs : List LoopRecord) : State := inState .locked (onLoop (fun l => { l with records := rs }) conf)

/-- The line's state. -/
def bus (line : BusSt) : State := onCbi (fun c => { c with line := line }) conf

/-- A queue entry. -/
def entry (w : TxWhat) (owner : TxOwner) (stage : TxStage) : TxEntry := { TxEntry.fresh w owner with stage := stage }

/-- A claim. -/
def claim : Claim := ⟨7, 5, 100, 120, 143, 389, 2, 0, 0⟩

/-- A cue for slot 7. -/
def cue : CueRec := { CueRec.blank with top := 100, height := 21, left := 100, width := 200, layer := 5, announce := true }

/-- Slot 7 in a state, run by chain 1 in a state. -/
def cueing (st : CueSt) (ch : ChainSt) (s : State) : State :=
  s.onDesk (fun d => (d.modSlot 7 (fun _ => { CueSlot.idle st cue with chain := some 1 })).modChain 1
    (fun c => { c with st := ch }))

/-- Slot 7 with a record and no run. -/
def loaded (c : CueRec) (s : State) : State := s.onDesk (Desk.loadSlot 7 c)

/-- Receiving a frame. -/
def receiving : State := bus .receiving

/-! ## The step and reset -/

theorem test_step_front : step { conf with pending := [.trigFallingEdge, .hsyncEnd] } =
    exec .trigFallingEdge { conf with pending := [.hsyncEnd] } := rfl

theorem test_empty_queue : step conf = .next conf ∧
    step { held with inputs := [⟨5, false, false⟩] } = .next held ∧
    ({ conf with inputs := [⟨5, false, false⟩] } : State).pending = [] ∧ conf.resetHeld = false :=
  ⟨rfl, rfl, rfl, rfl⟩

theorem test_reset_release : after (.resetRelease 15 .sys525 true) held (fun t =>
    t.straps == ⟨15, .sys525, true⟩ && t.time.loop.F == 8330354 && !t.resetHeld) = true ∧
    after (.resetRelease 15 .sys525 true) conf (· == conf) = true ∧ after .clearAll held (· == held) = true ∧
    after .hardwareReset conf (fun t => t.resetHeld && t.lor && !t.fieldPin && t.desk.ce.liveSet == 0) = true := by
  decide +kernel

/-! ## The field boundary at the Peer Table and the Span Builder -/

/-- Station 3 with a presence and a missed count, one stored claim of layer 5, and a live id 9 that is missing. -/
def known (p : Presence) (missed : Nat) : Desk :=
  { conf.desk with pt := { Pt.reset.setPeer 3 ⟨p, missed, false, some ⟨.locked, true, .first, some 4, 40, 0x200⟩, 0, 0⟩
      with store := [⟨3, { claim with id := 8 }, false⟩], joinQuiet := 4 } }

theorem test_age :
    (((known .present 0).ptBoundary 9 0).pt.peer 3).presence = .silent ∧
    ((known .present 0).ptBoundary 9 0).pt.blankets = [⟨5, 3⟩] ∧ ((known .present 0).ptBoundary 9 0).pt.joinQuiet = 3 ∧
    (((known .silent 6).ptBoundary 9 0).pt.peer 3).missed = 7 ∧
    ((known .silent 7).ptBoundary 9 0).pt.store = [] ∧ ((known .silent 7).ptBoundary 9 0).hp.reports =
      [⟨.peer 3 .silent .absent 8 0 9, 0⟩] ∧
    ((known .joining 0).ptBoundary 9 0).pt.peer 3 = ⟨.absent, 1, false, none, 0, 0⟩ ∧
    (((known .present 0).withPt (Pt.modPeer 3 (fun x => { x with seen := true }))).ptBoundary 9 0).pt.blankets =
      [⟨5, 3⟩] ∧
    (((known .joining 0).withPt (Pt.modPeer 3 (fun x => { x with seen := true }))).ptBoundary 9 0).pt.blankets =
      [⟨5, 3⟩] := by decide +kernel

/-- E = 2 is one ahead of FC = 1, and reached at 2; a cue on air is in the snapshot with its claim's units. -/
theorem test_snapshot : ((known .present 0).snapshot 1).sb.occluders = [] ∧
    ((known .present 0).snapshot 2).sb.occluders = (known .present 0).pt.store ∧
    ((known .present 0).snapshot 2).pt.store.map (fun e => e.applied) = [true] ∧
    (((known .present 0).modSlot 7 (fun x => { x with st := .onAir })).snapshot 2).sb.own =
      [⟨7, 0, 0, 0, 1, 0, .fill, none⟩] ∧
    (({ known .present 0 with ky := { Ky.reset with stop := .acting } }).fieldBoundary .sys625 0 2 .first 0).ky.stop =
      .clear := by decide +kernel

/-! ## The video input -/

/-- A PRESENT peer with an empty live set and nothing stored has no blanket. -/
theorem test_no_blanket : ((conf.desk.withPt (fun _ => Pt.reset.setPeer 3
    ⟨.present, 0, true, some ⟨.locked, true, .first, none, 40, 0⟩, 0, 0⟩)).ptBoundary 9 0).pt.blankets = [] := by
  decide +kernel

theorem test_window : conf.time.sfe.mode = .levelSearch ∧ tracking.time.sfe.mode = .levelTracking ∧
    after (.levelSearchWindowEnd 60 72) conf (fun t => t.time.sfe.mode == .levelTracking) = true ∧
    after (.levelSearchWindowEnd 60 71) conf (fun t => t.time.sfe.mode == .levelSearch) = true := by decide +kernel

/-- 1.3, the four rows of "edge measurements". -/
theorem test_edge_rows :
    (edgeTime 120 64016 150 100, gradeOf 50 120) = (64009, .good) ∧
    (edgeTime 120 64016 130 110, gradeOf 20 120) = (64008, .fair) ∧
    (edgeTime 120 64016 125 118, gradeOf 7 120) = (64011, .poor) ∧
    (edgeTime 120 64016 140 120, gradeOf 20 120) = (64015, .fair) := by decide +kernel

theorem test_falling : tracking.resetHeld = false ∧ tracking.time.sfe.falls 121 120 = true ∧
    tracking.time.sfe.tip + 12 ≤ tracking.time.sfe.blank ∧ tracking.time.sfe.pulse = none ∧
    after (.fallingCrossing 64016 150 100) (inState .acquire tracking) (fun t =>
      t.time.sfe.pulse.map (fun p => (p.edge, p.grade, p.snap.gate)) == some (64009, .good, some 1024)) = true ∧
    after (.fallingCrossing 64016 150 100) (inState .locked tracking) (fun t =>
      t.time.sfe.pulse.map (fun p => p.snap.gate) == some (some 48)) = true ∧
    after (.fallingCrossing 64016 150 100) (inState .hold tracking) (fun t =>
      t.time.sfe.pulse.map (fun p => p.snap.gate) == some none) = true := by decide +kernel

/-- R6, R12: a falling crossing abandons an open blank window, at j + 1 and at j + 71. -/
theorem test_window_abandoned :
    let opened (j : Ts) := onSfe (fun x => { x with blankWin := some ⟨j, 0⟩ }) tracking
    after (.fallingCrossing 64016 150 100) (opened 64000) (fun t => t.time.sfe.blankWin.isNone) = true ∧
    after (.fallingCrossing 65152 150 100) (opened 64016) (fun t => t.time.sfe.blankWin.isNone) = true := by decide +kernel

/-- Widths 23, 24, 111, 112 and 400 in LOCKED. -/
theorem test_rising :
    after (.risingCrossing 64368 120 121 1920) (inState .locked (pulsing (pulse .locked (some 48) true) tracking))
      (fun t => t.time.sfe.pulse.isNone && t.time.loop.records.isEmpty) = true ∧
    after (.risingCrossing 64384 120 121 1920) (inState .locked (pulsing (pulse .locked (some 48) true) tracking))
      (fun t => t.time.loop.records == [⟨63993, .narrow, .fair, 3⟩]) = true ∧
    after (.risingCrossing 65776 120 121 1920) (inState .locked (pulsing (pulse .locked (some 48) false) tracking))
      (fun t => t.time.loop.records.isEmpty) = true ∧
    after (.risingCrossing 65792 120 121 1760) (inState .acquire (pulsing (pulse .acquire (some 1024) false) tracking))
      (fun t => t.time.loop.records == [⟨63993, .line, .good, 3⟩] && t.time.sfe.tip == 59) = true ∧
    after (.risingCrossing 70400 120 121 1920) (inState .locked (pulsing (pulse .locked (some 48) true) tracking))
      (fun t => t.time.loop.records == [⟨63993, .line, .good, 3⟩]) = true := by decide +kernel

/-- A LINE record in SEARCH one line after the run's last edge, in HOLD near and far, and in a probe window; a NARROW
record off full-line position, and one with a HOLD snapshot. -/
theorem test_rising_forwarded :
    after (.risingCrossing 65792 120 121 1920) (onRef (fun x => { x with searchRun := 2, searchEdge := some 31225 })
      (pulsing (pulse .search none true) tracking)) (fun t =>
      t.time.ref.searchRun == 3 && t.time.ref.searchEdge == some 63993) = true ∧
    after (.risingCrossing 65792 120 121 1920) (inState .hold (pulsing (pulse .hold none false) tracking)) (fun t =>
      t.time.ref.anchor == some 63993) = true ∧
    after (.risingCrossing 65792 120 121 1920) (inState .hold
      (pulsing { pulse .hold none false with edge := 64247 } tracking)) (fun t =>
      t.time.ref.anchor.isNone && t.time.ref.newRun == 1) = true ∧
    after (.risingCrossing 65792 120 121 1920) (inState .probe (onRef (fun x => { x with anchor := some 31225 })
      (pulsing (pulse .probe none false) tracking))) (fun t => t.time.ref.probeFirst == some .good) = true ∧
    after (.risingCrossing 64384 120 121 1920) (inState .locked (pulsing (pulse .locked (some 2) true) tracking))
      (fun t => t.time.loop.records.isEmpty) = true ∧
    after (.risingCrossing 64384 120 121 1920) (inState .hold (pulsing (pulse .hold none true) tracking))
      (fun t => t.time.loop.records.isEmpty) = true := by decide +kernel

/-- R6: with the amplitude below 12 no rising crossing is recognised and no record issued, in any state. -/
theorem test_slicer_off :
    let off := onSfe (fun x => { x with blank := 71 }) (pulsing (pulse .locked (some 48) true) tracking)
    off.time.sfe.blank < off.time.sfe.tip + 12 ∧ after (.risingCrossing 65792 65 66 1920) off (· == off) = true ∧
    after (.broadClassified 70400) off (· == off) = true := by decide +kernel

/-- The third broad pulse of a run, half a line after the second. -/
def thirdBroad : State :=
  onLoop (fun l => { l with n := 314 }) (onFt (fun x => { x with
    fs := .locked, parity := .second, counter := 315, broadRun := 2, lastBroad := some 47609
    firstBroad := some ⟨31225, ⟨313, 31200, .locked, some 48, true⟩⟩ })
    (inState .locked (pulsing (pulse .locked (some 48) true) tracking)))

theorem test_broad : (16 * (tsDiff 63993 47609 * 256) - 8 * thirdBroad.time.loop.F).natAbs ≤ thirdBroad.time.loop.F.natAbs ∧
    (tsDiff 31225 31200).natAbs ≤ 48 ∧
    after (.broadClassified 70400) thirdBroad (fun t =>
      t.time.ft.fs == .locked && t.time.ft.parity == .first && t.time.ft.counter == 1 && t.time.ft.fc == 1 &&
      t.time.ft.label == .classified && t.time.ft.startKind == .accepted) = true ∧
    after (.broadClassified 70400) (pulsing (pulse .locked (some 48) false) tracking) (fun t =>
      t.time.ft.broadRun == 1 && t.time.loop.records.isEmpty) = true ∧
    after (.broadClassified 70400) (inState .locked (pulsing (pulse .locked (some 3) true) tracking)) (fun t =>
      t.time.ft.broadRun == 1 && t.time.loop.records == [⟨63993, .broad, .fair, 3⟩]) = true ∧
    after (.broadClassified 70400) (inState .locked (pulsing (pulse .locked (some 2) true) tracking)) (fun t =>
      t.time.loop.records.isEmpty) = true := by decide +kernel

/-- R70: a run lengthened, started anew, and spent. -/
theorem test_broad_runs :
    let run (n : Nat) (last : Ts) := onFt (fun x => { x with broadRun := n, lastBroad := some last }) thirdBroad
    let taken (s : State) (p : State → Bool) := after (.broadClassified 70400) s p
    taken (run 1 47609) (fun t => t.time.ft.broadRun == 2 && t.time.ft.lastBroad == some 63993) = true ∧
    taken (run 2 40000) (fun t => t.time.ft.broadRun == 1 && t.time.ft.firstBroad.map BroadStart.edge == some 63993) = true ∧
    taken (run 3 47609) (fun t => t.time.ft == (run 3 47609).time.ft) = true := by decide +kernel

/-- A third broad pulse with this field state, counter and first edge. -/
def third (fs : FieldSt) (counter : Nat) (edge pred : Ts) (gate : Option Nat) : State :=
  onFt (fun x => { x with fs := fs, counter := counter, coasts := 1, firstBroad := some ⟨edge, ⟨313, pred, .locked, gate, true⟩⟩ })
    thirdBroad

/-- R71, R73, R75: a classified and an unclassified run in F_SEARCH, acceptance in F_COAST, SECOND, a stray, a field slip. -/
theorem test_third_broad :
    let taken (s : State) (p : State → Bool) := after (.broadClassified 70400) s p
    taken (third .search 315 31225 31200 (some 48)) (fun t => t.time.ft.fs == .locked && t.time.ft.parity == .first &&
      t.desk.hp.reports.map QReport.report == [.fieldState .locked .anchored 1 314 .first 0]) = true ∧
    taken (third .search 100 31225 31200 none) (fun t => t.time.ft.fs == .search && t.time.ft.startKind == .slip &&
      t.time.ft.unclassified == 1 && t.time.ft.label == .alternation) = true ∧
    taken (third .coast 315 31225 31200 (some 48)) (fun t => t.time.ft.fs == .locked && t.time.ft.coasts == 0 &&
      t.desk.hp.reports.map QReport.report == [.fieldState .locked .resumed 1 314 .first 0]) = true ∧
    taken (third .locked 315 14841 31200 (some 48)) (fun t => t.time.ft.parity == .second && t.time.ft.counter == 2 &&
      t.time.ft.label == .classified) = true ∧
    taken (third .locked 162 31225 31200 (some 48)) (fun t => t.time.ft.stray == some ⟨161, false⟩ && t.time.ft.fc == 0 &&
      t.time.ft.counter == 162) = true ∧
    taken (onFt (fun x => { x with stray := some ⟨160, true⟩ }) (third .coast 162 31225 31200 (some 48))) (fun t =>
      t.time.ft.fs == .locked && t.time.ft.startKind == .slip && t.time.ft.stray.isNone && t.time.ft.counter == 1 &&
      t.time.tdu.early == some .first && t.desk.hp.reports.map QReport.report ==
        [.fieldState .locked .fieldSlip 1 161 .first 0]) = true := by decide +kernel

theorem test_blank : after (.blankReading 65536 5920)
    (onSfe (fun x => { x with blankWin := some ⟨64400, 0⟩ }) tracking)
    (fun t => t.time.sfe.blank == 181 && t.time.sfe.blankWin.isNone) = true := by decide +kernel

theorem test_loss : ((RefSt.search, RefSt.hold) = (.search, .hold)) ∧
    after .syncActivityLoss (onRef (fun x => { x with searchRun := 3 }) tracking) (fun t =>
      t.time.ref.searchRun == 0 && !t.time.sfe.active && t.time.sfe.tip == 60) = true ∧
    after .syncActivityLoss (inState .hold (onRef (fun x => { x with newRun := 3 }) tracking)) (fun t =>
      t.time.ref.newRun == 0 && !t.time.ref.pendingLoss) = true ∧
    after .syncActivityLoss (inState .locked tracking) (fun t => t.time.ref.pendingLoss) = true ∧
    after .syncActivityLoss conf (· == conf) = true := by decide +kernel

/-! ## Line boundaries -/

theorem test_good_line : (locked [⟨100, .line, .good, 48⟩]).lineFree = true ∧
    (locked [⟨100, .line, .good, 48⟩]).time.loop.records.find? (fun x => decide (x.e.natAbs ≤ 48)) =
      some ⟨100, .line, .good, 48⟩ ∧
    after (.lineBoundary 100) (locked [⟨100, .line, .good, 48⟩]) (fun t =>
      t.time.loop.F == 8388620 && t.time.loop.C == 1536 && t.time.ref.st == .locked) = true := by decide +kernel

theorem test_missing_lines :
    after (.lineBoundary 100) (onLoop (fun l => { l with missRun := 4 }) (locked [])) (fun t =>
      t.time.loop.missRun == 5 && t.time.ref.st == .locked) = true ∧
    (onLoop (fun l => { l with missRun := 5 }) (locked [])).time.ft.coastsNow .sys625 false = false ∧
    after (.lineBoundary 100) (onLoop (fun l => { l with missRun := 5 }) (locked [])) (fun t =>
      t.time.ref.st == .hold && t.lor && t.desk.hp.reports == [⟨.refState .hold .locked .misses 0, 0⟩]) = true := by
  decide +kernel

theorem test_jump :
    (fineDiff (fineOf 40000) (fineOf 7232 + BitVec.ofInt 28 8388608)).natAbs ≤ 48 * 256 ∧
    after (.lineBoundary 45000) (onLoop (fun l => { l with jumpRun := 3, lastRejected := some 7232, jumpCount := 255 })
      (locked [⟨40000, .line, .good, 7232⟩])) (fun t =>
      t.time.loop.P == fineOf 40000 + BitVec.ofInt 28 8388608 && t.time.loop.jumpCount == 255 &&
      t.time.ref.st == .locked) = true := by decide +kernel

/-- R29, R32, R37, R53: FAIR, POOR, REJECTED at the start of a run and in one, and a pending loss. -/
theorem test_locked_lines :
    let closed (s : State) (p : State → Bool) := after (.lineBoundary 100) s p
    let flying := onLoop (fun l => { l with missRun := 2, jumpRun := 2, lastRejected := some 7232 })
    closed (flying (locked [⟨100, .line, .fair, 48⟩])) (fun t => t.time.loop.F == 8388608 && t.time.loop.missRun == 0 &&
      t.time.loop.jumpRun == 0 && t.time.loop.C != 0) = true ∧
    closed (flying (locked [⟨100, .line, .poor, 48⟩])) (fun t => t.time.loop.F == 8388608 && t.time.loop.missRun == 3 &&
      t.time.loop.jumpRun == 0 && t.time.loop.lastRejected.isNone) = true ∧
    closed (locked [⟨40000, .line, .good, 7232⟩]) (fun t => t.time.loop.missRun == 1 && t.time.loop.jumpRun == 1 &&
      t.time.loop.lastRejected == some 40000) = true ∧
    closed (flying (locked [⟨40000, .line, .good, 7232⟩])) (fun t => t.time.loop.missRun == 3 &&
      t.time.loop.jumpRun == 3 && t.time.ref.st == .locked) = true ∧
    closed (onLoop (fun l => { l with missRun := 5 }) (locked [⟨40000, .line, .good, 7232⟩])) (fun t =>
      t.time.ref.st == .hold && t.time.loop.jumpRun == 0) = true ∧
    closed (onRef (fun m => { m with pendingLoss := true }) (locked [⟨100, .line, .good, 48⟩])) (fun t =>
      t.time.ref.st == .hold && t.lor && !t.time.ref.pendingLoss &&
      t.desk.hp.reports == [⟨.refState .hold .locked .activityLost 0, 0⟩]) = true := by decide +kernel

theorem test_search_anchor : conf.freqOk ∧ 0 ≤ fineDiff (fineOf 41000) (fineOf 8000) ∧
    after (.lineBoundary 41008) (onRef (fun x => { x with searchRun := 8, searchEdge := some 8000 }) conf) (fun t =>
      t.time.ref.st == .acquire && t.time.loop.P == fineOf (8000 + 65536)) = true :=
  ⟨⟨by decide +kernel, by decide +kernel⟩, by decide +kernel, by decide +kernel⟩

/-- R26, R50: a SEARCH line whose run is at 7. -/
theorem test_search_stays : after (.lineBoundary 41008)
    (onRef (fun x => { x with searchRun := 7, searchEdge := some 8000 }) (locked []) |> inState .search) (fun t =>
      t.time.ref.st == .search && t.time.ref.searchRun == 7 && t.time.ref.searchEdge == some 8000 &&
      t.time.loop.F == 8388608 && t.time.loop.missRun == 0) = true := by decide +kernel

theorem test_legal_moves : after (.lineBoundary 100) (onLoop (fun l => { l with missRun := 5 }) (locked [])) (fun t =>
    decide (t.time.ref.st ≠ (locked []).time.ref.st)) = true := by decide +kernel

theorem test_acquire :
    after (.lineBoundary 100) (inState .acquire (onRef (fun x => { x with quality := 63 }) (onFt (fun x => { x with fs := .locked })
      (locked [⟨100, .line, .fair, 32⟩])) )) (fun t => t.time.ref.st == .locked) = true ∧
    after (.lineBoundary 100) (inState .acquire (onRef (fun x => { x with quality := 63 }) (locked [⟨100, .line, .fair, 32⟩])))
      (fun t => t.time.ref.st == .acquire && t.time.ref.quality == 64) = true ∧
    after (.lineBoundary 100) (inState .acquire (onRef (fun x => { x with quality := 63 }) (locked [⟨100, .line, .good, 33⟩])))
      (fun t => t.time.ref.quality == 0) = true ∧
    after (.lineBoundary 100) (inState .acquire (onLoop (fun l => { l with missRun := 14 }) (locked []))) (fun t =>
      t.time.ref.st == .acquire && t.time.loop.missRun == 15) = true ∧
    after (.lineBoundary 100) (inState .acquire (onLoop (fun l => { l with missRun := 15 }) (locked []))) (fun t =>
      t.time.ref.st == .search) = true ∧
    after (.lineBoundary 100) (inState .acquire (onRef (fun x => { x with pendingLoss := true }) (locked []))) (fun t =>
      t.time.ref.st == .search) = true := by decide +kernel

/-- R28, R52, R61: the 256th pinned GOOD line in ACQUIRE. -/
theorem test_pinned :
    let near (n : Nat) := inState .acquire (onLoop (fun l => { l with F := fMax .sys625, pinnedRun := n })
      (locked [⟨100, .line, .good, 1024⟩]))
    after (.lineBoundary 100) (near 255) (fun t => t.time.ref.st == .search && t.time.loop.F == fMax .sys625 &&
      t.desk.hp.reports == [⟨.refState .search .acquire .pinned 0, 0⟩, ⟨.freqRange (fMax .sys625) true, 0⟩]) = true ∧
    after (.lineBoundary 100) (near 254) (fun t => t.time.ref.st == .acquire && t.time.loop.pinnedRun == 255) = true := by
  decide +kernel

/-- In HOLD with a candidate, with nothing, and with a new source. -/
theorem test_hold :
    after (.lineBoundary 100) (inState .hold (onRef (fun x => { x with anchor := some 64 }) conf)) (fun t =>
      t.time.ref.st == .probe && t.time.ref.anchor == some 64 && t.time.ref.aging == 1) = true ∧
    after (.lineBoundary 100) (inState .hold conf) (fun t => t.time.ref.st == .hold && t.time.ref.aging == 1) = true ∧
    after (.lineBoundary 41008) (inState .hold (onRef (fun x => { x with newRun := 16, newEdge := some 8000 }) conf)) (fun t =>
      t.time.ref.st == .acquire && t.time.loop.P == fineOf (8000 + 65536)) = true := by decide +kernel

/-- A probe after so many lines with such a tally, a GOOD record in the window of the line that closes. -/
def probing (lines tally : Nat) : State :=
  inState .probe (onRef (fun x => { x with
    anchor := some 64, probeLines := lines, probeTally := tally, probeFirst := some .good }) conf)

theorem test_probe :
    after (.lineBoundary 100) (probing 6 5) (fun t => t.time.ref.st == .probe && t.time.ref.probeTally == 6) = true ∧
    after (.lineBoundary 100) (probing 7 4) (fun t => t.time.ref.st == .hold && t.time.ref.anchor.isNone) = true ∧
    after (.lineBoundary 100) (probing 7 5) (fun t => t.time.ref.st == .locked &&
      t.time.loop.P == fineOf 64 + BitVec.ofInt 28 (9 * 8388608)) = true ∧
    after (.lineBoundary 100) (onRef (fun x => { x with pendingLoss := true }) (probing 7 5)) (fun t =>
      t.time.ref.st == .hold) = true := by decide +kernel

theorem test_aging :
    after (.holdAgingRunsOut 100) (inState .hold (onRef (fun x => { x with aging := 15624 }) conf)) (fun t =>
      t.time.ref.st == .search) = true ∧
    after (.holdAgingRunsOut 100) (inState .hold (onRef (fun x => { x with aging := 15623 }) conf))
      (· == inState .hold (onRef (fun x => { x with aging := 15623 }) conf)) = true := by decide +kernel

/-- The open line is the 316th of a SECOND field in a field state, with the label that a coasted field has. -/
def overdue (fs : FieldSt) (coasts : Nat) : State :=
  onFt (fun x => { x with fs := fs, coasts := coasts, counter := 316, label := .alternation }) conf

theorem test_coasted :
    after (.coastedBoundary 100) (overdue .locked 0) (fun t =>
      t.time.ft.fs == .coast && t.time.ft.coasts == 1 && t.time.ft.counter == 4 && t.time.ft.fc == 1 &&
      t.time.ft.parity == .first) = true ∧
    after (.coastedBoundary 100) (overdue .coast 2) (fun t => t.time.ft.fs == .coast && t.time.ft.coasts == 3) = true ∧
    after (.coastedBoundary 100) (overdue .coast 3) (fun t => t.time.ft.fs == .search && t.time.ft.vwin) = true ∧
    after (.coastedBoundary 100) (overdue .search 0) (fun t => t.time.ft.fs == .search) = true ∧
    after (.coastedBoundary 100) (onFt (fun x => { x with counter := 315 }) conf)
      (· == onFt (fun x => { x with counter := 315 }) conf) = true := by decide +kernel

/-- R58: a probe whose aging count runs out at a line that does not end it well, and one that it does. -/
theorem test_probe_aged :
    let late (lines tally : Nat) := onRef (fun x => { x with aging := 15624 }) (probing lines tally)
    after (.holdAgingRunsOut 100) (late 6 5) (fun t => t.time.ref.st == .search &&
      t.desk.hp.reports == [⟨.refState .search .probe .aged 0, 0⟩]) = true ∧
    after (.lineBoundary 100) (late 7 5) (fun t => t.time.ref.st == .locked) = true := by decide +kernel

/-- LOCKED, with a count candidate and two peers of one parity, as a coasted boundary comes. -/
def agreed : State := inState .locked (onFt (fun x => { x with
  cand := some ⟨3, 5⟩, tally := (x.tally.set 3 (some .first)).set 5 (some .first) }) (overdue .locked 0))

/-- R80, R81: that boundary adopts the count and the parity. R69: the window opens at line 303 and closes at line 10. -/
theorem test_adoption :
    let wide (n : Nat) (vwin : Bool) := onFt (fun x => { x with fs := .locked, counter := n, vwin := vwin }) (locked [])
    agreed.agreesOn .first ∧
    after (.coastedBoundary 100) agreed (fun t => t.time.ft.fc == 4 && t.time.ft.parity == .second &&
      t.time.ft.label == .alternation && t.desk.hp.reports.map QReport.report ==
        [.fieldState .coast .coasting 4 313 .second 0, .countAdopted 0 4 3 5, .parityAdopted .second 2 4]) = true ∧
    after (.lineBoundary 100) (wide 302 false) (fun t => t.time.ft.vwin) = true ∧
    after (.lineBoundary 100) (wide 9 true) (fun t => !t.time.ft.vwin) = true :=
  ⟨⟨rfl, rfl, by decide +kernel, by decide +kernel, by decide +kernel⟩, by decide +kernel, by decide +kernel, by decide +kernel⟩

/-! ## Delivered timing -/

theorem test_hand_over :
    ((conf.time.tdu).handOver false 1 8388608 0 0 .locked 0).inserted = false ∧
    ((onTdu (fun x => { x with D := 70000, slipDet := 2 }) conf).time.tdu.handOver false 1 8388608 0 0 .locked 0).pending =
      [.slipPending 269 0 0] ∧ conf.time.tdu.plan.line ≠ 1 ∧
    (onTdu (fun x => { x with queue := [⟨.slip, false⟩] }) conf).time.tdu.slips = 1 ∧
    ((65536 : Int).natAbs ≤ 65536) := by decide +kernel

theorem test_ranges : State.reset.time.tdu.rangesOk := by
  refine ⟨by decide, by decide, by decide, ?_, ?_⟩ <;> intro x hx <;> cases hx

/-- The open line 1 gets its length with a step of 100 ticks in it; a D three quarters of a line early inserts a line. -/
theorem test_lengths :
    let stepped := { conf.time.tdu with openLine := some ⟨some 1, 0, 896, none, 8388608, 5, 0, 0, 131, some 33⟩, stepX := 25600 }
    ((stepped.handOver false 1 8388608 0 0 .locked 0).tdu.openLine.map (fun o => (o.len, o.baseIx, o.baseNum))) =
      some (some 8414208, 4, 33554432) ∧
    (stepped.handOver false 1 8388608 0 0 .locked 0).tdu.nextStart = 8414208 ∧
    ((conf.time.tdu.handOver false 1 8388608 0 6300000 .locked 0).inserted = true) ∧
    (conf.time.tdu.handOver false 1 8388608 0 6300000 .locked 0).tdu.fixedLines =
      [⟨some 0, 8388608⟩, ⟨some 1, 8388608⟩, ⟨none, 8387584⟩] ∧
    (conf.time.tdu.handOver false 1 8388608 0 6300000 .locked 0).tdu.D = 2087584 := by decide +kernel

/-- R93: a boundary one line early that realigns the plan after VSYNC was given on line 9, not yet handed over: the hand-over
of line 9 still applies the queue, and only that one. -/
theorem test_apply_kept :
    let x := { conf.time.tdu with queue := [⟨.shift 3, false⟩], plan := ⟨9, .first, true, false⟩ }
    let y := x.takeBoundary .sys625 9 8 .first false
    y.applyAt = some 9 ∧ (y.handOver false 8 8388608 0 0 .locked 0).left = [] ∧
    (y.handOver false 9 8388608 0 0 .locked 0).left = [⟨.shift 3, false⟩] ∧
    (y.handOver false 9 8388608 0 0 .locked 0).tdu.applyAt = none ∧
    (x.handOver false 9 8388608 0 0 .locked 0).left = [⟨.shift 3, false⟩] ∧
    ({ x with applyNext := true }.handOver false 3 8388608 0 0 .locked 0).left = [⟨.shift 3, false⟩] := by decide +kernel

/-- R88 to R90: agreement after and before the boundary is given, a realignment, a boundary found early. -/
theorem test_take_boundary :
    let x (given : Bool) := { conf.time.tdu with plan := ⟨9, .first, given, false⟩ }
    ((x true).takeBoundary .sys625 10 9 .first true).slipField = true ∧
    ((x true).takeBoundary .sys625 10 9 .first true).plan = ⟨321, .second, false, false⟩ ∧
    ((x false).takeBoundary .sys625 10 9 .first true).owed = some ⟨9, .first, false, true⟩ ∧
    ((x true).takeBoundary .sys625 10 9 .second false).delParity = .second ∧
    ((x true).takeBoundary .sys625 10 8 .first false).slipField = true ∧
    ((x false).takeBoundary .sys625 10 8 .first false).early = some .first ∧
    ((x false).takeBoundary .sys625 10 8 .first false).applyNext = true := by decide +kernel

/-- R91: the detector's count far out, near, and in HOLD, and with a SLIP queued. -/
theorem test_detector :
    let x (D : Int) (n : Nat) := { conf.time.tdu with D := D, slipDet := n }
    let count (D : Int) (n : Nat) (st : RefSt) := ((x D n).handOver false 1 8388608 0 0 st 0).tdu.slipDet
    (count 70000 0 .locked, count 70000 1 .acquire, count 70000 2 .locked, count 65536 2 .locked, count 70000 2 .hold) =
      (1, 2, 3, 0, 0) ∧
    ((x 70000 1).detectSlip .locked 0).2 = [] ∧ ((x 70000 3).detectSlip .locked 0).1.queue = [⟨.slip, false⟩] ∧
    ({ x 70000 3 with queue := [⟨.slip, false⟩] }.detectSlip .locked 0).2 = [] := by decide +kernel

/-- R93: a SLIP with D far out is clamped at the step limit, in ticks −8192. -/
theorem test_step_limit :
    ((onTdu (fun x => { x with D := 2400000, queue := [⟨.slip, false⟩] }) conf).time.tdu.applied).T = -2097152 := by
  decide +kernel

/-- 5.9: a clamped step. A CONFIGURE's step of H_off comes first; held slips stay. -/
theorem test_clamped_step :
    let x := { conf.time.tdu with
      hoff := 1500, D := -8000 * 256, queue := [⟨.shift 800, false⟩, ⟨.slip, false⟩, ⟨.shift 600, false⟩] }
    let a := x.applied
    (a.T, a.Y, a.D, a.hoff, a.excess) = (8192 * 256, 7645 * 256, -355 * 256, 2047, 853) ∧ a.kept = [] ∧
    a.reports 7 = [.slipDone 7645 (-355) 7] ∧
    ({ x with pendCfg := some ⟨900, 1400, 2⟩ }.applied.hoff, { x with pendCfg := some ⟨900, 1400, 2⟩ }.applied.excess) =
      (2047, 753) ∧
    { x with holdCount := 1 }.applied.kept = [⟨.slip, false⟩] ∧ { x with holdCount := 1 }.applied.T = 547 * 256 := by
  decide +kernel

/-- A delivered line open, its length fixed, at a pixel, and its list waiting. -/
def line (ref : Nat) (pixel : Nat) (s : State) : State :=
  onTdu (fun x => { x with openLine := some ⟨some ref, 0, 896, some 8388608, 8388608, pixel, 0, 0, 0, none⟩ }) s

/-- A list with one CUTOUT span on a keyable line. -/
def list : LineList := ⟨[⟨300, 449, .cutout⟩], 100, 2097152, 896, false, .first, true⟩

theorem test_line_start :
    after .deliveredLineStart (inState .hold ((line 0 896 conf).onDesk (fun d => { d with
      sb := { d.sb with ready := [list] } }))) (fun t =>
      t.time.tdu.hsync && t.desk.ky.permitted && t.desk.ky.line == list && t.desk.sb.ready.isEmpty) = true ∧
    after .deliveredLineStart (onTdu (fun x => { x with
      openLine := some ⟨some 1, 0, 896, none, 8388608, 896, 0, 0, 0, none⟩ }) conf) (fun t => !t.time.tdu.hsync) = true := by
  decide +kernel

/-- R90, R167: a flag set since the list was handed over suppresses the line, as the list's own flag does; so does the flag
that a boundary found early sets at this line's start (R89), and not one that is given at its half-line point. -/
theorem test_slip_reaches_the_next_line :
    let start (l : LineList) (f : Tdu → Tdu) (p : State → Bool) := after .deliveredLineStart
      (inState .hold ((onTdu f (line 0 896 conf)).onDesk (fun d => { d with sb := { d.sb with ready := [l] } }))) p
    start list (fun x => { x with slipField := true }) (fun t => !t.desk.ky.permitted && t.desk.ky.line == list) = true ∧
    start { list with slip := true } id (fun t => !t.desk.ky.permitted) = true ∧
    start list (fun x => { x with early := some .first }) (fun t =>
      !t.desk.ky.permitted && t.time.tdu.toGive == some .first && (t.time.tdu.give t.sys).slipField) = true ∧
    start list (fun x => { x with early := some .second }) (fun t => t.desk.ky.permitted) = true := by decide +kernel

/-- R94, R97, R171: new values at their line and before it; the Span Builder's values of both. -/
theorem test_new_values :
    let next (ref : Nat) := onKy (fun k => { k with keyDelay := 1, delay := [true], key := true }) (onTdu (fun x => { x with
      newVals := some ⟨6, 900, 40, some 3⟩, fixedLines := [⟨some ref, 8388608⟩] }) ((line 4 896 conf).onDesk (fun d =>
        { d with sb := { d.sb with ready := [list] } })))
    after .deliveredLineStart (next 6) (fun t => t.time.tdu.hoff == 40 && t.time.tdu.ppl == 900 &&
      t.desk.ky.delay == [false, false, false] && !t.desk.ky.key && t.time.tdu.newVals.isNone) = true ∧
    after .deliveredLineStart (next 5) (fun t => t.time.tdu.hoff == 0 && t.time.tdu.ppl == 896 &&
      t.desk.ky.delay == [true] && t.desk.ky.key && t.time.tdu.newVals.isSome) = true ∧
    let vals (n : Nat) := (onLoop (fun l => { l with n := n }) (next 6)).time.lineVals
    ((vals 6).hoff, (vals 6).ppl, (vals 5).hoff, (vals 5).ppl) = (40, 900, 0, 896) := by decide +kernel

theorem test_start_without_a_list : (line 0 896 conf).desk.sb.ready.length ≤ 2 ∧
    after .deliveredLineStart ((line 0 896 conf).onDesk (fun d => { d with sb := { d.sb with ready := [] } })) (fun t =>
      t.time.tdu.hsync && !t.desk.ky.permitted && t.desk.ky.line == LineList.empty) = true := by decide +kernel

theorem test_boundary_given :
    after .deliveredBoundaryGiven (line 314 0 conf) (fun t =>
      t.time.tdu.vsync && t.time.tdu.vsyncLeft == 5 && t.time.tdu.delParity == .first && !t.fieldPin) = true ∧
    after .deliveredBoundaryGiven (line 5 0 (onTdu (fun x => { x with owed := some ⟨5, .second, true, true⟩ }) conf))
      (fun t => t.time.tdu.delParity == .second && t.time.tdu.slipField && t.time.tdu.owed.isNone) = true ∧
    after .deliveredBoundaryGiven (line 5 0 (onTdu (fun x => { x with early := some .first }) conf))
      (fun t => t.time.tdu.slipField && t.time.tdu.early.isNone) = true ∧
    after .deliveredBoundaryGiven (line 314 0 (onTdu (fun x => { x with plan := ⟨314, .first, true, false⟩ }) conf))
      (fun t => !t.time.tdu.vsync) = true := by decide +kernel

/-- Keying the list with a delay line. -/
def keying (pixel : Nat) (delay : List Bool) : State :=
  onKy (fun k => { k with line := list, permitted := true, keyDelay := delay.length, delay := delay }) (line 9 pixel conf)

theorem test_pixel :
    after (.pixelClockEdge false) (keying 449 []) (fun t => t.desk.ky.key) = true ∧
    after (.pixelClockEdge true) (keying 449 []) (fun t => !t.desk.ky.key) = true ∧
    after (.pixelClockEdge false) (keying 300 [true, false]) (fun t =>
      t.desk.ky.key && t.desk.ky.delay == [false, true]) = true ∧
    after (.pixelClockEdge false) (keying 895 []) (fun t => !t.desk.ky.key) = true ∧
    after (.pixelClockEdge false) (keying 896 [])  (· == keying 896 []) = true ∧
    after (.pixelClockEdge false) (onPt (fun pt => { pt with joinQuiet := 4 }) (keying 449 [])) (fun t =>
      !t.desk.ky.key) = true := by decide +kernel

/-- R86: a period of 33 is not followed by one of 31; the last edge of a line of a known length lies at its end. -/
theorem test_period :
    (⟨some 1, 0, 1024, some 8388608, 8388608, 2, 0, 0, 33, some 33⟩ : OpenLine).placeTick = 64 ∧
    (⟨some 1, 0, 1024, some 8388608, 8388608, 2, 0, 0, 33, some 33⟩ : OpenLine).edgeTick = 65 ∧
    (⟨some 1, 0, 1024, some 8388608, 8388608, 1024, 7, 0, 32736, some 32⟩ : OpenLine).edgeTick = 32768 := by decide +kernel

theorem test_key_delay : ([true, false, false].length = (keying 0 [true, true, false]).desk.ky.delay.length) := rfl

theorem test_trigger :
    after .trigFallingEdge conf (fun t => t.desk.ce.trigger) = true ∧
    after .trigFallingEdge (conf.onDesk (fun d => { d with ce := { d.ce with trigger := true, lostTriggers := 255 } }))
      (fun t => t.desk.ce.lostTriggers == 255) = true := by decide +kernel

/-! ## The claim bus -/

/-- The bus with a claim of the Cue Engine queued, spent down to an allowance. -/
def queued (line : BusSt) (stage : TxStage) (allowance : Nat) : State :=
  onCbi (fun c => { c with
    line := line, allowance := allowance
    txq := [entry (.claim 7) .cueEngine stage, entry (.recall 3 1) .peerTable .waiting] }) conf

theorem test_idle_bus :
    after .busIdle (bus .wait) (fun t => t.desk.cbi.line == .idle && !t.clbPulled) = true ∧
    after .busIdle (onCbi (fun c => { c with beaconDue := true }) (bus .wait)) (fun t => t.clbPulled) = true ∧
    after .busIdle (queued .wait .waiting 0) (fun t => t.clbPulled) = true ∧
    after .busIdle (bus .sending) (· == bus .sending) = true := by decide +kernel

theorem test_first_fall :
    after .busFirstFall (onCbi (fun c => { c with wire := { c.wire with bits := [true], drive := 3 } }) (bus .idle))
      (fun t => t.desk.cbi.line == .receiving && t.desk.cbi.wire.bits.isEmpty && t.desk.cbi.wire.drive == 3) = true ∧
    after .busFirstFall (onCbi (fun c => { c with beaconDue := true }) (bus .idle)) (fun t =>
      t.desk.cbi.line == .contending && t.desk.cbi.attempt.map (fun a => a.firstRank) == some true) = true ∧
    after .busFirstFall (queued .idle .waiting 1) (fun t =>
      t.desk.cbi.attempt.map (fun a => (a.firstRank, a.continuing)) == some (true, false) &&
      t.desk.cbi.wire.drive == 23) = true ∧
    after .busFirstFall (onCbi (fun c => { c with burst := 1 }) (queued .idle .waiting 0)) (fun t =>
      t.desk.cbi.attempt.map (fun a => (a.firstRank, a.continuing)) == some (false, true) &&
      t.desk.cbi.wire.drive == 7) = true ∧
    after .busFirstFall (bus .wait) (· == bus .wait) = true := by decide +kernel

/-- The bus with one frame waiting, its line in IDLE. -/
def ready (w : TxWhat) : State := onCbi (fun c => { c with txq := [entry w .peerTable .waiting] }) (bus .idle)

/-- R104, R109: the contents and the rank of the other frames; a CLEAR goes ahead of a beacon. -/
theorem test_first_fall_contents :
    let sends (s : State) (first : Bool) (f : FrameContents) := after .busFirstFall s (fun t =>
      t.desk.cbi.attempt.map (fun a => (a.firstRank, a.contents)) == some (first, f))
    sends ((ready (.resend 7)).onDesk (Desk.modSlot 7 (fun x => { x with claim := some claim }))) true (.claim claim true) = true ∧
    sends (ready (.withdraw 7)) true (.withdraw 7) = true ∧
    sends (onCbi (fun c => { c with allowance := 0 }) (ready (.recall 3 1))) false (.recall 3 1) = true ∧
    sends (onCbi (fun c => { c with beaconDue := true, allowance := 0 })
      ((ready .clear).onHp (fun h => { h with configured := false }))) true .clear = true := by decide +kernel

/-- R101, R102: the commands of a frame from its first fall to the idle bus leave no cell held. -/
theorem test_line_released :
    after .busFirstFall (onCbi (fun c => { c with beaconDue := true }) (bus .idle)) (fun a => a.desk.cbi.wire.drive == 23 &&
      after .arbitrationLost a (fun t => !t.clbPulled) &&
      after .arbitrationWon a (fun b => after .attemptSucceeded b (fun t => !t.clbPulled &&
        after .busIdle t (fun u => u.desk.cbi.line == .idle && !u.clbPulled)) &&
        after (.attemptFailed true) b (fun t => !t.clbPulled))) = true := by decide +kernel

/-- R102: the line is pulled for a frame that is ready, and released when REINIT takes the frame before the fall. -/
theorem test_pull_released : (queued .idle .waiting 0).clbPulled = true ∧
    after .reinit (queued .idle .waiting 0) (fun t => !t.clbPulled) = true ∧
    (onCbi (fun c => { c with muted := true }) (queued .idle .waiting 0)).clbPulled = false := by decide +kernel

/-- With an attempt of these contents. -/
def attempting (a : Attempt) (s : State) : State := onCbi (fun c => { c with attempt := some a }) s

/-- A beacon that lists slot 7. -/
def beacon : Beacon := ⟨.locked, true, .first, some 5, 40, 0x80⟩

theorem test_arbitration :
    after .arbitrationLost (queued .contending .contending 1) (fun t =>
      t.desk.cbi.line == .receiving && t.desk.cbi.txq == (queued .contending .waiting 1).desk.cbi.txq) = true ∧
    after .arbitrationLost (bus .contending) (fun t => t.desk.cbi.line == .receiving) = true ∧
    after .arbitrationWon (attempting ⟨true, false, .beacon beacon⟩ (bus .contending)) (fun t =>
      t.desk.cbi.line == .sending && t.desk.cbi.allowance == 4) = true ∧
    after .arbitrationWon (attempting ⟨true, false, .claim claim false⟩ (queued .contending .contending 2)) (fun t =>
      t.desk.cbi.allowance == 1 && t.desk.hp.reports.isEmpty) = true ∧
    after .arbitrationWon (attempting ⟨true, false, .claim claim false⟩ (queued .contending .contending 1)) (fun t =>
      t.desk.cbi.allowance == 0 && t.desk.hp.reports == [⟨.allowanceSpent 0 2, 0⟩]) = true ∧
    after .arbitrationWon (attempting ⟨false, false, .claim claim false⟩ (queued .contending .contending 0)) (fun t =>
      t.desk.cbi.burst == 3) = true ∧
    after .arbitrationWon (attempting ⟨false, true, .claim claim false⟩ (onCbi (fun c => { c with burst := 1 })
      (queued .contending .contending 0))) (fun t => t.desk.cbi.burst == 0) = true := by decide +kernel

/-- R109: a WITHDRAW and a RECALL take from the allowance, a CLEAR does not; the last one posts once a field. -/
theorem test_won :
    let won (f : FrameContents) (first spent : Bool) (p : Cbi → Bool) := after .arbitrationWon (attempting ⟨first, false, f⟩
      (onCbi (fun c => { c with spentPosted := spent }) (queued .contending .contending 1))) (fun t => p t.desk.cbi)
    won (.withdraw 7) true false (fun c => c.allowance == 0 && c.spentPosted) = true ∧
    won (.recall 3 1) true true (fun c => c.allowance == 0 && c.line == .sending) = true ∧
    won (.recall 3 1) false false (fun c => c.allowance == 1 && c.burst == 3) = true ∧
    won .clear true false (fun c => c.allowance == 1 && !c.spentPosted && c.line == .sending) = true := by decide +kernel

/-- R109 to R111: a boundary outside and inside the beacon window; line 10, and the line past the window. -/
theorem test_allowance :
    let d := (onCbi (fun c => { c with allowance := 0, spentPosted := true, burst := 2, beaconSent := true, beaconDue := true })
      conf).desk
    (d.cbiBoundary .sys625 .first 9).cbi = Cbi.reset ∧ (d.cbiBoundary .sys625 .first 10).cbi.beaconDue = true ∧
    (conf.desk.cbiLine .sys625 .first 10).cbi.beaconDue = true ∧ (d.cbiLine .sys625 .first 10) = d ∧
    (d.cbiLine .sys625 .first 303).cbi.beaconDue = false ∧ (d.cbiLine .sys625 .first 302) = d ∧
    after (.lineBoundary 100) (onFt (fun x => { x with counter := 9 }) (locked [])) (fun t => t.desk.cbi.beaconDue) = true := by
  decide +kernel

/-- A frame of the Peer Table in flight with so many failed attempts. -/
def answering (attempts : Nat) : State :=
  attempting ⟨true, false, .recall 3 1⟩ (onCbi (fun c => { c with
    line := .sending, passLock := true
    txq := [{ entry (.recall 3 1) .peerTable .inFlight with attempts := attempts }] }) conf)

theorem test_attempts :
    after .attemptSucceeded (attempting ⟨true, false, .beacon beacon⟩ (cueing .scheduled .running (bus .sending))) (fun t =>
      t.desk.cbi.beaconSent && (t.desk.slot 7).beaconField == some 40) = true ∧
    after .attemptSucceeded (answering 0) (fun t => t.desk.cbi.txq.isEmpty && !t.desk.cbi.passLock) = true ∧
    after (.attemptFailed true) (answering 2) (fun t => t.desk.cbi.line == .receiving &&
      t.desk.cbi.txq.map (fun e => e.attempts) == [3]) = true ∧
    after (.attemptFailed false) (answering 3) (fun t => t.desk.cbi.txq.isEmpty && t.desk.cbi.abandoned == ⟨1, false⟩) = true ∧
    after (.attemptFailed false) (attempting ⟨true, false, .beacon beacon⟩ (onCbi (fun c => { c with
      beaconDue := true, beaconAttempts := 2 }) (bus .sending))) (fun t => t.desk.cbi.beaconAttempts == 3) = true ∧
    after (.attemptFailed false) (attempting ⟨true, false, .beacon beacon⟩ (onCbi (fun c => { c with
      beaconDue := true, beaconAttempts := 3, abandoned := ⟨255, false⟩ }) (bus .sending))) (fun t =>
      !t.desk.cbi.beaconDue && t.desk.cbi.abandoned == ⟨0, true⟩) = true := by decide +kernel

theorem test_sent_claim :
    after .attemptSucceeded (attempting ⟨true, false, .claim claim false⟩
      (cueing .claiming .running (queued .sending .inFlight 3))) (fun t =>
      (t.desk.slot 7).st == .scheduled && (t.desk.slot 7).claim == some claim &&
      t.desk.cbi.txq == [entry (.recall 3 1) .peerTable .waiting]) = true := by
  decide +kernel

/-- R143, R147, R150: a sent claim of a cue marked to end is withdrawn; one that CLEAR_ALL stopped ends with its E. -/
theorem test_sent_and_ended :
    let sent (f : CueSlot → CueSlot) := (attempting ⟨true, false, .claim claim false⟩
      (cueing .claiming .aborting (queued .sending .inFlight 3))).onDesk (Desk.modSlot 7 f)
    after .attemptSucceeded (sent (CueSlot.markEnd true)) (fun t => (t.desk.slot 7).st == .ending &&
      (t.desk.slot 7).claim == some claim && (t.desk.cbi.txq.any (fun e => e.what == .withdraw 7))) = true ∧
    after .attemptSucceeded (sent (fun x => { x with dropAfter := true, cue := { x.cue with notifyEnd := true } })) (fun t =>
      (t.desk.slot 7).st == .loaded &&
      t.desk.hp.reports == [⟨.cue 7 (some 1) .ended 0 2, 0⟩, ⟨.chainDone 1 .aborted 0, 0⟩]) = true := by
  decide +kernel

/-- R143: a CLAIM abandoned at its 4th attempt. R146: a WITHDRAW sent, abandoned, discarded. -/
theorem test_frame_outcomes :
    let flying (w : TxWhat) := attempting ⟨true, false, .withdraw 7⟩ (onCbi (fun c => { c with
      line := .sending, txq := [{ entry w .cueEngine .inFlight with attempts := 3 }] }) conf)
    let ending (s : State) := (cueing .ending .running s).onDesk (Desk.modSlot 7 (fun x =>
      { x with claim := some claim, wdQueued := true, cue := { x.cue with notifyEnd := true, autoFree := true } }))
    let ended (d : Desk) := d.slot 7 == CueSlot.freed && d.hp.reports.head? == some ⟨.cue 7 (some 1) .ended 0 2, 0⟩
    after (.attemptFailed true) (cueing .claiming .running (flying (.claim 7))) (fun t =>
      t.desk.slot 7 == CueSlot.idle .loaded cue && t.desk.cbi.abandoned.count == 1 &&
      t.desk.hp.reports.head? == some ⟨.cue 7 (some 1) .failed 0 0, 0⟩) = true ∧
    after .attemptSucceeded (ending (flying (.withdraw 7))) (fun t => ended t.desk) = true ∧
    after (.attemptFailed false) (ending (flying (.withdraw 7))) (fun t => ended t.desk &&
      t.desk.cbi.abandoned.count == 1) = true ∧
    ended ((ending conf).desk.frameDiscarded 0 (.withdraw 7)) = true := by decide +kernel

theorem test_errors :
    after (.frameError .checkError) receiving (fun t => t.desk.cbi.line == .wait && t.desk.cbi.badCheck.count == 1) = true ∧
    after (.frameError .invalidKind) receiving (fun t => t.desk.cbi.line == .receiving && t.desk.cbi.objected) = true ∧
    after .frameTruncated (onCbi (fun c => { c with objected := true }) receiving) (fun t =>
      t.desk.cbi.line == .wait && t.desk.cbi.truncated.count == 0) = true ∧
    after .frameTruncated receiving (fun t => t.desk.cbi.truncated.count == 1) = true ∧
    after .frameObjected receiving (fun t => t.desk.cbi.line == .wait && t.desk.cbi.badCheck.count == 0) = true := by
  decide +kernel

theorem test_bus_fault :
    after .busFaultEnter receiving (fun t => t.desk.cbi.line == .fault &&
      t.desk.hp.reports == [⟨.busFault false 0, 0⟩]) = true ∧
    after .busFaultEnter (bus .fault) (· == bus .fault) = true ∧
    after .busFaultCleared receiving (· == receiving) = true ∧
    after .busFaultCleared (onFt (fun x => { x with counter := 9 }) (onCbi (fun c => { c with burst := 2 })
      (bus .fault))) (fun t => t.desk.cbi.line == .idle && t.desk.cbi.burst == 0 && !t.desk.cbi.beaconDue) = true ∧
    after .busFaultCleared (onFt (fun x => { x with counter := 303 }) (bus .fault)) (fun t =>
      t.desk.cbi.beaconDue && t.clbPulled) = true := by decide +kernel

/-! ## The cells of the claim bus -/

/-- R107: kind 15 is bad after the 10th cell; kind 3 with a length of 2 bytes only after the 14th. -/
theorem test_bad_jonce :
    (receiving.receiveBit true (List.replicate 10 true)).desk.cbi.objected = true ∧
    (receiving.receiveBit true (List.replicate 6 true ++ [false, false, true, true])).desk.cbi.objected = false ∧
    (receiving.receiveBit true (List.replicate 6 true ++ [false, false, true, true, false, false, true])) = receiving ∧
    (receiving.receiveBit false (List.replicate 6 true ++ [false, false, true, true, false, false, true,
      false])).desk.cbi.badCheck.count = 1 := by decide +kernel

/-- R102, R106: after the objection cell the frame has left the queue and is still in flight; the last end cell ends
it and clears the pass-lock. -/
theorem test_end_cells :
    ((answering 0).ownObjection true).desk.cbi.txq = [] ∧ ((answering 0).ownObjection true).desk.cbi.line = .sending ∧
    ((answering 0).ownObjection true).desk.cbi.passLock = true ∧
    ((answering 0).ownObjection true).endFrame.desk.cbi.line = .wait ∧
    ((answering 0).ownObjection true).endFrame.desk.cbi.passLock = false := by decide +kernel

/-- R117: on a line that stays low a sender begins its next cell by its own count. -/
theorem test_stuck_cell :
    ((onCbi (fun c => { c with wire := { c.wire with high := false, inCell := 31, sampled := true } })
      (answering 0)).busTick true).desk.cbi.wire.inCell = 0 := by decide +kernel

/-! ## Frames of peers -/

/-- Station 3 with a presence, a dropped id 7 and a stored claim. -/
def knows (p : Presence) (seen : Bool) : State :=
  onPt (fun pt => { pt.modPeer 3 (fun x => { x with presence := p, seen := seen, dropped := 0x80, missed := 1 }) with
    store := [⟨3, { claim with id := 8 }, false⟩] }) receiving

theorem test_hears : receiving.hears 3 ∧ receiving.straps.stn = 0 := by
  refine ⟨⟨rfl, rfl, rfl, ?_⟩, rfl⟩; decide

theorem test_beacon :
    after (.beaconReceived 3 0xA000000000000000) (knows .present false) (fun t =>
      t.desk.pt == (knows .present false).desk.pt && t.desk.cbi.line == .wait) = true ∧
    after (.beaconReceived 3 (encodeBeacon beacon)) (knows .absent false) (fun t =>
      (t.desk.pt.peer 3).presence == .joining && (t.desk.pt.peer 3).missed == 0 && t.desk.pt.store.isEmpty) = true ∧
    after (.beaconReceived 3 (encodeBeacon beacon)) (knows .joining false) (fun t =>
      (t.desk.pt.peer 3).presence == .present) = true ∧
    after (.beaconReceived 3 (encodeBeacon beacon)) (knows .joining true) (fun t =>
      (t.desk.pt.peer 3).presence == .joining) = true ∧
    after (.beaconReceived 3 (encodeBeacon beacon)) (knows .silent false) (fun t =>
      (t.desk.pt.peer 3).presence == .present && (t.desk.pt.peer 3).dropped == 0x80) = true ∧
    after (.beaconReceived 3 (encodeBeacon { beacon with fc := 32767 }))
      (onFt (fun x => { x with fs := .locked }) (knows .present false)) (fun t =>
      t.time.ft.cand == some ⟨32767, 3⟩ && t.time.ft.tallyEntries == [.first]) = true := by decide +kernel

/-- R129: RECALLs for the missing ids of a live set, lowest first; 4 in a field, and as long as there is room. -/
theorem test_recalls :
    let asks (s : State) (ids : List Slot) := after (.beaconReceived 3 (encodeBeacon { beacon with live := 0x7F80 })) s (fun t =>
      t.desk.cbi.txq.drop s.desk.cbi.txq.length == ids.map (fun i => entry (.recall 3 i) .peerTable .waiting) &&
      t.desk.pt.recalls == s.desk.pt.recalls + ids.length)
    asks (knows .present false) [9, 10, 11, 12] = true ∧
    asks (onPt (fun pt => { pt with recalls := 3 }) (knows .present false)) [9] = true ∧
    asks (onCbi (fun c => { c with txq := List.replicate 6 (entry (.recall 1 1) .peerTable .waiting) })
      (knows .present false)) [9, 10] = true ∧
    asks ((knows .present false).onHp (fun h => { h with configured := false })) [] = true := by decide +kernel

theorem test_claim :
    after (.claimReceived 3 (encodeClaim claim false)) (knows .present false) (fun t =>
      t.desk.pt.stores 3 7 && t.desk.pt.stores 3 8 && (t.desk.pt.peer 3).dropped == 0) = true ∧
    after (.claimReceived 3 (encodeClaim { claim with bottom := 320 } false)) (knows .present false) (fun t =>
      !t.desk.pt.stores 3 7 && (t.desk.pt.peer 3).dropped == 0x80) = true ∧
    after (.claimReceived 3 (encodeClaim claim true)) (knows .present false) (fun t =>
      t.desk.pt == (knows .present false).desk.pt) = true := by decide +kernel

/-- A resend of an id in the sender's live set is stored. -/
theorem test_resend : after (.claimReceived 3 (encodeClaim claim true)) (onPt (fun pt => pt.modPeer 3
    (fun x => { x with last := some beacon })) (knows .present false)) (fun t => t.desk.pt.stores 3 7) = true := by
  decide +kernel

/-- R155: a resend of an applied claim keeps the mark for the same E, and clears it for another. -/
theorem test_mark :
    let had := onPt (fun pt => { pt with store := [⟨3, claim, true⟩] }) (knows .present false)
    let marks (c : Claim) := after (.claimReceived 3 (encodeClaim c false)) had (fun t =>
      t.desk.pt.store.map StoreEntry.applied == [decide (c.e = claim.e)])
    marks claim = true ∧ marks { claim with e := 9 } = true := by decide +kernel

/-- A full store: two stations with 32 claims each, layer 5. -/
def full : Pt :=
  { Pt.reset with store := (List.finRange 32).map (fun i => ⟨1, { claim with id := i }, false⟩) ++
      (List.finRange 32).map (fun i => ⟨2, { claim with id := i }, false⟩) }

theorem test_full_store : full.store.length = 64 ∧ full.stores 3 7 = false ∧
    (∀ e ∈ full.store, (⟨3, claim, false⟩ : StoreEntry).ranksAbove e = false) ∧
    (∀ e ∈ full.store, e ≠ ⟨2, { claim with id := 31 }, false⟩ →
      e.ranksAbove ⟨2, { claim with id := 31 }, false⟩ = true) ∧
    (⟨3, { claim with layer := 6 }, false⟩ : StoreEntry).ranksAbove ⟨2, { claim with id := 31 }, false⟩ = true ∧
    (full.placeClaim 3 claim).store = full.store ∧
    (full.placeClaim 3 { claim with layer := 6 }).stores 2 31 = false := by decide +kernel

/-- A claim evicts the sender's own lowest entry. -/
theorem test_own_eviction :
    let own : Pt := { full.removeEntry 2 31 with store := (full.removeEntry 2 31).store ++ [⟨4, claim, false⟩] }
    own.store.length = 64 ∧ (own.placeClaim 4 { claim with id := 9, layer := 6 }).stores 4 9 = true ∧
    (own.placeClaim 4 { claim with id := 9, layer := 6 }).stores 4 7 = false ∧
    IdSet.has ((own.placeClaim 4 { claim with id := 9, layer := 6 }).peer 4).dropped 7 = true := by decide +kernel

theorem test_full_store_ok : full.storeOk := ⟨by decide +kernel, by decide +kernel⟩

theorem test_withdraw :
    after (.withdrawReceived 3 (encodeWithdraw 8)) (knows .present false) (fun t => t.desk.pt.store.isEmpty) = true ∧
    after (.withdrawReceived 3 (encodeWithdraw 7)) (knows .present false) (fun t =>
      t.desk.pt.store.length == 1 && (t.desk.pt.peer 3).dropped == 0) = true := by decide +kernel

theorem test_recall :
    after (.recallReceived 3 (encodeRecall 1 7)) receiving (fun t => t.desk.cbi.txq.isEmpty) = true ∧
    after (.recallReceived 3 (encodeRecall 0 7)) (cueing .onAir .running receiving) (fun t =>
      t.desk.cbi.txq == [entry (.resend 7) .peerTable .waiting]) = true ∧
    after (.recallReceived 3 (encodeRecall 0 7)) (onCbi (fun c => { c with passLock := true }) receiving) (fun t =>
      t.desk.cbi.txq == [entry (.withdraw 7) .peerTable .waiting]) = true ∧
    after (.recallReceived 3 (encodeRecall 0 7)) (onCbi (fun c => { c with
      txq := [entry (.recall 1 1) .peerTable .waiting] }) receiving) (fun t => t.desk.cbi.passLock &&
      t.desk.cbi.txq == [entry (.withdraw 7) .peerTable .waiting, entry (.recall 1 1) .peerTable .waiting]) = true ∧
    after (.recallReceived 3 (encodeRecall 0 7)) (onCbi (fun c => { c with
      txq := List.replicate 8 (entry (.recall 1 1) .peerTable .waiting) }) receiving) (fun t =>
      t.desk.cbi.txq.length == 8) = true := by decide +kernel

theorem test_clear :
    after (.clearReceived 3) (onPt (fun pt => { pt with accept := 0xFFF7 }) (cueing .onAir .running receiving)) (fun t =>
      (t.desk.slot 7).st == .onAir && t.desk.hp.reports == [⟨.clearSeen 3 false 0, 0⟩]) = true ∧
    after (.clearReceived 3) (cueing .onAir .running (knows .present false)) (fun t =>
      (t.desk.slot 7).st == .ending && t.desk.pt.store.isEmpty && t.desk.ky.stop == .nextLine) = true := by decide +kernel

theorem test_mute :
    after (.clearReceived 0) (cueing .onAir .running receiving) (fun t =>
      t.desk.cbi.muted && (t.desk.slot 7).st == .loaded && (t.desk.chain 1).st == .idle &&
      t.desk.hp.reports.length == 2) = true := by decide +kernel

/-! ## The host port -/

theorem test_strobe :
    after (.requestByteStrobe (.asserted 5)) (conf.onHp (fun h => { h with inbound := List.replicate 63 0 })) (fun t =>
      t.desk.hp.pack && t.desk.hp.inbound.length == 64) = true ∧
    after (.requestByteStrobe (.asserted 5)) (conf.onHp (fun h => { h with inbound := List.replicate 64 0 })) (fun t =>
      !t.desk.hp.pack && t.desk.hp.held == some 5) = true ∧
    after (.requestByteStrobe (.asserted 5)) (conf.onHp (fun h => { h with prdy := true })) (fun t =>
      t.desk.hp.held == some 5) = true ∧
    after (.requestByteStrobe .released) (conf.onHp (fun h => { h with hstb := true, pack := true })) (fun t =>
      !t.desk.hp.pack) = true := by decide +kernel

theorem test_framer : requestLength 0x0B = some 2 ∧ parseRequest 0x0B [0xFF, 0x00] = some (.shift 0xFF00) ∧
    requestLength 0x0E = some 0 ∧ parseRequest 0x0E [] = some .fence := by decide +kernel

theorem test_malformed :
    after (.malformedRequest 0x10 255) conf (fun t => t.desk.hp.framer == .skip 255 &&
      t.desk.hp.reports == [⟨.refused 0x10 .unknownKind 0, 0⟩]) = true ∧
    after (.malformedRequest 0x0B 0) conf (fun t => t.desk.hp.framer == .kind &&
      t.desk.hp.reports == [⟨.refused 0x0B .badLength 0, 0⟩]) = true ∧
    after (.malformedRequest 0x0B 2) conf (· == conf) = true := by decide +kernel

/-- 11.2: a LOAD_CUE record, and the bytes of a CUE and a SLIP_DONE report. -/
theorem test_layouts :
    parseRequest 0x04 [0x87, 0, 100, 0, 21, 0, 100, 0, 200, 5, 0xC4, 0x12, 3, 0, 0, 1, 0, 8] = some (.loadCue
      ⟨none, 100, 21, 100, 200, 5, .cutout, true, false, false, false, true, 1, 2, .afterPrevious, 0, 256, some 8⟩) ∧
    (⟨.cue 7 (some 1) .ended 258 2, 4⟩ : QReport).bytes = [0x82, 8, 4, 7, 1, 1, 1, 2, 0, 2] ∧
    (⟨.slipDone 7645 (-355) 1, 0⟩ : QReport).bytes = [0x87, 11, 0, 0, 0, 0x1D, 0xDD, 0xFF, 0xFF, 0xFE, 0x9D, 0, 1] ∧
    layoutBytes [(2, -1), (1, 3)] = [0xFF, 0xFF, 3] := by decide +kernel

/-- With a FENCE_DONE record queued. -/
def reporting : State := conf.onHp (fun h => { h with reports := [⟨.fenceDone 5, 0⟩] })

theorem test_read_out :
    after .reportTransferStart reporting (fun t => t.desk.hp.hd == some 0x91 && t.desk.hp.prdy &&
      t.desk.hp.transfer == some [0x91, 3, 0, 0, 5] && !t.attn) = true ∧
    after .reportTransferStart conf (· == conf) = true ∧
    after (.reportByteAcknowledge true) (conf.onHp (fun h => { h with prdy := true, transfer := some [1, 2] })) (fun t =>
      !t.desk.hp.prdy && t.desk.hp.transfer == some [2]) = true ∧
    after (.reportByteAcknowledge false) (conf.onHp (fun h => { h with hack := true, transfer := some [2] })) (fun t =>
      t.desk.hp.prdy && t.desk.hp.hd == some 2) = true ∧
    after .reportTransferEnd (conf.onHp (fun h => { h with prdy := true, transfer := some [2] })) (fun t =>
      t.desk.hp.transfer.isNone) = true ∧
    after .reportTransferEnd conf (· == conf) = true := by decide +kernel

/-- The fields of a STATUS with a shift excess and two wrap flags. -/
def status : StatusFields :=
  { conf.statusOf with shiftExcess := 32767, badCheck := ⟨3, true⟩, truncated := ⟨1, false⟩ }

theorem test_coalesce_status :
    postReport 9 (.status { conf.statusOf with shiftExcess := 5, truncated := ⟨2, true⟩ }) [⟨.status status, 0⟩] =
      [⟨.status { status with badCheck := ⟨0, true⟩, truncated := ⟨2, true⟩ }, 1⟩] ∧
    (postReport 9 (.fenceDone 9) (((List.finRange 15).map (fun i =>
      (⟨.cue (Fin.castLE (by omega) i) none .ended 8 0, 0⟩ : QReport))) ++ [⟨.overflow 0x81 7, 4⟩])).getLast? =
      some ⟨.overflow 0x91 9, 5⟩ ∧
    after .statusQuery (onTdu (fun x => { x with shiftExcess := -3 }) (conf.onHp (fun h => { h with
      reports := [⟨.status status, 0⟩] }))) (fun t => t.time.tdu.shiftExcess == 0 && t.desk.hp.reports ==
      [⟨.status { status with shiftExcess := 32764, badCheck := ⟨0, true⟩, truncated := ⟨0, false⟩ }, 1⟩]) = true := by
  decide +kernel

theorem test_coalesce :
    postReport 9 (.fenceDone 9) [⟨.slot 1, 0⟩, ⟨.fenceDone 5, 255⟩] = [⟨.slot 1, 0⟩, ⟨.fenceDone 9, 255⟩] ∧
    postReport 9 (.cue 3 none .ended 9 0) [⟨.cue 2 none .ended 8 0, 0⟩] =
      [⟨.cue 2 none .ended 8 0, 0⟩, ⟨.cue 3 none .ended 9 0, 0⟩] ∧
    (postReport 9 (.fenceDone 9) ((List.finRange 15).map (fun i => ⟨.cue (Fin.castLE (by omega) i) none .ended 8 0, 0⟩))).length
      = 16 := by decide +kernel

/-! ## Requests -/

theorem test_refused :
    after .fence State.reset (fun t => t.desk.hp.reports == [⟨.refused 0x0E .unconfigured 0, 0⟩]) = true ∧
    after (.configure 0 0 0 0) conf (fun t => t.desk.hp.reports == [⟨.refused 1 .alreadyConfigured 0, 0⟩]) = true ∧
    after .clearAll (onCbi (fun c => { c with muted := true }) conf) (fun t =>
      t.desk.hp.reports == [⟨.refused 0x0F .muted 0, 0⟩]) = true ∧
    after .recentre (onCbi (fun c => { c with muted := true }) conf) (fun t => t.time.ref.latch) = true := by
  decide +kernel

theorem test_configure :
    after (.configure 639 0x8000 8 3) State.reset (fun t => t.desk.hp.configured && t.desk.pt.joinQuiet == 4 &&
      t.time.tdu.pendCfg == some ⟨640, -2048, 7⟩ && !t.desk.cbi.beaconDue) = true ∧
    after (.configure 1281 2048 7 3) (onFt (fun x => { x with counter := 10 }) State.reset) (fun t =>
      t.time.tdu.pendCfg == some ⟨1280, 2047, 7⟩ && t.desk.cbi.beaconDue) = true := by decide +kernel

theorem test_reinit : after .reinit (cueing .onAir .running (queued .wait .waiting 2)) (fun t =>
    !t.desk.hp.configured && t.desk.cbi.txq.isEmpty && (t.desk.slot 7).st == .free) = true := by decide +kernel

theorem test_status :
    after .statusQuery (onCbi (fun c => { c with badCheck := ⟨3, true⟩ }) conf) (fun t =>
      t.desk.cbi.badCheck == ⟨3, false⟩ && t.desk.hp.reports.length == 1) = true ∧
    after .statusQuery (conf.onHp (fun h => { h with
      reports := (List.finRange 15).map (fun i => ⟨.cue (Fin.castLE (by omega) i) none .ended 8 0, 0⟩) })) (fun t =>
      t.desk.hp.reports.any isOverflow) = true := by decide +kernel

/-- A LOAD_CUE for a slot, with a region past the picture's edges. -/
def load (slot : Option Slot) : LoadCue :=
  ⟨slot, 319, 500, 895, 0, 200, .fill, true, false, false, false, false, 0, 0, .immediate, 0, 0, none⟩

theorem test_taken : conf.taken := ⟨rfl, rfl, rfl⟩

theorem test_load :
    after (.loadCue (load (some 31))) conf (fun t => (t.desk.slot 31).st == .loaded && t.desk.ce.free.length == 31 &&
      (t.desk.slot 31).cue.height == 1 && (t.desk.slot 31).cue.width == 1 && (t.desk.slot 31).cue.layer == 15) = true ∧
    after (.loadCue (load none)) conf (fun t => t.desk.hp.reports == [⟨.slot 0, 0⟩]) = true ∧
    after (.loadCue (load none)) (conf.onDesk (fun d => { d with ce := { d.ce with free := [] } })) (fun t =>
      t.desk.hp.reports == [⟨.refused 4 .noSlot 0, 0⟩]) = true ∧
    after (.loadCue (load (some 7))) (cueing .armed .running conf) (fun t =>
      t.desk.hp.reports == [⟨.refused 4 .busy 0, 0⟩]) = true ∧
    after (.loadCue (load (some 7))) (cueing .ending .running conf) (fun t =>
      t.desk.hp.reports == [⟨.refused 4 .live 0, 0⟩]) = true ∧
    after (.freeCue 7) (loaded cue conf) (fun t => t.desk.ce.free.getLast? == some 7) = true ∧
    after (.freeCue 7) conf (fun t => t.desk.hp.reports == [⟨.refused 5 .notLoaded 0, 0⟩]) = true := by decide +kernel

theorem test_start :
    after (.startChain 1 7) (loaded { cue with start := .onTrigger } conf) (fun t =>
      (t.desk.slot 7).st == .armed && (t.desk.chain 1).st == .running) = true ∧
    after (.startChain 1 7) (loaded cue conf) (fun t => (t.desk.slot 7).st == .claiming &&
      t.desk.cbi.txq == [entry (.claim 7) .cueEngine .waiting]) = true ∧
    after (.startChain 1 7) conf (fun t => t.desk.hp.reports == [⟨.refused 6 .notLoaded 0, 0⟩]) = true ∧
    after (.startChain 2 7) (cueing .armed .running conf) (fun t =>
      t.desk.hp.reports == [⟨.refused 6 .live 0, 0⟩]) = true ∧
    after (.startChain 1 8) (cueing .armed .running conf) (fun t =>
      t.desk.hp.reports == [⟨.refused 6 .busy 0, 0⟩]) = true := by decide +kernel

theorem test_pause :
    after (.pauseChain 1) (cueing .onAir .running conf) (fun t => (t.desk.chain 1).st == .paused) = true ∧
    after (.resumeChain 1) (cueing .onAir .paused conf) (fun t => (t.desk.chain 1).st == .running) = true ∧
    after (.pauseChain 1) conf (fun t => t.desk.hp.reports == [⟨.refused 7 .notRunning 0, 0⟩]) = true ∧
    after (.resumeChain 1) (cueing .ending .aborting conf) (fun t =>
      t.desk.hp.reports == [⟨.refused 8 .busy 0, 0⟩]) = true ∧
    after (.withdrawCue 7) (cueing .onAir .running conf) (fun t => (t.desk.slot 7).endOrdered) = true ∧
    after (.withdrawCue 7) (cueing .ending .running conf) (· == cueing .ending .running conf) = true ∧
    after (.withdrawCue 7) conf (fun t => t.desk.hp.reports == [⟨.refused 10 .notLoaded 0, 0⟩]) = true ∧
    after (.withdrawCue 7) (loaded cue conf) (fun t => t.desk.hp.reports == [⟨.refused 10 .notRunning 0, 0⟩]) = true := by
  decide +kernel

/-- Slot 7 CLAIMING in a RUNNING chain with its CLAIM at a stage. -/
def claimingAt (stage : TxStage) : State := cueing .claiming .running (queued .wait stage 2)

theorem test_withdraw_claiming :
    after (.withdrawCue 7) (claimingAt .waiting) (fun t => t.desk.slot 7 == CueSlot.idle .loaded cue &&
      (t.desk.cbi.claimEntry 7).isNone) = true ∧
    after (.withdrawCue 7) (claimingAt .contending) (fun t => (t.desk.slot 7).endAfter &&
      (t.desk.slot 7).withdrawn && t.desk.cbi == (claimingAt .contending).desk.cbi) = true ∧
    after (.withdrawCue 7) ((claimingAt .waiting).onDesk (Desk.modSlot 7 (CueSlot.markEnd false))) (fun t =>
      t.desk.cbi == (claimingAt .waiting).desk.cbi && (t.desk.slot 7).st == .claiming) = true := by decide +kernel

/-- R147, R148: the first WITHDRAW_CUE on a cue that an abort has marked, its attempt failed, removes its frame. -/
theorem test_withdraw_aborted :
    after (.withdrawCue 7) ((cueing .claiming .aborting (queued .wait .waiting 2)).onDesk
      (Desk.modSlot 7 (CueSlot.markEnd true))) (fun t => t.desk.slot 7 == CueSlot.idle .loaded cue &&
      (t.desk.cbi.claimEntry 7).isNone && (t.desk.chain 1).st == .idle) = true := by decide +kernel

theorem test_abort_claiming :
    after (.abortChain 1) (claimingAt .waiting) (fun t => t.desk.slot 7 == CueSlot.idle .loaded cue &&
      (t.desk.cbi.claimEntry 7).isNone && (t.desk.chain 1).st == .idle) = true ∧
    after (.abortChain 1) (claimingAt .contending) (fun t => (t.desk.slot 7).endAfter &&
      (t.desk.cbi.claimEntry 7).map (fun e => e.removeAsked) == some true) = true ∧
    after (.abortChain 1) (claimingAt .inFlight) (fun t => (t.desk.slot 7).endAfter &&
      (t.desk.cbi.claimEntry 7).map (fun e => e.removeAsked) == some false) = true := by decide +kernel

theorem test_abort :
    after (.abortChain 1) (cueing .armed .running conf) (fun t => (t.desk.slot 7).st == .loaded &&
      (t.desk.chain 1).st == .idle && t.desk.hp.reports == [⟨.chainDone 1 .aborted 0, 0⟩]) = true ∧
    after (.abortChain 1) (cueing .onAir .paused conf) (fun t => (t.desk.slot 7).endOrdered &&
      (t.desk.chain 1).st == .aborting) = true ∧
    after (.abortChain 1) conf (fun t => t.desk.hp.reports == [⟨.refused 9 .notRunning 0, 0⟩]) = true ∧
    after (.abortChain 1) (cueing .ending .aborting conf) (fun t =>
      t.desk.hp.reports == [⟨.refused 9 .busy 0, 0⟩]) = true := by decide +kernel

theorem test_clear_all : after .clearAll (cueing .claiming .running (queued .wait .waiting 2)) (fun t =>
    t.desk.cbi.txq == [entry .clear .cueEngine .waiting] && (t.desk.slot 7).st == .loaded &&
    (t.desk.chain 1).st == .idle) = true := by decide +kernel

/-- With so many SHIFT entries queued. -/
def shifts (n : Nat) (s : State) : State := onTdu (fun x => { x with queue := List.replicate n ⟨.shift 1, false⟩ }) s

theorem test_timing_requests :
    after (.shift 0x7FFF) (shifts 2 conf) (fun t => t.time.tdu.queue.getLast? == some ⟨.shift 1024, false⟩ &&
      t.time.tdu.shiftExcess == 31743) = true ∧
    after (.shift 1) (shifts 3 conf) (fun t => t.desk.hp.reports == [⟨.refused 11 .queueFull 0, 0⟩]) = true ∧
    after .recentre (shifts 2 (inState .locked conf)) (fun t => t.time.tdu.hostEntries == 3) = true ∧
    after .recentre (shifts 3 (inState .locked conf)) (fun t =>
      t.desk.hp.reports == [⟨.refused 12 .queueFull 0, 0⟩]) = true ∧
    after .recentre (shifts 3 conf) (fun t => t.time.ref.latch && t.desk.hp.reports.isEmpty) = true ∧
    after (.holdSlips 251) conf (fun t => t.time.tdu.holdCount == 250) = true := by decide +kernel

/-- R63: the latch at the line boundary that enters LOCKED, with room and with 3 host entries, and at a hand-over at which a
host entry leaves; R176: SHIFT and FENCE of a muted station. -/
theorem test_latch :
    let latched := onRef (fun x => { x with latch := true })
    let proven (n : Nat) := latched (shifts n (probing 7 5))
    let muted := onCbi (fun c => { c with muted := true }) conf
    let leaving := latched (onTdu (fun x => { x with applyNext := true }) (shifts 3 (locked [])))
    after (.lineBoundary 100) (proven 2) (fun t => !t.time.ref.latch &&
      t.time.tdu.queue.map AdjEntry.kind == [.shift 1, .shift 1, .recentre]) = true ∧
    after (.lineBoundary 100) (proven 3) (fun t => t.time.ref.latch && t.time.tdu.queue.length == 3) = true ∧
    after (.lineBoundary 100) leaving (fun t => !t.time.ref.latch && t.time.tdu.queue.map AdjEntry.kind == [.recentre]) = true ∧
    muted.serves ∧ after (.shift 3) muted (fun t => t.time.tdu.queue == [⟨.shift 3, false⟩]) = true ∧
    after .fence muted (fun t => t.desk.hp.reports == [⟨.fenceDone 0, 0⟩]) = true := by
  refine ⟨by decide +kernel, by decide +kernel, by decide +kernel, ⟨rfl, rfl⟩, by decide +kernel, by decide +kernel⟩

theorem test_fence :
    after .fence conf (fun t => t.desk.hp.reports == [⟨.fenceDone 0, 0⟩]) = true ∧
    after .fence (shifts 1 conf) (fun t => t.desk.hp.fence && t.desk.hp.fenceLeft == 1) = true ∧
    after .fence (conf.onHp (fun h => { h with fence := true })) (fun t =>
      t.desk.hp.reports == [⟨.refused 14 .busy 0, 0⟩]) = true ∧
    ((conf.onHp (fun h => { h with fence := true, fenceLeft := 1 })).desk.itemLeft 4 true).hp.reports =
      [⟨.fenceDone 4, 0⟩] ∧
    ((conf.onHp (fun h => { h with fence := true, fenceLeft := 2 })).desk.itemLeft 4 true).hp.fenceLeft = 1 := by
  decide +kernel

/-! ## Cues, spans, encodings, invariants -/

/-- Slot 7 SCHEDULED with its E reached and its beacon sent. -/
def scheduled : Desk :=
  (cueing .scheduled .running conf).desk.modSlot 7
    (fun x => { x with claim := some claim, beaconField := some 1, predEnded := true, cue := { cue with duration := 9 } })

theorem test_on_air : ((scheduled.ceBoundary 2).slot 7).st = .onAir ∧ ((scheduled.ceBoundary 1).slot 7).st = .scheduled ∧
    (scheduled.slot 7).cue.announce = true := by decide +kernel

/-- Slot 7 on air with a record, a remaining count and its successor in slot 8. -/
def onAir (c : CueRec) (remaining : Nat) : Desk :=
  ((cueing .onAir .running conf).desk.modSlot 7 (fun x => { x with
    cue := { c with next := some 8 }, claim := some claim, remaining := remaining })).modChain 1 (fun x => { x with onAir := some 7 })

/-- Slot 8 LOADED with that start mode. -/
def following (m : StartMode) (d : Desk) : Desk := d.loadSlot 8 { cue with start := m }

/-- R145: a count, its end with the WITHDRAW and the successor, an end by order, demand-end, a PAUSED chain. -/
theorem test_endings :
    (((onAir { cue with duration := 9 } 5).ceBoundary 2).slot 7).remaining = 4 ∧
    (((onAir { cue with duration := 9 } 1).ceBoundary 2).slot 7).st = .ending ∧
    ((onAir { cue with duration := 9 } 1).ceBoundary 2).cbi.txq = [entry (.withdraw 7) .cueEngine .waiting] ∧
    (((onAir { cue with duration := 9, announce := false } 1).ceBoundary 2).slot 7).st = .loaded ∧
    ((((onAir cue 0).modSlot 7 (fun x => { x with endOrdered := true })).ceBoundary 2).slot 7).st = .ending ∧
    ((({ onAir { cue with demandEnd := true } 0 with ce := { (onAir { cue with demandEnd := true } 0).ce with
      trigger := true } } : Desk).ceBoundary 2).slot 7).st = .ending ∧
    ((((onAir { cue with duration := 9 } 1).modChain 1 (fun x => { x with st := .paused })).ceBoundary 2).slot 7).remaining = 1 := by
  decide +kernel

/-- R142, R145: a SCHEDULED successor goes on air as its predecessor ends; a LOADED one is armed, a live one waited for, a
FREE one breaks the chain. -/
theorem test_succession :
    let d := onAir { cue with duration := 9 } 1
    let e : EndedCue := ⟨7, some 1, some 8, false⟩
    (((d.modSlot 8 (fun _ => { CueSlot.idle .scheduled cue with
      chain := some 1, pred := some 7, claim := some claim, beaconField := some 1 })).ceBoundary 2).slot 8).st = .onAir ∧
    ((following .afterPrevious d).stepSucceed 2 e).slot 8 =
      { CueSlot.idle .armed { cue with start := .afterPrevious } with
        chain := some 1, pred := some 7, predEnded := true, held := true } ∧
    (((following .onTrigger d).stepSucceed 2 e).slot 8).held = false ∧
    ((d.modSlot 8 (fun x => { x with st := .ending })).stepSucceed 2 e).chain 1 =
      { d.chain 1 with waiting := some ⟨8, 7, true⟩ } ∧
    ((d.stepSucceed 2 e).chain 1).broken = true ∧
    (((d.modSlot 7 (fun x => { x with st := .loaded })).stepSucceed 2 e).chain 1).st = .idle := by decide +kernel

/-- R145: pre-roll with 3 and with 4 fields left. -/
theorem test_preroll :
    (((following .immediate (onAir { cue with duration := 9 } 3)).stepPreroll 2 7).slot 8).st = .claiming ∧
    (((following .afterPrevious (onAir { cue with duration := 9 } 1)).stepPreroll 2 7).slot 8).st = .armed ∧
    (following .immediate (onAir { cue with duration := 9 } 4)).stepPreroll 2 7 =
      following .immediate (onAir { cue with duration := 9 } 4) := by decide +kernel

/-- R149: the edge starts an armed ON_TRIGGER cue of a RUNNING chain, and is gone. -/
theorem test_edge :
    let d := ((cueing .armed .running conf).desk.modSlot 7 (fun x => { x with cue := { cue with start := .onTrigger } })).modChain 1
      (fun c => { c with armed := some 7 })
    let e : Desk := { d with ce := { d.ce with trigger := true } }
    e.consumers = [1] ∧ ((e.stepTrigger e.consumers).slot 7).held = true ∧ (e.ceBoundary 2).ce.trigger = false ∧
    (e.modChain 1 (fun c => { c with st := .paused })).consumers = [] := by decide +kernel

/-- R140, R144: an unannounced cue that was held goes on air, is held by 16 live cues with one REGION_FULL, and waits for a
place in its chain; one whose condition has just come to hold waits for the next boundary. -/
theorem test_unannounced :
    let d := (cueing .armed .running conf).desk.modSlot 7 (fun x =>
      { x with cue := { cue with announce := false, duration := 9, notifyStart := true }, held := true, predEnded := true })
    let crowd (n : Nat) (h : Option ChainNo) (d : Desk) : Desk := (List.range n).foldl (fun (x : Desk) i =>
      x.modSlot (Fin.ofNat 32 (8 + i)) (fun _ => { CueSlot.idle .onAir CueRec.blank with chain := h })) d
    ((d.ceBoundary 2).slot 7).st = .onAir ∧ ((d.ceBoundary 2).slot 7).remaining = 9 ∧
    (d.ceBoundary 2).hp.reports = [⟨.cue 7 (some 1) .onAir 2 0, 0⟩] ∧ (d.stepOnAir 2 [] 7) = d ∧
    (((d.modSlot 7 (fun x => { x with held := false })).ceBoundary 2).slot 7).st = .armed ∧
    (((crowd 16 none d).ceBoundary 2).slot 7).st = .armed ∧
    ((crowd 16 none d).ceBoundary 2).hp.reports = [⟨.regionFull 7 (some 1) 2, 0⟩] ∧
    ((crowd 2 (some 1) d).stepOnAir 2 [7] 7) = crowd 2 (some 1) d := by decide +kernel

/-- R145, logs 20 and 52: a succession in a PAUSED chain, and RESUME_CHAIN after it. -/
theorem test_paused_succession :
    let d := (following .onTrigger (onAir { cue with duration := 9 } 1)).modChain 1 (fun x => { x with st := .paused })
    let t := d.stepSucceed 2 ⟨7, some 1, some 8, false⟩
    (t.chain 1).due = some ⟨7, some 8⟩ ∧ t.slot 8 = d.slot 8 ∧
    ((d.stepSucceed 2 ⟨7, some 1, none, false⟩).chain 1).terminal = true ∧
    (((d.modSlot 7 (fun x => { x with st := .loaded })).stepSucceed 2 ⟨7, some 1, none, false⟩).chain 1).st = .idle ∧
    after (.resumeChain 1) (conf.onDesk (fun _ => t)) (fun u => (u.desk.slot 8).st == .armed && !(u.desk.slot 8).held &&
      (u.desk.chain 1).armed == some 8 && (u.desk.chain 1).due.isNone) = true := by decide +kernel

theorem test_withdraw_passes :
    ((onCbi (fun c => { c with txq := [entry .clear .cueEngine .waiting, entry (.claim 3) .cueEngine .waiting] })
      conf).desk.cbi.enqueueWithdraw 7 .cueEngine).txq =
      [entry .clear .cueEngine .waiting, entry (.withdraw 7) .cueEngine .waiting, entry (.claim 3) .cueEngine .waiting] ∧
    ((queued .wait .waiting 1).desk.cbi.enqueueWithdraw 7 .cueEngine).txq.length = 3 ∧
    ((queued .wait .waiting 1).desk.cbi.enqueueWithdraw 7 .cueEngine).passLock = false := by decide +kernel

theorem test_lock : State.reset.desk.cbi.lockOk ∧
    after .clearAll (onCbi (fun c => { c with passLock := true, txq := [entry (.withdraw 3) .peerTable .waiting] }) conf)
      (fun t => !t.desk.cbi.passLock) = true := ⟨fun _ _ => rfl, by decide +kernel⟩

/-- An own region of layer 5 with its claim. -/
def region (clip : Option (Nat × Nat)) : OwnRegion := ⟨7, 100, 120, 100, 200, 5, .fill, clip⟩

theorem test_outranks : outranks 4 6 9 (region (some (0, 1024))) = true ∧ outranks 4 5 3 (region (some (0, 1024))) = true ∧
    outranks 4 5 5 (region (some (0, 1024))) = false ∧ outranks 4 0 15 (region none) = true := by decide +kernel

/-- The snapshot of an own FILL region and one occluder above it. -/
def snapped : Sb :=
  { Sb.reset with own := [region (some (100, 400))], occluders := [⟨3, { claim with layer := 6, left := 0, right := 200 }, true⟩] }

theorem test_spans :
    snapped.spans 4 ⟨8388608, 0, 0, 896⟩ 110 = [⟨175, 299, .fill⟩] ∧ snapped.spans 4 ⟨8388608, 0, 0, 896⟩ 121 = [] ∧
    (0 < (8388608 : Int)) := by decide +kernel

/-- 9.6: the extent, the clip range and the occluded range of the chapter's claims. -/
theorem test_conversion :
    let v (D : Int) : LineVals := ⟨8388608, D * 256, 1200, 896⟩
    ownExtent 8388608 1200 896 100 200 = (143, 389) ∧
    ((v 0).clipRange 143 389, (v 300).clipRange 143 389) = ((93, 306), (85, 298)) ∧
    ((v 0).occluded 200 260, (v 300).occluded 200 260) = ((142, 194), (133, 186)) := by decide +kernel

/-- R163, R164: 20 regions give 16 spans and an overflow; a line not keyable, or far from the reference, none. -/
theorem test_build :
    let many : Sb := { Sb.reset with own := (List.finRange 20).map (fun i => ⟨7, 100, 120, 4 * i.val, 2, 5, .fill, none⟩) }
    let v (D : Int) : LineVals := ⟨8388608, D, 0, 896⟩
    ((many.build 4 (v 2097152) 110 true false .first).ready.getLast?.map (fun l => l.spans.length)) = some 16 ∧
    (many.build 4 (v 2097152) 110 true false .first).overflow = 1 ∧
    ((many.build 4 (v 2097153) 110 true false .first).ready.getLast?.map (fun l => l.spans.length)) = some 0 ∧
    ((many.build 4 (v 0) 110 false false .first).ready.getLast?.map (fun l => (l.spans.length, l.fieldLine, l.keyable))) =
      some (0, 110, false) ∧
    (keyableLine .sys625 .first 22 && !keyableLine .sys625 .first 21 && keyableLine .sys625 .first 309 &&
      !keyableLine .sys625 .first 310) = true ∧
    after (.lineBoundary 100) (locked []) (fun t => t.desk.sb.ready.length == (locked []).desk.sb.ready.length + 1) = true := by
  decide +kernel

/-- R86: the empty list stands before that of the next paired line where the hand-over inserts a line, and only there. -/
theorem test_inserted_list :
    let far := onTdu (fun x => { x with D := -6300000 }) (locked [])
    let flag (s : State) := ((s.closeLine 100).1.handOver (s.closeLine 100).2.step).2
    flag far = true ∧ flag (locked []) = false ∧
    after (.lineBoundary 100) far (fun t => t.desk.sb.ready.length == far.desk.sb.ready.length + 2 &&
      (t.desk.sb.ready.drop far.desk.sb.ready.length).head?.map (fun l => (l.spans.isEmpty, l.keyable)) ==
        some (true, false)) = true := by decide +kernel

theorem test_payloads : (decodeClaim (encodeClaim { claim with right := 1024 } true)) = ({ claim with right := 1024 }, true) ∧
    decodeBeacon (encodeBeacon beacon) = some beacon := by decide +kernel

/-- R103, R105: the row of a CLEAR of station 5, with its check; positions of a payload. -/
theorem test_positions :
    let bits := frameBits 5 ⟨true, false, .clear⟩
    (fieldAt bits 1 1, fieldAt bits 2 2, fieldAt bits 3 6, fieldAt bits 7 10, fieldAt bits 11 14) = (0, 1, 5, 5, 0) ∧
    bits.length = 33 ∧ rxCheckOk bits = true ∧ fieldAt (FrameContents.claim claim true).payload 20 28 = 120 := by decide +kernel

theorem test_pulse_ok : (pulsing (pulse .locked none true) tracking).time.sfe.pulseOk ∧ State.reset.time.sfe.pulseOk :=
  ⟨fun _ _ => by decide +kernel, fun _ h => nomatch h⟩

theorem test_slots : State.reset.desk.ce.slotsOk ∧ State.reset.desk.ce.liveOk :=
  ⟨⟨by decide +kernel, by decide +kernel⟩, by decide +kernel, by decide +kernel⟩

theorem test_invariants : State.reset.freqOk ∧ State.reset.time.tdu.queueOk ∧ reportsOk State.reset.desk.hp.reports ∧
    State.reset.desk.ky.delayOk ∧ State.reset.desk.pt.storeOk ∧ step State.reset = .next State.reset :=
  ⟨⟨by decide +kernel, by decide +kernel⟩, ⟨by decide +kernel, by decide +kernel⟩,
    ⟨by decide +kernel, by decide +kernel, by decide +kernel⟩, rfl, ⟨by decide +kernel, List.Pairwise.nil⟩, rfl⟩

end Sys2Proof.Tests
end

namespace Sys2Proof.Machine

/-! ## The falling crossing and the grade of its pulse (R7, R8) -/

/-- The edge step of a falling crossing is positive: the threshold lies between its two samples (R7). -/
theorem Sfe.edgeStep_pos_of_falls {x : Sfe} {before now : Code} (h : x.falls before now = true) :
    0 < (before.toNat : Int) - now.toNat := by
  simp only [Sfe.falls, Bool.and_eq_true, decide_eq_true_eq] at h
  obtain ⟨⟨-, hbefore⟩, hnow⟩ := h
  omega

/-- A falling crossing leaves a pulse in progress, graded from its own step and amplitude (R7, R8). -/
theorem Sfe.pulse_startPulse (time : Ts) (before now : Code) (snap : Snapshot) (x : Sfe) :
    ∃ p : Pulse, (x.startPulse time before now snap).pulse = some p ∧
      p.step = (before.toNat : Int) - now.toNat ∧ p.amp = x.amplitude ∧ p.grade = gradeOf p.step p.amp :=
  ⟨_, rfl, rfl, rfl, rfl⟩

theorem exec_fallingCrossing (time : Ts) (before now : Code) (s : State) :
    exec (.fallingCrossing time before now) s = .next (s.running (State.falling time before now)) := rfl

/-- FALLING_CROSSING, with RESET released and a crossing that falls, starts the pulse and changes no other unit. -/
theorem exec_fallingCrossing_of_falls {s : State} {before now : Code} (hreset : s.resetHeld = false)
    (hfalls : s.time.sfe.falls before now = true) (time : Ts) :
    exec (.fallingCrossing time before now) s =
      .next (s.onTime (fun t => { t with
        sfe := t.sfe.startPulse time before now (takeSnapshot s.straps.tape t) })) := by
  rw [exec_fallingCrossing, running_released hreset, State.falling, if_pos hfalls]

theorem gradeOf_eq_good_iff (step amp : Int) : gradeOf step amp = .good ↔ 4 * step ≥ amp := by
  unfold gradeOf
  split
  next hgood => simp [hgood]
  next hgood => split <;> simp [hgood]

theorem gradeOf_eq_fair_iff (step amp : Int) :
    gradeOf step amp = .fair ↔ 4 * step < amp ∧ 16 * step ≥ amp := by
  unfold gradeOf
  split
  next hgood => simp [Int.not_lt.mpr hgood]
  next hgood =>
    split
    next hfair => simp [Int.not_le.mp hgood, hfair]
    next hfair => simp [hfair]

/-- The premise is needed: a negative step can be a quarter of a negative amplitude with 16 times it still smaller. -/
theorem gradeOf_eq_poor_iff {step : Int} (hstep : 0 ≤ step) (amp : Int) :
    gradeOf step amp = .poor ↔ 16 * step < amp := by
  unfold gradeOf
  split
  next hgood =>
    have hfair : amp ≤ 16 * step := by omega
    simp [hfair]
  next =>
    split
    next hfair => simp [hfair]
    next hfair => simp [Int.not_le.mp hfair]

/-- Summing a sample over a pulse leaves its grade (R11). -/
@[simp] theorem Pulse.sumTip_grade (now : Ts) (v : Code) (p : Pulse) : (p.sumTip now v).grade = p.grade := by
  unfold Pulse.sumTip
  dsimp only
  split <;> rfl

/-- A pulse's record carries its grade (R10). -/
@[simp] theorem Pulse.record_grade (cls : PulseClass) (width : Nat) (p : Pulse) :
    (p.record cls width).grade = p.grade := rfl

/-- Settles O8: a falling crossing grades its pulse by `gradeOf`, whose three grades exclude each other since the edge step
is positive; the sum over the tip and the record copy the grade. -/
theorem gradeFollowsTheEdgeStep : Obligations.GradeFollowsTheEdgeStep := by
  unfold Obligations.GradeFollowsTheEdgeStep
  constructor
  · intro time before now s hreset hfalls
    have hpos := Sfe.edgeStep_pos_of_falls hfalls
    obtain ⟨p, hpulse, hstep, hamp, hgrade⟩ :=
      Sfe.pulse_startPulse time before now (takeSnapshot s.straps.tape s.time) s.time.sfe
    refine ⟨p, ⟨_, exec_fallingCrossing_of_falls hreset hfalls time, hpulse⟩, hstep, hamp, ?_⟩
    rw [hgrade]
    exact ⟨gradeOf_eq_good_iff _ _, gradeOf_eq_fair_iff _ _, gradeOf_eq_poor_iff (hstep ▸ Int.le_of_lt hpos) _⟩
  · intro p now v cls width
    exact ⟨Pulse.sumTip_grade now v p, Pulse.record_grade cls width p⟩

end Sys2Proof.Machine

namespace Sys2Proof.Machine

/-! ## A WITHDRAW offered to the queue (R113) -/

section
variable {c c' : Cbi} {i : Slot} {owner : TxOwner} {e : TxEntry}

theorem heldFirst_iff : e.heldFirst = true ↔ e.what = .clear ∨ e.stage = .inFlight := by
  simp [TxEntry.heldFirst]

theorem heldFirst_eq_false_iff : e.heldFirst = false ↔ e.what ≠ .clear ∧ e.stage ≠ .inFlight := by
  rw [← Bool.not_eq_true, heldFirst_iff, not_or]

theorem withdrawPasses_iff :
    c.withdrawPasses i = true ↔ c.passLock = false ∧ ∀ e ∈ c.txq, e.what.concerns i = false := by
  simp [Cbi.withdrawPasses, Cbi.concerned]

/-- A WITHDRAW that passes takes its place in the queue and sets the pass-lock. -/
theorem enqueueWithdraw_of_passes (h : c.withdrawPasses i = true) :
    c.enqueueWithdraw i owner =
      { c with txq := passAhead (TxEntry.fresh (.withdraw i) owner) c.txq, passLock := true } :=
  if_pos h

/-- One that may not pass goes to the tail. -/
theorem enqueueWithdraw_of_not_passes (h : ¬ c.withdrawPasses i = true) :
    c.enqueueWithdraw i owner = { c with txq := c.txq ++ [TxEntry.fresh (.withdraw i) owner] } :=
  if_neg h

/-! ## When the lock has its form (R112, R113) -/

theorem lockOk_of_clear (h : c.passLock = false) : c.lockOk := fun _ _ => h

theorem lockOk_of_entry (h : c.txq ≠ []) : c.lockOk := fun hq => absurd hq h

theorem lockOk_settleLock (c : Cbi) : c.settleLock.lockOk := fun hq hf =>
  settleLock_of_empty (by simpa using hq) (by simpa using hf)

theorem queueFlies_of_not_sending (h : c.line ≠ .sending) : c.queueFlies = false := by
  simp [Cbi.queueFlies, h]

theorem queueFlies_of_no_attempt (h : c.attempt = none) : c.queueFlies = false := by
  simp [Cbi.queueFlies, h]

/-- With no frame of the queue in flight, a change that empties no queue and leaves the lock keeps its form, whatever becomes
of the line. -/
theorem lockOk_of_grounded (h : c.lockOk) (hf : c.queueFlies = false) (hl : c'.passLock = c.passLock)
    (hq : c'.txq = [] → c.txq = []) : c'.lockOk := fun q _ => hl.trans (h (hq q) hf)

/-- So does a change of the line at a station that is not SENDING. -/
theorem lockOk_of_not_sending (h : c.lockOk) (hs : c.line ≠ .sending) (hl : c'.passLock = c.passLock)
    (hq : c'.txq = [] → c.txq = []) : c'.lockOk :=
  lockOk_of_grounded h (queueFlies_of_not_sending hs) hl hq

end

/-! ## What leaves the bus interface -/

section
variable {d : Desk} {fc : FieldCount} {i : Slot} {c : ChainNo}

theorem cbi_fold {α : Type} (f : Desk → α → Desk) (hf : ∀ x a, (f x a).cbi = x.cbi) (l : List α) :
    (l.foldl f d).cbi = d.cbi := by
  induction l generalizing d with
  | nil => rfl
  | cons a l ih => rw [List.foldl_cons, ih, hf]

@[simp] theorem cbi_postAll (rs : List Report) : (d.postAll fc rs).cbi = d.cbi :=
  cbi_fold _ (fun x r => post_cbi fc r x) rs

@[simp] theorem cbi_itemLeft (m : Bool) : (d.itemLeft fc m).cbi = d.cbi := by
  unfold Desk.itemLeft
  split
  · split <;> rfl
  · rfl

@[simp] theorem cbi_itemsLeft (ms : List Bool) : (d.itemsLeft fc ms).cbi = d.cbi :=
  cbi_fold _ (fun _ m => cbi_itemLeft m) ms

@[simp] theorem cbi_regionFull : (d.regionFull fc i).cbi = d.cbi := by
  unfold Desk.regionFull; split <;> rfl

@[simp] theorem cbi_testStart : (d.testStart fc i).cbi = d.cbi := by
  unfold Desk.testStart; dsimp only; split <;> rfl

@[simp] theorem cbi_arm (p : Option Slot) (b : Bool) : (d.arm fc c i p b).cbi = d.cbi := by
  simp [Desk.arm]

@[simp] theorem cbi_armSuccessor (p : Slot) (n : Option Slot) (b : Bool) :
    (d.armSuccessor fc c p n b).cbi = d.cbi := by
  unfold Desk.armSuccessor
  split
  · rfl
  · split <;> simp

@[simp] theorem cbi_succeed (b : Bool) : (d.succeed fc i b).cbi = d.cbi := by
  unfold Desk.succeed
  dsimp only
  split
  · split <;> simp
  · rfl

@[simp] theorem cbi_checkChain : (d.checkChain fc c).cbi = d.cbi := by
  unfold Desk.checkChain
  split
  · rfl
  · split <;> rfl

@[simp] theorem cbi_checkChains : (d.checkChains fc).cbi = d.cbi :=
  cbi_fold _ (fun _ _ => cbi_checkChain) allChains

@[simp] theorem cbi_checkChainOf (o : Option ChainNo) : (d.checkChainOf fc o).cbi = d.cbi := by
  unfold Desk.checkChainOf; split <;> simp

@[simp] theorem cbi_wakeChain : (d.wakeChain fc i c).cbi = d.cbi := by
  unfold Desk.wakeChain
  split
  · split
    · split <;> simp
    · rfl
  · rfl

@[simp] theorem cbi_wake : (d.wake fc i).cbi = d.cbi := cbi_fold _ (fun _ _ => cbi_wakeChain) allChains

@[simp] theorem cbi_cueReport (ev : CueEvent) : (d.cueReport fc i ev).cbi = d.cbi := rfl
@[simp] theorem cbi_unloadRun : (d.unloadRun i).cbi = d.cbi := rfl

@[simp] theorem cbi_ended : (d.ended fc i).cbi = d.cbi := by
  unfold Desk.ended
  dsimp only
  rw [cbi_wake]
  split <;> split <;> rfl

@[simp] theorem cbi_failed : (d.failed fc i).cbi = d.cbi := by simp [Desk.failed]

@[simp] theorem cbi_endForChain : (d.endForChain i).cbi = d.cbi := by
  unfold Desk.endForChain; split <;> rfl

@[simp] theorem cbi_succeedNow : (d.succeedNow fc i).cbi = d.cbi := by
  unfold Desk.succeedNow
  split
  · split <;> simp
  · rfl

@[simp] theorem cbi_endNow : (d.endNow fc i).cbi = d.cbi := by simp [Desk.endNow]
@[simp] theorem cbi_failNow : (d.failNow fc i).cbi = d.cbi := by simp [Desk.failNow]

@[simp] theorem cbi_claimAbandoned : (d.claimAbandoned fc i).cbi = d.cbi := by
  unfold Desk.claimAbandoned; split <;> simp

@[simp] theorem cbi_claimGone : (d.claimGone fc i).cbi = d.cbi := by
  unfold Desk.claimGone; split <;> simp

@[simp] theorem cbi_withdrawDone : (d.withdrawDone fc i).cbi = d.cbi := by
  unfold Desk.withdrawDone; split <;> simp

@[simp] theorem cbi_frameDiscarded (w : TxWhat) : (d.frameDiscarded fc w).cbi = d.cbi := by
  unfold Desk.frameDiscarded; split <;> simp

@[simp] theorem cbi_tellDiscards (es : List TxEntry) : (d.tellDiscards fc es).cbi = d.cbi := by
  refine cbi_fold _ (fun x e => ?_) es
  dsimp only
  split <;> simp

@[simp] theorem cbi_beaconSent (b : Beacon) : (d.beaconSent b).cbi = d.cbi := by
  unfold Desk.beaconSent
  exact cbi_fold _ (fun x i => modSlot_cbi i _ x) allSlots

@[simp] theorem cbi_stepTrigger (cs : List ChainNo) : (d.stepTrigger cs).cbi = d.cbi := by
  refine cbi_fold Desk.triggerStart (fun x c => ?_) cs
  unfold Desk.triggerStart
  split
  · split <;> rfl
  · rfl

@[simp] theorem cbi_countDown : (d.countDown i).cbi = d.cbi := by
  unfold Desk.countDown; dsimp only; split <;> rfl

@[simp] theorem cbi_stepSucceed (e : EndedCue) : (d.stepSucceed fc e).cbi = d.cbi := by
  unfold Desk.stepSucceed
  dsimp only
  split
  · rfl
  · have marked : (if (d.slot e.slot).st = .ending
        then d.modSlot e.slot (fun x => { x with succDone := true }) else d).cbi = d.cbi := by
      split <;> rfl
    split
    · rfl
    · split
      · simp [marked]
      · split <;> simp [marked]
      · rfl
      · rfl

@[simp] theorem cbi_goOnAir : (d.goOnAir fc i).cbi = d.cbi := by
  unfold Desk.goOnAir
  dsimp only
  split <;> split <;> rfl

@[simp] theorem cbi_stepOnAir (ripe : List Slot) : (d.stepOnAir fc ripe i).cbi = d.cbi := by
  unfold Desk.stepOnAir
  split
  · split
    · simp
    · split
      · simp
      · split <;> simp
  · rfl

@[simp] theorem cbi_loadCue (ppl : Nat) (r : LoadCue) : (d.loadCue fc ppl r).cbi = d.cbi := by
  unfold Desk.loadCue
  split
  · split <;> rfl
  · split <;> rfl

@[simp] theorem cbi_freeCue : (d.freeCue fc i).cbi = d.cbi := by
  unfold Desk.freeCue; split <;> rfl

@[simp] theorem cbi_pauseChain : (d.pauseChain fc c).cbi = d.cbi := by
  unfold Desk.pauseChain; split <;> rfl

@[simp] theorem cbi_abortChains : d.abortChains.cbi = d.cbi := by
  refine cbi_fold _ (fun x c => ?_) allChains
  split <;> rfl

@[simp] theorem cbi_stopCue : (d.stopCue fc i).cbi = d.cbi := by
  unfold Desk.stopCue
  split
  case h_5 => split <;> simp
  all_goals simp

@[simp] theorem cbi_stopCues : (d.stopCues fc).cbi = d.cbi :=
  (cbi_fold _ (fun _ _ => cbi_stopCue) allSlots).trans cbi_abortChains

@[simp] theorem cbi_stopKeyerNow : d.stopKeyerNow.cbi = d.cbi := rfl

variable {n stn : Station}

@[simp] theorem cbi_peerReport (p : Presence) : (d.peerReport fc n p).cbi = d.cbi := by
  unfold Desk.peerReport; dsimp only; split <;> rfl

@[simp] theorem cbi_agePeer : (d.agePeer fc stn n).cbi = d.cbi := by
  unfold Desk.agePeer
  split
  · rfl
  · dsimp only
    rw [cbi_peerReport]
    split <;> rfl

@[simp] theorem cbi_ptBoundary : (d.ptBoundary fc stn).cbi = d.cbi :=
  cbi_fold _ (fun _ _ => cbi_agePeer) allStations

@[simp] theorem cbi_snapshot : (d.snapshot fc).cbi = d.cbi := rfl
@[simp] theorem cbi_releaseStop : d.releaseStop.cbi = d.cbi := rfl

end

/-! ## Work on the queue (R112 to R115)

What the Cue Engine and the Peer Table do to the bus interface, and what the interface itself does to its queue between two
states of the line: they keep the lock's form, and decide nothing about what is in flight. -/

/-- The bus interface after work on its queue. -/
structure Cbi.QueueWork (c c' : Cbi) : Prop where
  flies : c'.queueFlies = c.queueFlies
  lock : c.lockOk → c'.lockOk

namespace Cbi.QueueWork

section
variable {c c' c'' : Cbi} {i : Slot} {owner : TxOwner}

theorem refl (c : Cbi) : c.QueueWork c := ⟨rfl, id⟩

theorem trans (h : c.QueueWork c') (h' : c'.QueueWork c'') : c.QueueWork c'' :=
  ⟨h'.flies.trans h.flies, h'.lock ∘ h.lock⟩

theorem of_eq (h : c' = c) : c.QueueWork c' := h ▸ refl c

/-- A change that empties no queue and leaves the lock, and what is in flight. -/
theorem of_keeps (hf : c'.queueFlies = c.queueFlies) (hl : c'.passLock = c.passLock) (hq : c'.txq = [] → c.txq = []) :
    c.QueueWork c' :=
  ⟨hf, fun h q f => hl.trans (h (hq q) (hf.symm.trans f))⟩

theorem enqueue (what : TxWhat) : c.QueueWork (c.enqueue what owner) :=
  ⟨rfl, fun _ => lockOk_of_entry (by simp [Cbi.enqueue])⟩

theorem enqueueWithdraw : c.QueueWork (c.enqueueWithdraw i owner) where
  flies := by unfold Cbi.enqueueWithdraw; split <;> rfl
  lock _ := lockOk_of_entry fun hq => by simpa [hq] using (enqueueWithdraw_perm i owner c).length_eq

theorem offer (what : TxWhat) : c.QueueWork (c.offer what owner) := by
  unfold Cbi.offer
  split
  · split
    · exact enqueueWithdraw
    · exact enqueue _
  · exact refl c

/-- Entries may leave a queue whose lock is settled after. -/
theorem settle (es : List TxEntry) : c.QueueWork { c with txq := es }.settleLock :=
  ⟨by rw [settleLock_queueFlies]; rfl, fun _ => lockOk_settleLock _⟩

theorem enqueueClear : c.QueueWork c.enqueueClear where
  flies := (settle (c := c) c.keptEntries).flies
  lock _ := lockOk_of_entry (by simp [Cbi.enqueueClear])

theorem empty : c.QueueWork { c with txq := [], passLock := false } := ⟨rfl, fun _ => lockOk_of_clear rfl⟩

/-- Changing every entry empties no queue. -/
theorem map (f : TxEntry → TxEntry) : c.QueueWork { c with txq := c.txq.map f } :=
  of_keeps rfl rfl List.map_eq_nil_iff.mp

theorem modActive (f : TxEntry → TxEntry) : c.QueueWork (c.modActive f) := map _

end

section
variable {d : Desk} {fc : FieldCount} {i : Slot} {c : ChainNo}

/-- Work on the queue after a step that leaves the bus interface. -/
theorem after {e d' : Desk} (h : e.cbi.QueueWork d'.cbi) (he : e.cbi = d.cbi) : d.cbi.QueueWork d'.cbi := he ▸ h

theorem fold {α : Type} (f : Desk → α → Desk) (hf : ∀ (x : Desk) a, x.cbi.QueueWork (f x a).cbi) (l : List α) :
    d.cbi.QueueWork (l.foldl f d).cbi := by
  induction l generalizing d with
  | nil => exact refl _
  | cons a l ih => exact (hf d a).trans ih

/-! ## The Cue Engine -/

theorem offerClaim : d.cbi.QueueWork (d.offerClaim i).cbi := by
  unfold Desk.offerClaim
  split
  · exact enqueue _
  · exact refl _

theorem tryClaim : d.cbi.QueueWork (d.tryClaim fc i).cbi := by
  unfold Desk.tryClaim
  split
  · exact of_eq cbi_regionFull
  · split
    · exact refl _
    · exact offerClaim

theorem tryStart : d.cbi.QueueWork (d.tryStart fc i).cbi := by
  unfold Desk.tryStart
  dsimp only
  split
  · exact tryClaim
  · exact refl _

theorem offerWithdraw : d.cbi.QueueWork (d.offerWithdraw i).cbi := by
  unfold Desk.offerWithdraw
  dsimp only
  split
  · exact enqueueWithdraw
  · exact refl _

theorem retry : d.cbi.QueueWork (d.retry fc).cbi :=
  (fold _ (fun _ _ => offerWithdraw) allSlots).trans (fold _ (fun _ _ => tryStart) allSlots)

theorem retryIfReleased (before : Desk) : d.cbi.QueueWork (d.retryIfReleased fc before).cbi := by
  unfold Desk.retryIfReleased
  split
  · exact retry
  · exact refl _

theorem tryArmed : d.cbi.QueueWork (d.tryArmed fc c).cbi := by
  unfold Desk.tryArmed
  split
  · exact tryStart
  · exact refl _

theorem beginEnd : d.cbi.QueueWork (d.beginEnd fc i).cbi := by
  unfold Desk.beginEnd
  dsimp only
  split
  · exact offerWithdraw.after (by simp)
  · exact of_eq (by simp)

theorem claimSent (x : Claim) : d.cbi.QueueWork (d.claimSent fc i x).cbi := by
  unfold Desk.claimSent
  dsimp only
  split
  · exact refl _
  · split
    · exact of_eq (by simp)
    · split
      · rw [cbi_checkChainOf, cbi_succeedNow, cbi_endForChain]
        exact offerWithdraw.after rfl
      · exact refl _

theorem boundaryEndings : d.cbi.QueueWork (d.boundaryEndings fc).cbi := by
  unfold Desk.boundaryEndings
  dsimp only
  rw [cbi_fold (Desk.stepSucceed fc) (fun _ e => cbi_stepSucceed e)]
  have stepEnd (x : Desk) (e : EndedCue) : x.cbi.QueueWork (x.stepEnd fc e).cbi := by
    unfold Desk.stepEnd
    rw [cbi_checkChainOf]
    exact beginEnd
  refine (fold (Desk.stepEnd fc) stepEnd _).after ?_
  rw [cbi_fold Desk.countDown (fun _ _ => cbi_countDown), cbi_stepTrigger]

theorem stepPreroll : d.cbi.QueueWork (d.stepPreroll fc i).cbi := by
  unfold Desk.stepPreroll
  dsimp only
  split
  · split
    · exact tryArmed.after (cbi_succeed false)
    · exact refl _
  · exact refl _

theorem boundaryStarts (ripe : List Slot) : d.cbi.QueueWork (d.boundaryStarts fc ripe).cbi := by
  unfold Desk.boundaryStarts
  dsimp only
  refine trans (c' := _) ?_ (fold (Desk.stepPreroll fc) (fun _ _ => stepPreroll) allSlots)
  rw [cbi_fold (Desk.stepOnAir fc ripe) (fun _ _ => cbi_stepOnAir ripe)]
  exact retry.after (cbi_fold (fun x i => x.testStart fc i) (fun _ _ => cbi_testStart) allSlots)

theorem ceBoundary : d.cbi.QueueWork (d.ceBoundary fc).cbi := boundaryEndings.trans (boundaryStarts _)

theorem startChain : d.cbi.QueueWork (d.startChain fc c i).cbi := by
  unfold Desk.startChain
  split
  · split
    · exact refl _
    · exact tryArmed.after (by simp)
    · exact refl _
  · exact refl _

theorem resumeChain : d.cbi.QueueWork (d.resumeChain fc c).cbi := by
  unfold Desk.resumeChain
  split
  · exact refl _
  · exact refl _
  · unfold Desk.armDue
    split
    · rw [cbi_checkChain]
      exact tryArmed.after (by simp)
    · exact refl _
  · exact refl _

theorem endClaiming (a : Bool) : d.cbi.QueueWork (d.endClaiming fc a i).cbi := by
  unfold Desk.endClaiming
  dsimp only
  split
  · split
    · rw [cbi_claimGone, cbi_itemLeft]
      exact settle _
    · split
      · exact map _
      · exact refl _
  · exact refl _

theorem withdrawCue : d.cbi.QueueWork (d.withdrawCue fc i).cbi := by
  unfold Desk.withdrawCue
  split
  case h_6 =>
    split
    · exact refl _
    · exact (endClaiming false).trans (retryIfReleased d)
  all_goals exact refl _

theorem abortCue (b : Bool) : d.cbi.QueueWork (d.abortCue fc b i).cbi := by
  unfold Desk.abortCue
  split
  · exact tryStart.after (by simp)
  · split
    · exact beginEnd
    · exact refl _
  · split
    · exact beginEnd
    · exact refl _
  · exact endClaiming true
  all_goals exact refl _

theorem abortWith (b : Bool) : d.cbi.QueueWork (d.abortWith fc b c).cbi := by
  unfold Desk.abortWith
  dsimp only
  split
  · exact refl _
  · rw [cbi_checkChain]
    exact (fold (Desk.abortCue fc b) (fun _ _ => abortCue b) _).after rfl

theorem abortChain : d.cbi.QueueWork (d.abortChain fc c).cbi := by
  unfold Desk.abortChain
  split
  · exact refl _
  · exact refl _
  · exact (abortWith false).trans (retryIfReleased d)

theorem abortAllAtOnce : d.cbi.QueueWork (d.abortAllAtOnce fc).cbi :=
  ((fold (Desk.abortWith fc true) (fun _ _ => abortWith true) allChains).after cbi_abortChains).trans
    (retryIfReleased d)

/-- Every cue stopped, the queue changed by `f`, and the owners of its discarded frames told (R150, R151). -/
theorem stopAll {f : Cbi → Cbi} (hf : ∀ x : Cbi, x.QueueWork (f x)) (es : List TxEntry) :
    d.cbi.QueueWork (((((d.stopCues fc).stopKeyerNow.withCbi f).tellDiscards fc es).checkChains fc).retryIfReleased
      fc d).cbi := by
  refine trans ?_ (retryIfReleased d)
  rw [cbi_checkChains, cbi_tellDiscards, withCbi_cbi, cbi_stopKeyerNow, cbi_stopCues]
  exact hf _

theorem clearAll : d.cbi.QueueWork (d.clearAll fc).cbi := stopAll (fun _ => enqueueClear) _

theorem muteCues : d.cbi.QueueWork (d.muteCues fc).cbi := stopAll (fun _ => empty) _

/-! ## The Peer Table -/

variable {n stn : Station}

theorem offerRecall : d.cbi.QueueWork (d.offerRecall n i).cbi := by
  unfold Desk.offerRecall
  split
  · exact enqueue _
  · exact refl _

theorem takeBeacon (b : Beacon) : d.cbi.QueueWork (d.takeBeacon fc n b).cbi := by
  unfold Desk.takeBeacon
  exact (fold (Desk.offerRecall n) (fun _ _ => offerRecall) allSlots).after (by simp)

theorem takeRecall (target : Station) : d.cbi.QueueWork (d.takeRecall stn target i).cbi := by
  unfold Desk.takeRecall
  split
  · exact refl _
  · split <;> (rw [withCbi_cbi]; exact offer _)

theorem takeClear : d.cbi.QueueWork (d.takeClear fc n).cbi := by
  unfold Desk.takeClear
  split
  · exact abortAllAtOnce (d := d)
  · exact refl _

/-! ## The Claim Bus Interface, between two states of the line -/

theorem leaveQueue (e : TxEntry) : d.cbi.QueueWork (d.leaveQueue fc e).cbi := by
  unfold Desk.leaveQueue
  rw [cbi_itemLeft]
  exact settle _

theorem tellGone (e : TxEntry) : d.cbi.QueueWork (d.tellGone fc e).cbi := by
  unfold Desk.tellGone
  split
  · exact retry.after (cbi_frameDiscarded e.what)
  · exact refl _

theorem tellAbandoned (e : TxEntry) : d.cbi.QueueWork (d.tellAbandoned fc e).cbi := by
  unfold Desk.tellAbandoned
  split
  · refine retry.after ?_
    split <;> simp
  · exact refl _

theorem tellSent (e : TxEntry) (x : FrameContents) : d.cbi.QueueWork (d.tellSent fc e x).cbi := by
  unfold Desk.tellSent
  split
  · refine trans ?_ retry
    split
    · exact claimSent _
    · exact of_eq cbi_withdrawDone
    · exact refl _
  · exact refl _

theorem releaseEntry (p : TxEntry → Bool) : d.cbi.QueueWork (d.releaseEntry fc p).cbi := by
  unfold Desk.releaseEntry
  split
  · exact refl _
  · split
    · exact (leaveQueue _).trans (tellGone _)
    · exact modActive _

theorem debit : d.cbi.QueueWork (d.debit fc).cbi := by
  unfold Desk.debit
  dsimp only
  split <;> exact of_keeps rfl rfl id

theorem charge (a : Attempt) : d.cbi.QueueWork (d.charge fc a).cbi := by
  unfold Desk.charge
  split
  · exact refl _
  · exact refl _
  · split
    · exact debit
    · exact of_keeps rfl rfl id

theorem attemptSent : d.cbi.QueueWork (d.attemptSent fc).cbi := by
  unfold Desk.attemptSent
  split
  · exact refl _
  · split
    · unfold Desk.beaconDone
      rw [cbi_beaconSent]
      exact of_keeps rfl rfl id
    · split
      · exact (leaveQueue _).trans (tellSent _ _)
      · exact refl _

theorem failEntry : d.cbi.QueueWork (d.failEntry fc).cbi := by
  unfold Desk.failEntry
  split
  · exact refl _
  · split
    · exact (leaveQueue _).trans (tellGone _)
    · split
      · refine trans ?_ (tellAbandoned _)
        exact trans (leaveQueue _) (of_keeps rfl rfl id)
      · exact modActive _

theorem beaconFailed {c : Cbi} : c.QueueWork c.beaconFailed := by
  unfold Cbi.beaconFailed
  split
  · split <;> exact of_keeps rfl rfl id
  · exact refl _

theorem countFailure (a : Option Attempt) : d.cbi.QueueWork (d.countFailure fc a).cbi := by
  unfold Desk.countFailure
  split
  · exact refl _
  · split
    · exact beaconFailed
    · exact failEntry.trans (settle _)

theorem attemptObjected : d.cbi.QueueWork (d.attemptObjected fc).cbi := by
  unfold Desk.attemptObjected
  refine trans ?_ (countFailure _)
  exact of_keeps rfl rfl id

theorem mute (kind : Nat) : d.cbi.QueueWork (d.mute fc kind).cbi := by
  unfold Desk.mute
  split
  · exact refl _
  · refine trans ?_ muteCues
    exact of_keeps rfl rfl id

variable {sys : System} {p : Parity} {line : Nat}

theorem setDue : d.cbi.QueueWork d.setDue.cbi := by
  unfold Desk.setDue
  split
  · exact of_keeps rfl rfl id
  · exact refl _

theorem setDueInWindow : d.cbi.QueueWork (d.setDueInWindow sys p line).cbi := by
  unfold Desk.setDueInWindow
  split
  · exact setDue
  · exact refl _

theorem cbiLine : d.cbi.QueueWork (d.cbiLine sys p line).cbi := by
  unfold Desk.cbiLine
  split
  · exact setDue
  · split
    · exact of_keeps rfl rfl id
    · exact refl _

theorem cbiBoundary : d.cbi.QueueWork (d.cbiBoundary sys p line).cbi := by
  unfold Desk.cbiBoundary
  refine trans ?_ setDueInWindow
  exact of_keeps rfl rfl id

theorem fieldBoundary : d.cbi.QueueWork (d.fieldBoundary sys stn fc p line).cbi := by
  unfold Desk.fieldBoundary
  rw [cbi_releaseStop, cbi_snapshot, cbi_ptBoundary]
  exact cbiBoundary.trans ceBoundary

theorem configure (accept : StationSet) : d.cbi.QueueWork (d.configure accept sys p line).cbi :=
  setDueInWindow.after rfl

theorem reinit : d.cbi.QueueWork d.reinit.cbi :=
  trans (c' := { d.cbi with beaconDue := false }) (of_keeps rfl rfl id) (settle (reinitEntries d.cbi.txq))

end

end Cbi.QueueWork

/-! ## Changes of the line (R102, R106, R108, R117) -/

section
variable {c : Cbi} {d : Desk} {fc : FieldCount} {stn n : Station}

theorem lockOk_findError (err : FrameFault) (h : c.lockOk) : (c.findError err).lockOk := by
  unfold Cbi.findError
  split
  next hr =>
    have hs : c.line ≠ .sending := by simp [hr.1]
    split <;> exact lockOk_of_not_sending h hs rfl id
  next => exact h

theorem lockOk_truncate (h : c.lockOk) : c.truncate.lockOk := by
  unfold Cbi.truncate
  split
  next hr =>
    have hs : c.line ≠ .sending := by simp [hr]
    split <;> exact lockOk_of_not_sending h hs rfl id
  next => exact h

theorem lockOk_seeObjection (h : c.lockOk) : c.seeObjection.lockOk := by
  unfold Cbi.seeObjection
  split
  next hr => exact lockOk_of_not_sending h (by simp [hr.1]) rfl id
  next => exact h

theorem contendHead_eq_nil {es : List TxEntry} (h : contendHead es = []) : es = [] := by
  cases es with
  | nil => rfl
  | cons e rest => cases h

/-- The first fall of a frame: the station was in IDLE. -/
theorem lockOk_firstFall (v : BusView) (h : d.cbi.lockOk) : (d.firstFall v).cbi.lockOk := by
  unfold Desk.firstFall
  split
  next hi =>
    have hs : d.cbi.line ≠ .sending := by simp [hi]
    unfold Desk.joinContest
    split
    next w _ =>
      refine lockOk_of_not_sending h hs rfl (fun hq => ?_)
      cases w with
      | none => exact hq
      | some what => exact contendHead_eq_nil hq
    next => exact lockOk_of_not_sending h hs rfl id
  next => exact h

theorem lockOk_becomeIdle (h : d.cbi.lockOk) : d.becomeIdle.cbi.lockOk := by
  unfold Desk.becomeIdle
  split
  next hw => exact lockOk_of_not_sending h (by simp [hw]) rfl id
  next => exact h

theorem lockOk_loseAccess (h : d.cbi.lockOk) : (d.loseAccess fc).cbi.lockOk := by
  unfold Desk.loseAccess
  split
  next hc =>
    have stopped : (d.withCbi Cbi.stopDriving).cbi.lockOk := lockOk_of_not_sending h (by simp [hc]) rfl id
    exact (Cbi.QueueWork.releaseEntry _).lock stopped
  next => exact h

theorem lockOk_winAccess (h : d.cbi.lockOk) : (d.winAccess fc).cbi.lockOk := by
  unfold Desk.winAccess
  dsimp only
  split
  next hc =>
    have won : (d.withCbi (fun c =>
        { c.modActive (fun x => { x with stage := .inFlight, removeAsked := false }) with line := .sending })).cbi.lockOk :=
      lockOk_of_not_sending h (by simp [hc]) rfl List.map_eq_nil_iff.mp
    split
    · exact (Cbi.QueueWork.charge _).lock won
    · exact won
  next => exact h

/-- The end of an own frame: the lock is settled if the frame was the queue's. -/
theorem lockOk_endOwnFrame (h : d.cbi.lockOk) : (d.endOwnFrame fc).cbi.lockOk := by
  unfold Desk.endOwnFrame
  dsimp only
  split
  · split
    · exact lockOk_settleLock _
    next hf => exact lockOk_of_grounded h (by simpa using hf) rfl id
  · exact h

theorem lockOk_succeedAttempt (h : d.cbi.lockOk) : (d.succeedAttempt fc).cbi.lockOk := by
  unfold Desk.succeedAttempt
  split
  · exact lockOk_endOwnFrame (Cbi.QueueWork.attemptSent.lock h)
  · exact h

/-- A collision: the lock is settled if the frame was the queue's, which is then in flight no more. -/
theorem lockOk_collide (h : d.cbi.lockOk) : (d.collide fc).cbi.lockOk := by
  have stopped (hf : d.cbi.queueFlies = false) : (d.withCbi Cbi.stopDriving).cbi.lockOk :=
    lockOk_of_grounded h hf rfl id
  unfold Desk.collide Desk.countFailure
  split
  next ha => exact stopped (queueFlies_of_no_attempt ha)
  next a ha =>
    split
    next b hb =>
      exact Cbi.QueueWork.beaconFailed.lock (stopped (by simp [Cbi.queueFlies, ha, hb, FrameContents.fromQueue]))
    next => exact lockOk_settleLock _

theorem lockOk_failAttempt (collision : Bool) (h : d.cbi.lockOk) : (d.failAttempt fc collision).cbi.lockOk := by
  unfold Desk.failAttempt
  split
  · split
    · exact lockOk_collide h
    · exact lockOk_endOwnFrame (Cbi.QueueWork.attemptObjected.lock h)
  · exact h

/-- An accepted frame: the station was RECEIVING, and what the frame brings is work on the queue. -/
theorem lockOk_accept (kind : Nat) {f : Desk → Desk} (hf : ∀ x : Desk, x.cbi.QueueWork (f x).cbi) (h : d.cbi.lockOk) :
    (d.accept fc stn n kind f).cbi.lockOk := by
  unfold Desk.accept
  split
  next ha =>
    have hr : d.cbi.line = .receiving := by
      simp only [Cbi.canAccept, Bool.and_eq_true, beq_iff_eq] at ha
      exact ha.1
    have ended : (d.withCbi Cbi.endFrame).cbi.lockOk := lockOk_of_not_sending h (by simp [hr]) rfl id
    split
    · exact (Cbi.QueueWork.mute kind).lock ended
    · exact (hf _).lock ended
  next => exact h

/-! ## FAULT (R117) -/

/-- After the end of an own frame none is in flight. -/
theorem queueFlies_endOwnFrame : (d.endOwnFrame fc).cbi.queueFlies = false := by
  unfold Desk.endOwnFrame
  dsimp only
  split
  next =>
    have left : (d.withCbi Cbi.leaveFrame).cbi.queueFlies = false := queueFlies_of_no_attempt rfl
    split
    · rw [withCbi_cbi, settleLock_queueFlies]
      exact (Cbi.QueueWork.releaseEntry _).flies.trans left
    · exact left
  next hs => exact queueFlies_of_not_sending hs

/-- After a failed attempt none is in flight. -/
theorem queueFlies_failAttempt (collision : Bool) : (d.failAttempt fc collision).cbi.queueFlies = false := by
  unfold Desk.failAttempt
  split
  next =>
    split
    · exact (Cbi.QueueWork.countFailure d.cbi.attempt).flies.trans (queueFlies_of_no_attempt rfl)
    · exact queueFlies_endOwnFrame
  next hs => exact queueFlies_of_not_sending hs

theorem lockOk_endIfDecided (h : d.cbi.lockOk) : (d.endIfDecided fc).cbi.lockOk := by
  unfold Desk.endIfDecided
  split
  · exact lockOk_endOwnFrame h
  · exact h

theorem lockOk_cutShort (h : d.cbi.lockOk) : (d.cutShort fc).cbi.lockOk :=
  lockOk_failAttempt true (lockOk_endIfDecided (lockOk_loseAccess h))

theorem lockOk_enterFault (h : d.cbi.lockOk) : (d.enterFault fc).cbi.lockOk := by
  unfold Desk.enterFault
  split
  · exact h
  · exact lockOk_of_grounded (lockOk_cutShort h) (queueFlies_failAttempt true) rfl id

theorem lockOk_leaveFault {sys : System} {p : Parity} {line : Nat} (h : d.cbi.lockOk) :
    (d.leaveFault sys fc p line).cbi.lockOk := by
  unfold Desk.leaveFault
  split
  next hl =>
    refine Cbi.QueueWork.setDueInWindow.lock ?_
    exact lockOk_of_not_sending h (by simp [hl]) rfl id
  next => exact h

end

/-! ## Field and line boundaries, and records -/

namespace Cbi.QueueWork

variable {s : State}

theorem takeField (tk : Taking) : s.desk.cbi.QueueWork (s.takeField tk).desk.cbi := by
  unfold State.takeField
  exact fieldBoundary.after (cbi_postAll _)

theorem takeRecord (r : PulseRecord) : s.desk.cbi.QueueWork (s.takeRecord r).desk.cbi := by
  unfold State.takeRecord
  dsimp only
  split
  · refine trans ?_ (takeField _)
    exact refl _
  · exact refl _

theorem closeLine (time : Ts) : s.desk.cbi.QueueWork (s.closeLine time).1.desk.cbi :=
  of_eq (cbi_postAll _)

theorem handOver (step : Int) : s.desk.cbi.QueueWork (s.handOver step).1.desk.cbi :=
  of_eq (by simp [State.handOver])

theorem openLine : s.desk.cbi.QueueWork s.openLine.desk.cbi := cbiLine

theorem coast (before : Ft) : s.desk.cbi.QueueWork (s.coast before).desk.cbi := by
  unfold State.coast
  split
  · exact takeField _
  · exact refl _

theorem lineBoundary (time : Ts) : s.desk.cbi.QueueWork (s.lineBoundary time).desk.cbi := by
  unfold State.lineBoundary State.lineWork
  dsimp only
  split
  · exact (((closeLine time).trans (handOver _)).trans openLine).trans (coast _)
  · exact refl _

theorem falling (time : Ts) (before now : Code) : s.desk.cbi.QueueWork (s.falling time before now).desk.cbi := by
  unfold State.falling
  split <;> exact refl _

theorem rising (time : Ts) (before now : Code) (sum : Nat) :
    s.desk.cbi.QueueWork (s.rising time before now sum).desk.cbi := by
  unfold State.rising
  split
  · split
    · dsimp only
      split
      · refine trans ?_ (takeRecord _)
        exact refl _
      · exact refl _
    · exact refl _
  · exact refl _

theorem broad (time : Ts) : s.desk.cbi.QueueWork (s.broad time).desk.cbi := by
  unfold State.broad
  split
  · split
    · refine trans ?_ (takeRecord _)
      exact refl _
    · exact refl _
  · exact refl _

theorem loseActivity : s.desk.cbi.QueueWork s.loseActivity.desk.cbi := by
  unfold State.loseActivity
  split <;> exact refl _

theorem startLine : s.desk.cbi.QueueWork s.startLine.desk.cbi := by
  refine of_eq ?_
  unfold State.startLine Desk.takeKeyDelay
  dsimp only
  rw [onDesk_desk, onTime_desk]
  split <;> rfl

theorem pixelEdge (transp : Bool) : s.desk.cbi.QueueWork (s.pixelEdge transp).desk.cbi := by
  unfold State.pixelEdge
  split
  · split <;> exact refl _
  · exact refl _

/-! ## Requests -/

theorem query : s.desk.cbi.QueueWork s.query.desk.cbi := by
  unfold State.query
  dsimp only
  split
  · exact of_keeps rfl rfl id
  · exact refl _

theorem fence : s.desk.cbi.QueueWork s.fence.desk.cbi := by
  unfold State.fence
  dsimp only
  split
  · exact refl _
  · split
    · exact refl _
    · exact map _

theorem shift (amount : Int) : s.desk.cbi.QueueWork (s.shift amount).desk.cbi := by
  unfold State.shift
  split <;> exact refl _

theorem recentre : s.desk.cbi.QueueWork s.recentre.desk.cbi := by
  unfold State.recentre
  split
  · split <;> exact refl _
  · exact refl _

/-- A request is refused, or does its work. -/
theorem request (kind : Byte) {f : State → State} (hf : s.desk.cbi.QueueWork (f s).desk.cbi) :
    s.desk.cbi.QueueWork (s.request kind f).desk.cbi := by
  unfold State.request
  split
  · exact refl _
  · exact hf

end Cbi.QueueWork

/-! ## Commands -/

section
variable {s t : State}

/-- A command that runs `f`, while RESET is released (log 27). -/
theorem lockOk_of_running {f : State → State} (h : s.desk.cbi.lockOk) (hf : (f s).desk.cbi.lockOk)
    (he : Host.Outcome.next (s.running f) = (.next t : Host.Outcome State Fault Refusal)) : t.desk.cbi.lockOk := by
  cases he
  unfold State.running
  split
  · exact h
  · exact hf

/-- A command that is work on the queue. -/
theorem lockOk_of_work {f : State → State} (h : s.desk.cbi.lockOk) (hf : s.desk.cbi.QueueWork (f s).desk.cbi)
    (he : Host.Outcome.next (s.running f) = (.next t : Host.Outcome State Fault Refusal)) : t.desk.cbi.lockOk :=
  lockOk_of_running h (hf.lock h) he

/-- A request of the host. -/
theorem lockOk_of_request {f : State → State} {kind : Byte} (h : s.desk.cbi.lockOk)
    (hf : s.desk.cbi.QueueWork (f s).desk.cbi)
    (he : Host.Outcome.next (s.running (State.request kind f)) = (.next t : Host.Outcome State Fault Refusal)) :
    t.desk.cbi.lockOk :=
  lockOk_of_work h (.request kind hf) he

/-- A command that leaves the bus interface. -/
theorem lockOk_of_cbi {f : State → State} (h : s.desk.cbi.lockOk) (hf : (f s).desk.cbi = s.desk.cbi)
    (he : Host.Outcome.next (s.running f) = (.next t : Host.Outcome State Fault Refusal)) : t.desk.cbi.lockOk :=
  lockOk_of_work h (.of_eq hf) he

theorem lockOk_beaconIn (sender : Station) (payload : BitVec 64) (h : s.desk.cbi.lockOk) :
    (s.beaconIn sender payload).desk.cbi.lockOk := by
  unfold State.beaconIn
  split
  next b _ =>
    have heard := lockOk_accept (fc := s.fc) (stn := s.straps.stn) (n := sender) 1
      (f := Desk.takeBeacon s.fc sender b) (fun _ => .takeBeacon b) h
    dsimp only
    split <;> exact heard
  next => exact lockOk_accept 1 (fun x => .refl x.cbi) h

/-- No command leaves the lock set over an empty queue. -/
theorem lockOk_exec {i : Instr} (h : s.desk.cbi.lockOk) (he : exec i s = .next t) : t.desk.cbi.lockOk := by
  cases i with
  | hardwareReset => cases he; exact lockOk_of_clear rfl
  | resetRelease =>
    cases he
    split
    · exact lockOk_of_clear rfl
    · exact h
  | levelSearchWindowEnd => exact lockOk_of_cbi h rfl he
  | fallingCrossing => exact lockOk_of_work h (.falling ..) he
  | risingCrossing => exact lockOk_of_work h (.rising ..) he
  | broadClassified => exact lockOk_of_work h (.broad _) he
  | blankReading => exact lockOk_of_cbi h rfl he
  | syncActivityLoss => exact lockOk_of_work h .loseActivity he
  | lineBoundary => exact lockOk_of_work h (.lineBoundary _) he
  | holdAgingRunsOut =>
    refine lockOk_of_work h ?_ he
    split
    · exact .lineBoundary _
    · exact .refl _
  | coastedBoundary =>
    refine lockOk_of_work h ?_ he
    split
    · exact .lineBoundary _
    · exact .refl _
  | deliveredLineStart =>
    refine lockOk_of_work h ?_ he
    split
    · exact .startLine
    · exact .refl _
  | hsyncEnd => exact lockOk_of_cbi h rfl he
  | deliveredBoundaryGiven => exact lockOk_of_cbi h rfl he
  | vsyncEnd => exact lockOk_of_cbi h rfl he
  | pixelClockEdge => exact lockOk_of_work h (.pixelEdge _) he
  | trigFallingEdge => exact lockOk_of_cbi h rfl he
  | busIdle => exact lockOk_of_running h (lockOk_becomeIdle h) he
  | busFirstFall => exact lockOk_of_running h (lockOk_firstFall _ h) he
  | arbitrationLost => exact lockOk_of_running h (lockOk_loseAccess h) he
  | arbitrationWon => exact lockOk_of_running h (lockOk_winAccess h) he
  | attemptSucceeded => exact lockOk_of_running h (lockOk_succeedAttempt h) he
  | attemptFailed => exact lockOk_of_running h (lockOk_failAttempt _ h) he
  | frameError => exact lockOk_of_running h (lockOk_findError _ h) he
  | frameTruncated => exact lockOk_of_running h (lockOk_truncate h) he
  | frameObjected => exact lockOk_of_running h (lockOk_seeObjection h) he
  | beaconReceived => exact lockOk_of_running h (lockOk_beaconIn _ _ h) he
  | claimReceived => exact lockOk_of_running h (lockOk_accept 2 (f := Desk.withPt _) (fun x => .refl x.cbi) h) he
  | withdrawReceived => exact lockOk_of_running h (lockOk_accept 3 (f := Desk.withPt _) (fun x => .refl x.cbi) h) he
  | recallReceived => exact lockOk_of_running h (lockOk_accept 4 (fun _ => .takeRecall _) h) he
  | clearReceived => exact lockOk_of_running h (lockOk_accept 5 (fun _ => .takeClear) h) he
  | busFaultEnter => exact lockOk_of_running h (lockOk_enterFault h) he
  | busFaultCleared => exact lockOk_of_running h (lockOk_leaveFault h) he
  | malformedRequest =>
    refine lockOk_of_cbi h ?_ he
    split <;> rfl
  | configure => exact lockOk_of_request h (.configure _) he
  | reinit => exact lockOk_of_request h .reinit he
  | statusQuery => exact lockOk_of_request h .query he
  | loadCue => exact lockOk_of_request h (.of_eq (cbi_loadCue _ _)) he
  | freeCue => exact lockOk_of_request h (.of_eq cbi_freeCue) he
  | startChain => exact lockOk_of_request h .startChain he
  | pauseChain => exact lockOk_of_request h (.of_eq cbi_pauseChain) he
  | resumeChain => exact lockOk_of_request h .resumeChain he
  | abortChain => exact lockOk_of_request h .abortChain he
  | withdrawCue => exact lockOk_of_request h .withdrawCue he
  | clearAll => exact lockOk_of_request h .clearAll he
  | shift => exact lockOk_of_request h (.shift _) he
  | recentre => exact lockOk_of_request h .recentre he
  | holdSlips => exact lockOk_of_request h (.of_eq rfl) he
  | fence => exact lockOk_of_request h .fence he
  | reportTransferStart => exact lockOk_of_cbi h rfl he
  | reportTransferEnd => exact lockOk_of_cbi h rfl he
  | requestByteStrobe => exact lockOk_of_cbi h rfl he
  | reportByteAcknowledge => exact lockOk_of_cbi h rfl he

end

/-! ## The cells of the claim bus (R101 to R108, R116, R117) -/

section
variable {s : State}

theorem lockOk_onWire (f : Wire → Wire) (h : s.desk.cbi.lockOk) : (s.onWire f).desk.cbi.lockOk := h

theorem lockOk_joinCell (h : s.desk.cbi.lockOk) : s.joinCell.desk.cbi.lockOk := h

theorem lockOk_beginCell (h : s.desk.cbi.lockOk) : s.beginCell.desk.cbi.lockOk := by
  rw [State.beginCell, onDesk_desk, withCbi_cbi]
  unfold Cbi.beginCell
  split <;> exact h

/-- A command run from within a tick. -/
theorem lockOk_run (i : Instr) (h : s.desk.cbi.lockOk) : (s.run i).desk.cbi.lockOk := by
  unfold State.run
  split
  next he => exact lockOk_exec h he
  next => exact h
  next => exact h

/-- An accepted frame is handed on as a command of the bus. -/
theorem acceptFrame_eq_run (bits : List Bool) : ∃ i, s.acceptFrame bits = s.run i := by
  unfold State.acceptFrame
  dsimp only
  generalize rxKind bits = kind
  match kind with
  | 1 => exact ⟨.beaconReceived _ _, rfl⟩
  | 2 => exact ⟨.claimReceived _ _, rfl⟩
  | 3 => exact ⟨.withdrawReceived _ _, rfl⟩
  | 4 => exact ⟨.recallReceived _ _, rfl⟩
  | 0 | _ + 5 => exact ⟨.clearReceived _, rfl⟩

theorem lockOk_judgeFrame (bit : Bool) (bits : List Bool) (h : s.desk.cbi.lockOk) :
    (s.judgeFrame bit bits).desk.cbi.lockOk := by
  unfold State.judgeFrame
  split
  · exact lockOk_findError _ h
  · split
    · obtain ⟨i, hi⟩ := acceptFrame_eq_run (s := s) bits
      exact hi ▸ lockOk_run i h
    · exact lockOk_seeObjection h

/-- A receiver stays RECEIVING until its last end cell: neither there nor in WAIT is a frame of its own in flight. -/
theorem lockOk_atObjection {f : State → State} (h : (f s).desk.cbi.lockOk) : (s.atObjection f).desk.cbi.lockOk := by
  unfold State.atObjection State.enterEndCells
  refine lockOk_onWire _ ?_
  rw [onDesk_desk, withCbi_cbi]
  split
  next hw => exact lockOk_of_not_sending h (by simp [hw]) rfl id
  next => exact h

theorem lockOk_receiveBit (bit : Bool) (bits : List Bool) (h : s.desk.cbi.lockOk) :
    (s.receiveBit bit bits).desk.cbi.lockOk := by
  unfold State.receiveBit
  split
  · exact h
  · split
    · split
      · split
        · exact lockOk_findError _ h
        · exact h
      · exact h
    · split
      · exact lockOk_atObjection (lockOk_judgeFrame bit bits h)
      · exact h

theorem lockOk_ownObjection (bit : Bool) (h : s.desk.cbi.lockOk) : (s.ownObjection bit).desk.cbi.lockOk := by
  unfold State.ownObjection
  refine lockOk_onWire _ ?_
  rw [onDesk_desk]
  split
  · exact Cbi.QueueWork.attemptSent.lock h
  · exact Cbi.QueueWork.attemptObjected.lock h

theorem lockOk_sendBit (bit sent : Bool) (bits : List Bool) (total : Nat) (h : s.desk.cbi.lockOk) :
    (s.sendBit bit sent bits total).desk.cbi.lockOk := by
  unfold State.sendBit
  split
  · exact lockOk_ownObjection bit h
  · split
    · exact lockOk_receiveBit bit bits (lockOk_failAttempt (d := s.desk) true h)
    · exact h

theorem lockOk_sampleCell (bit : Bool) (h : s.desk.cbi.lockOk) : (s.sampleCell bit).desk.cbi.lockOk := by
  unfold State.sampleCell
  dsimp only
  split
  · exact h
  · split
    · split
      · split
        · exact h
        · exact lockOk_loseAccess (lockOk_onWire _ h)
      · exact h
    · exact lockOk_sendBit _ _ _ _ (lockOk_onWire _ h)
    · exact lockOk_receiveBit _ _ (lockOk_onWire _ h)
    · exact h

theorem lockOk_endFrame (h : s.desk.cbi.lockOk) : s.endFrame.desk.cbi.lockOk := by
  unfold State.endFrame
  refine lockOk_onWire _ ?_
  rw [onDesk_desk]
  split
  next hr => exact lockOk_of_not_sending h (by simp [hr]) rfl id
  next => exact lockOk_endOwnFrame h

theorem lockOk_closeCell (h : s.desk.cbi.lockOk) : s.closeCell.desk.cbi.lockOk := by
  have won : s.closeAccess.desk.cbi.lockOk := by
    unfold State.closeAccess
    dsimp only
    split
    · exact lockOk_winAccess h
    · exact h
  unfold State.closeCell State.closeFrame
  split
  · exact lockOk_endFrame won
  · exact won

theorem lockOk_wireFall (h : s.desk.cbi.lockOk) : s.wireFall.desk.cbi.lockOk := by
  unfold State.wireFall
  split
  · exact lockOk_firstFall _ h
  · exact lockOk_joinCell (lockOk_closeCell h)

theorem lockOk_wireTimes (h : s.desk.cbi.lockOk) : s.wireTimes.desk.cbi.lockOk := by
  unfold State.wireTimes
  dsimp only
  split
  · exact lockOk_enterFault h
  · split
    · exact lockOk_leaveFault h
    · split
      · exact lockOk_becomeIdle h
      · split
        · unfold State.silence
          split
          · exact lockOk_endFrame h
          · exact lockOk_truncate h
        · exact h

theorem lockOk_busTick (others : Bool) (h : s.desk.cbi.lockOk) : (s.busTick others).desk.cbi.lockOk := by
  have counted : (s.onWire (Wire.count (others || s.clbPulled))).desk.cbi.lockOk := lockOk_onWire _ h
  unfold State.busTick
  refine lockOk_wireTimes ?_
  split
  · exact lockOk_wireFall counted
  · split
    · exact lockOk_sampleCell _ counted
    · split
      · exact lockOk_beginCell (lockOk_closeCell counted)
      · split
        · exact lockOk_joinCell (lockOk_onWire _ counted)
        · exact counted

end

/-! ## The block's own clock -/

namespace Cbi.QueueWork

variable {s : State}

theorem boundaryIfDue : s.desk.cbi.QueueWork s.boundaryIfDue.desk.cbi := by
  unfold State.boundaryIfDue
  split
  · exact lineBoundary _
  · exact refl _

theorem crossing (before now : Code) : s.desk.cbi.QueueWork (s.crossing before now).desk.cbi := by
  unfold State.crossing
  dsimp only
  split
  · exact falling ..
  · split
    · exact rising ..
    · exact broad _

theorem checkTimer : s.desk.cbi.QueueWork s.checkTimer.desk.cbi := by
  unfold State.checkTimer
  split
  · exact loseActivity
  · exact refl _

theorem sample (v : Code) : s.desk.cbi.QueueWork (s.sample v).desk.cbi := by
  unfold State.sample
  split
  · exact refl _
  · unfold State.trackSample
    dsimp only
    refine trans ?_ checkTimer
    rw [onTime_desk]
    split
    · refine trans ?_ (crossing _ _)
      exact refl _
    · exact refl _

theorem reference (sampleFirst : Bool) (v : Code) : s.desk.cbi.QueueWork (s.reference sampleFirst v).desk.cbi := by
  unfold State.reference
  dsimp only
  refine trans (trans ?_ (sample v)) boundaryIfDue
  split
  · exact refl _
  · exact boundaryIfDue

theorem endVsync : s.desk.cbi.QueueWork s.endVsync.desk.cbi := by
  unfold State.endVsync
  split <;> exact refl _

theorem giveIf (p : Parity) : s.desk.cbi.QueueWork (s.giveIf p).desk.cbi := by
  unfold State.giveIf
  split <;> exact refl _

theorem tickPixel (transp : Bool) (o : OpenLine) : s.desk.cbi.QueueWork (s.tickPixel transp o).desk.cbi := by
  have hsync : s.desk.cbi.QueueWork (if o.pixel = hsyncPixels o.ppl
      then (s.pixelEdge transp).onTime (fun t => { t with tdu := { t.tdu with hsync := false } })
      else s.pixelEdge transp).desk.cbi := by
    split <;> exact pixelEdge transp
  unfold State.tickPixel
  dsimp only
  split
  · exact (hsync.trans endVsync).trans (giveIf _)
  · exact hsync

theorem pixelIfDue (transp : Bool) (now : Ts) : s.desk.cbi.QueueWork (s.pixelIfDue transp now).desk.cbi := by
  unfold State.pixelIfDue
  split
  · split
    · exact tickPixel _ _
    · exact refl _
  · exact refl _

theorem deliver (transp : Bool) (now : Ts) : s.desk.cbi.QueueWork (s.deliver transp now).desk.cbi := by
  unfold State.deliver
  refine trans ?_ (pixelIfDue _ _)
  split
  · exact (startLine.trans endVsync).trans (giveIf _)
  · exact refl _

theorem timebaseTick (o : TickOrder) (p : PinSample) (now : Ts) :
    s.desk.cbi.QueueWork (s.timebaseTick o p now).desk.cbi := by
  unfold State.timebaseTick
  split
  · exact (deliver _ _).trans (reference _ _)
  · exact (reference _ _).trans (deliver _ _)

end Cbi.QueueWork

section
variable {s : State}

theorem lockOk_hostTick (h : s.desk.cbi.lockOk) : s.hostTick.desk.cbi.lockOk := by
  unfold State.hostTick State.frameByte
  rw [onHp_cbi]
  dsimp only
  split
  · exact h
  · exact lockOk_run _ h
  · exact h

theorem lockOk_partTick (o : TickOrder) (p : PinSample) (now : Ts) (h : s.desk.cbi.lockOk) :
    (s.partTick o p now).desk.cbi.lockOk := by
  unfold State.partTick
  split
  · exact (Cbi.QueueWork.timebaseTick ..).lock (lockOk_busTick _ h)
  · exact lockOk_busTick _ ((Cbi.QueueWork.timebaseTick ..).lock h)

theorem lockOk_tick (p : PinSample) (h : s.desk.cbi.lockOk) : (s.tick p).desk.cbi.lockOk := by
  unfold State.tick
  split
  · exact h
  · unfold State.tickWith
    dsimp only
    rw [onTime_desk]
    split
    · exact lockOk_partTick _ _ _ (lockOk_hostTick h)
    · exact lockOk_hostTick (lockOk_partTick _ _ _ h)

theorem lockOk_idle (h : s.desk.cbi.lockOk) : s.idle.desk.cbi.lockOk := by
  unfold State.idle
  split
  · exact h
  · exact lockOk_tick _ h

/-- No step leaves the lock set over a queue with no entry and no frame in flight (R113). -/
theorem lockOk_step {t : State} (h : s.desk.cbi.lockOk) (he : step s = .next t) : t.desk.cbi.lockOk := by
  unfold step at he
  split at he
  next i rest _ => exact lockOk_exec (s := { s with pending := rest }) h he
  next =>
    cases he
    exact lockOk_idle h

end

/-- Settles O50: the placing is that of `passAhead`, and every step is work on the queue or a change of the line, each of
which keeps the form of the lock. -/
theorem withdrawPassesOnce : Obligations.WithdrawPassesOnce := by
  unfold Obligations.WithdrawPassesOnce
  refine ⟨fun i owner c => ⟨fun front rest hl hc hq hf hr => ?_, fun h => ?_⟩, fun s t => lockOk_step, rfl⟩
  · rw [enqueueWithdraw_of_passes (withdrawPasses_iff.mpr ⟨hl, hc⟩), hq,
      passAhead_append _ front rest (fun e he => heldFirst_iff.mpr (hf e he))
        (fun e he => heldFirst_eq_false_iff.mpr (hr e he))]
  · refine enqueueWithdraw_of_not_passes fun hp => ?_
    obtain ⟨hl, hc⟩ := withdrawPasses_iff.mp hp
    obtain h | ⟨e, he, h⟩ := h
    · simp [hl] at h
    · simp [hc e he] at h

end Sys2Proof.Machine

namespace Sys2Proof.Machine

/-! ## Outranking (R156) and the ranges over a region (R158, R161) -/

theorem outranks_of_clip_eq_none {r : OwnRegion} (hclip : r.clip = none) (stn n : Station) (layer : Layer) :
    outranks stn layer n r = true := by
  simp [outranks, hclip]

/-- Against an announced region the higher layer outranks, and at equal layers the lower station number (R156). -/
theorem outranks_iff_of_clip_ne_none {r : OwnRegion} (hclip : r.clip ≠ none) (stn n : Station) (layer : Layer) :
    outranks stn layer n r = true ↔ r.layer.val < layer.val ∨ (layer = r.layer ∧ n.val < stn.val) := by
  have hannounced : r.clip.isNone = false := Option.isNone_eq_false_iff.mpr (Option.isSome_iff_ne_none.mpr hclip)
  simp only [outranks, hannounced, Bool.false_or, Bool.or_eq_true, Bool.and_eq_true, decide_eq_true_eq, beq_iff_eq]

theorem coversLine_iff {line top bottom : Nat} : coversLine line top bottom = true ↔ top ≤ line ∧ line ≤ bottom := by
  simp only [coversLine, Bool.and_eq_true, decide_eq_true_eq]

/-- The occluders that cover the line and outrank the region give their occluded ranges, the blankets that outrank it the
whole line (R158, R161). -/
theorem Sb.mem_rangesOver {stn : Station} {v : LineVals} {line : Nat} {r : OwnRegion} {sb : Sb} {z : Ivl} :
    z ∈ sb.rangesOver stn v line r ↔
      (∃ o ∈ sb.occluders, o.claim.top ≤ line ∧ line ≤ o.claim.bottom ∧
        outranks stn o.claim.layer o.station r = true ∧ z = v.occluded o.claim.left o.claim.right) ∨
      (∃ b ∈ sb.blankets, outranks stn b.layer b.station r = true ∧ z = (0, (v.ppl : Int) - 1)) := by
  unfold Sb.rangesOver
  rw [List.mem_append]
  refine or_congr ?_ ?_
  · simp only [List.mem_map, List.mem_filter, Bool.and_eq_true, coversLine_iff, and_assoc, eq_comm (a := z)]
  · simp only [List.mem_map, List.mem_filter, and_assoc, eq_comm (a := z)]

/-- Settles O51: the test by layer and station, the unannounced region apart, and the ranges as those of the occluders and
blankets that pass it for the region. -/
theorem outrankingByLayerThenStation : Obligations.OutrankingByLayerThenStation := by
  unfold Obligations.OutrankingByLayerThenStation
  constructor
  · intro stn n layer r
    exact ⟨fun hclip => outranks_iff_of_clip_ne_none hclip stn n layer,
      fun hclip => outranks_of_clip_eq_none hclip stn n layer⟩
  · intro stn v line r sb z
    exact Sb.mem_rangesOver

end Sys2Proof.Machine

namespace Sys2Proof.Machine

/-! ## Work of the Cue Engine (08)

What the Cue Engine and the bus interface do to the claim half between them: the bus interface changes, reports are posted, a
FENCE is counted down, and slots and chains move as R140 to R150 let them. The Peer Table, the Span Builder and the Keyer are
left. `air` says whether cues may become SCHEDULED or ON_AIR. -/

/-- How one slot of `ce` moves (R140, R142 to R144, R146): an ARMED cue becomes live only within the limits of R140. -/
inductive CueSlot.Moves (air : Bool) (ce : Ce) (x y : CueSlot) : Prop
  | mark (hst : y.st = x.st) (hchain : y.chain = x.chain) (hcue : y.cue = x.cue)
  | arm (c : ChainNo) (p : Option Slot) (b : Bool) (hst : x.st = .loaded) (hy : y = x.armedFor c p b)
  | enter (hst : x.st = .armed) (hlive : ce.liveCount < 16) (hfull : ∀ c, x.chain = some c → ce.chainLive c < 2)
      (hy : y.st = .claiming ∨ air = true ∧ y.st = .onAir) (hchain : y.chain = x.chain) (hcue : y.cue = x.cue)
  | rise (hair : air = true) (hst : x.st.live = true) (hy : y.st = .scheduled ∨ y.st = .onAir)
      (hchain : y.chain = x.chain) (hcue : y.cue = x.cue)
  | ending (hst : x.st.live = true) (hy : y.st = .ending) (hchain : y.chain = x.chain) (hcue : y.cue = x.cue)
  | unload (hst : x.st ≠ .free) (hy : y = CueSlot.idle .loaded x.cue)

/-- The work of the Cue Engine and the bus interface. -/
inductive Desk.Work (air : Bool) : Desk → Desk → Prop
  | refl (d : Desk) : Desk.Work air d d
  | trans {d e f : Desk} : Desk.Work air d e → Desk.Work air e f → Desk.Work air d f
  | cbi (x : Cbi) (d : Desk) : Desk.Work air d { d with cbi := x }
  | post (fc : FieldCount) (r : Report) (d : Desk) : Desk.Work air d (d.post fc r)
  | fence (b : Bool) (n : Nat) (d : Desk) : Desk.Work air d { d with hp := { d.hp with fence := b, fenceLeft := n } }
  | trigger (d : Desk) : Desk.Work air d { d with ce := { d.ce with trigger := false } }
  | slot {d : Desk} {i : Slot} {f : CueSlot → CueSlot} :
      CueSlot.Moves air d.ce (d.slot i) (f (d.slot i)) → Desk.Work air d (d.modSlot i f)
  | marks {f : CueSlot → CueSlot} (d : Desk) :
      (∀ x, (f x).st = x.st ∧ (f x).chain = x.chain ∧ (f x).cue = x.cue) →
      Desk.Work air d { d with ce := { d.ce with slots := d.ce.slots.map f } }
  | free {d : Desk} {i : Slot} : (d.slot i).st ≠ .free → Desk.Work air d (d.freeSlot i)
  | chain {d : Desk} {c : ChainNo} {f : Chain → Chain} :
      (f (d.chain c)).st = (d.chain c).st → Desk.Work air d (d.modChain c f)
  | abort {d : Desk} {c : ChainNo} : (d.chain c).st ≠ .idle → Desk.Work air d (d.modChain c Chain.abort)
  | settle {d : Desk} {c : ChainNo} : (d.chain c).outcome ≠ none → d.ce.chainLive c = 0 →
      Desk.Work air d (d.modChain c (fun _ => Chain.idle))

namespace Desk.Work

variable {air : Bool} {d e : Desk} {fc : FieldCount} {i : Slot} {c : ChainNo}

theorem fold {α : Type} (f : Desk → α → Desk) (hf : ∀ x a, Desk.Work air x (f x a)) (l : List α) :
    ∀ d, Desk.Work air d (l.foldl f d) := by
  induction l with
  | nil => exact refl
  | cons a l ih => exact fun d => (hf d a).trans (ih _)

theorem withCbi (f : Cbi → Cbi) (d : Desk) : Desk.Work air d (d.withCbi f) := cbi _ d

/-- A slot changed without its state, its chain or its record. -/
theorem mark {f : CueSlot → CueSlot} (hst : (f (d.slot i)).st = (d.slot i).st)
    (hchain : (f (d.slot i)).chain = (d.slot i).chain) (hcue : (f (d.slot i)).cue = (d.slot i).cue) :
    Desk.Work air d (d.modSlot i f) := slot (.mark hst hchain hcue)

theorem itemLeft (m : Bool) : Desk.Work air d (d.itemLeft fc m) := by
  unfold Desk.itemLeft
  split
  · split
    · exact (fence false 0 d).trans (post ..)
    · exact fence _ _ d
  · exact refl d

/-! ### Going live and arming (R140, R142, R143) -/

theorem regionFull : Desk.Work air d (d.regionFull fc i) := by
  unfold Desk.regionFull
  split
  · exact refl d
  · exact trans (mark rfl rfl rfl) (post ..)

theorem chainFull_eq_false_iff :
    d.chainFull i = false ↔ ∀ c, (d.slot i).chain = some c → d.ce.chainLive c < 2 := by
  unfold Desk.chainFull
  split
  next c hc => simp [hc]
  next hc => simp [hc]

theorem tryStart : Desk.Work air d (d.tryStart fc i) := by
  unfold Desk.tryStart
  dsimp only
  split
  next ha =>
    unfold Desk.tryClaim
    split
    · exact regionFull
    next hlive =>
      split
      · exact refl d
      next hfull =>
        unfold Desk.offerClaim
        split
        · refine trans (withCbi _ d) (slot ?_)
          exact .enter ha.1 (Nat.lt_of_not_le hlive) (chainFull_eq_false_iff (d := d).mp (by simpa using hfull))
            (.inl rfl) rfl rfl
        · exact refl d
  · exact refl d

theorem offerWithdraw : Desk.Work air d (d.offerWithdraw i) := by
  unfold Desk.offerWithdraw
  dsimp only
  split
  · exact trans (withCbi _ d) (mark rfl rfl rfl)
  · exact refl d

theorem retry : Desk.Work air d (d.retry fc) :=
  trans (fold (fun x i => x.offerWithdraw i) (fun _ _ => offerWithdraw) allSlots d)
    (fold (fun x i => x.tryStart fc i) (fun _ _ => tryStart) allSlots _)

theorem retryIfReleased (before : Desk) : Desk.Work air d (d.retryIfReleased fc before) := by
  unfold Desk.retryIfReleased
  split
  · exact retry
  · exact refl d

theorem testStart : Desk.Work air d (d.testStart fc i) := by
  unfold Desk.testStart
  dsimp only
  split
  · exact mark rfl rfl rfl
  · exact refl d

theorem arm (p : Option Slot) (b : Bool) (h : (d.slot i).st = .loaded) : Desk.Work air d (d.arm fc c i p b) := by
  have armed : Desk.Work air d (d.modSlot i (CueSlot.armedFor c p b)) := slot (.arm c p b h rfl)
  exact (armed.trans (chain rfl)).trans testStart

theorem tryArmed : Desk.Work air d (d.tryArmed fc c) := by
  unfold Desk.tryArmed
  split
  · exact tryStart
  · exact refl d

theorem armSuccessor (p : Slot) (n : Option Slot) (b : Bool) : Desk.Work air d (d.armSuccessor fc c p n b) := by
  unfold Desk.armSuccessor
  split
  · exact chain rfl
  · split
    next hl => exact arm _ _ hl
    · exact chain rfl
    · exact chain rfl

theorem succeed (b : Bool) : Desk.Work air d (d.succeed fc i b) := by
  unfold Desk.succeed
  dsimp only
  split
  · split
    · exact refl d
    · exact trans (mark rfl rfl rfl) (armSuccessor ..)
  · exact refl d

theorem checkChain : Desk.Work air d (d.checkChain fc c) := by
  unfold Desk.checkChain
  split
  · exact refl d
  next o ho =>
    split
    next hl => exact (settle (by simp [ho]) hl).trans (post ..)
    next => exact refl d

theorem checkChains : Desk.Work air d (d.checkChains fc) :=
  fold (fun x c => x.checkChain fc c) (fun _ _ => checkChain) allChains d

theorem checkChainOf (o : Option ChainNo) : Desk.Work air d (d.checkChainOf fc o) := by
  unfold Desk.checkChainOf
  split
  · exact checkChain
  · exact refl d

theorem wakeChain : Desk.Work air d (d.wakeChain fc i c) := by
  unfold Desk.wakeChain
  split
  · split
    · split
      next hl => exact arm _ _ hl
      · exact (chain rfl).trans checkChain
      · exact refl d
    · exact refl d
  · exact refl d

theorem wake : Desk.Work air d (d.wake fc i) :=
  fold (fun x c => x.wakeChain fc i c) (fun _ _ => wakeChain) allChains d

/-! ### Endings (R146, R147) -/

theorem cueReport (ev : CueEvent) : Desk.Work air d (d.cueReport fc i ev) := post ..

theorem unloadRun (h : (d.slot i).st ≠ .free) : Desk.Work air d (d.unloadRun i) := slot (.unload h rfl)

theorem ended (h : (d.slot i).st ≠ .free) : Desk.Work air d (d.ended fc i) := by
  unfold Desk.ended
  dsimp only
  have told : Desk.Work air d (if (d.slot i).cue.notifyEnd = true then d.cueReport fc i .ended else d) := by
    split
    · exact cueReport _
    · exact refl d
  have still : ((if (d.slot i).cue.notifyEnd = true then d.cueReport fc i .ended else d).slot i).st ≠ .free := by
    split <;> exact h
  refine (told.trans ?_).trans wake
  generalize (if (d.slot i).cue.notifyEnd = true then d.cueReport fc i .ended else d) = t at still
  split
  · exact free still
  · exact unloadRun still

theorem failed (h : (d.slot i).st ≠ .free) : Desk.Work air d (d.failed fc i) := by
  unfold Desk.failed
  exact ((cueReport _).trans (unloadRun h)).trans wake

theorem endForChain : Desk.Work air d (d.endForChain i) := by
  unfold Desk.endForChain
  split
  · refine trans (marks d (fun x => ?_)) (chain rfl)
    unfold markPredEnded
    split <;> exact ⟨rfl, rfl, rfl⟩
  · exact refl d

theorem succeedNow : Desk.Work air d (d.succeedNow fc i) := by
  unfold Desk.succeedNow
  split
  · split
    · exact refl d
    · exact succeed _
  · exact refl d

end Desk.Work

section
variable {d : Desk} {fc : FieldCount} {i j : Slot}

theorem st_endForChain : ((d.endForChain j).slot i).st = (d.slot i).st := by
  obtain ⟨b, hb⟩ := slot_endForChain_marked (d := d) (i := i) (j := j)
  rw [hb]

/-- The succession of a cue leaves its own slot but for the note that it has been made (R142). -/
theorem slot_succeed_self (b : Bool) (h : (d.slot i).st ≠ .loaded) :
    ∃ done, (d.succeed fc i b).slot i = { d.slot i with succDone := done } := by
  unfold Desk.succeed
  dsimp only
  split
  · split
    · exact ⟨_, rfl⟩
    · refine ⟨true, ?_⟩
      rw [slot_armSuccessor (by simpa using h), slot_modSlot_self]
  · exact ⟨_, rfl⟩

theorem slot_succeedNow_self (h : (d.slot i).st ≠ .loaded) :
    ∃ done, (d.succeedNow fc i).slot i = { d.slot i with succDone := done } := by
  unfold Desk.succeedNow
  split
  · split
    · exact ⟨_, rfl⟩
    · exact slot_succeed_self true h
  · exact ⟨_, rfl⟩

theorem CueSt.ne_free_of_live {x : CueSt} (h : x.live = true) : x ≠ .free := by rintro rfl; cases h
theorem CueSt.ne_loaded_of_live {x : CueSt} (h : x.live = true) : x ≠ .loaded := by rintro rfl; cases h

/-- A live cue whose chain takes it as ended, and arms its successor, is still in its slot. -/
theorem ne_free_succeedNow_endForChain (h : (d.slot i).st.live = true) :
    (((d.endForChain i).succeedNow fc i).slot i).st ≠ .free := by
  have live : ((d.endForChain i).slot i).st.live = true := by rw [st_endForChain]; exact h
  obtain ⟨done, hs⟩ := slot_succeedNow_self (fc := fc) (CueSt.ne_loaded_of_live live)
  rw [hs]
  exact CueSt.ne_free_of_live live

end

namespace Desk.Work

variable {air : Bool} {d e : Desk} {fc : FieldCount} {i : Slot} {c : ChainNo}

theorem endNow (h : (d.slot i).st.live = true) : Desk.Work air d (d.endNow fc i) := by
  unfold Desk.endNow
  exact ((endForChain.trans succeedNow).trans (ended (ne_free_succeedNow_endForChain h))).trans (checkChainOf _)

theorem failNow (h : (d.slot i).st.live = true) : Desk.Work air d (d.failNow fc i) := by
  unfold Desk.failNow
  exact ((endForChain.trans succeedNow).trans (failed (ne_free_succeedNow_endForChain h))).trans (checkChainOf _)

theorem beginEnd (h : (d.slot i).st.live = true) : Desk.Work air d (d.beginEnd fc i) := by
  have live : ((d.endForChain i).slot i).st.live = true := by rw [st_endForChain]; exact h
  unfold Desk.beginEnd
  dsimp only
  split
  · exact (endForChain.trans (slot (.ending live rfl rfl rfl))).trans offerWithdraw
  · exact endForChain.trans (ended (CueSt.ne_free_of_live live))

/-- What a sent CLAIM brings to a cue that is to end (R147, R150). -/
theorem claimSent_ending (x : Claim) (h : (d.slot i).dropAfter = true ∨ (d.slot i).endAfter = true) :
    Desk.Work air d (d.claimSent fc i x) := by
  unfold Desk.claimSent
  dsimp only
  split
  · exact refl d
  next hc =>
    have live : (d.slot i).st.live = true := by rw [not_ne_iff.mp hc]; rfl
    split
    · exact trans (mark rfl rfl rfl) (endNow (by simpa using live))
    · split
      · refine trans ?_ (checkChainOf _)
        refine trans ?_ succeedNow
        refine trans ?_ endForChain
        exact trans (slot (.ending live rfl rfl rfl)) offerWithdraw
      · simp_all

theorem claimSent (x : Claim) : Desk.Work true d (d.claimSent fc i x) := by
  by_cases hc : (d.slot i).st = .claiming
  · by_cases he : (d.slot i).dropAfter = true ∨ (d.slot i).endAfter = true
    · exact claimSent_ending x he
    · obtain ⟨hd, he⟩ := not_or.mp he
      unfold Desk.claimSent
      simp only [hc, hd, he, ne_eq, not_true_eq_false, if_false]
      exact slot (f := fun y => { y with st := .scheduled, claim := some x })
        (.rise rfl (by rw [hc]; rfl) (.inl rfl) rfl rfl)
  · unfold Desk.claimSent
    simp only [ne_eq, hc, not_false_eq_true, if_true]
    exact refl d

theorem claimAbandoned : Desk.Work air d (d.claimAbandoned fc i) := by
  unfold Desk.claimAbandoned
  split
  next hc => exact failNow (by rw [hc]; rfl)
  next => exact refl d

theorem claimGone : Desk.Work air d (d.claimGone fc i) := by
  unfold Desk.claimGone
  split
  next hc => exact endNow (by rw [hc]; rfl)
  next => exact refl d

theorem withdrawDone : Desk.Work air d (d.withdrawDone fc i) := by
  unfold Desk.withdrawDone
  split
  next hc => exact (ended (by simp [hc])).trans (checkChainOf _)
  next => exact refl d

theorem frameDiscarded (w : TxWhat) : Desk.Work air d (d.frameDiscarded fc w) := by
  unfold Desk.frameDiscarded
  split
  · exact claimGone
  · exact withdrawDone
  all_goals exact refl d

theorem beaconSent (b : Beacon) : Desk.Work air d (d.beaconSent b) := by
  refine fold (fun x i => x.modSlot i (CueSlot.takeBeacon b i)) (fun x i => ?_) allSlots d
  have same (y : CueSlot) : (y.takeBeacon b i).st = y.st ∧ (y.takeBeacon b i).chain = y.chain ∧
      (y.takeBeacon b i).cue = y.cue := by
    unfold CueSlot.takeBeacon
    split <;> exact ⟨rfl, rfl, rfl⟩
  exact mark (same _).1 (same _).2.1 (same _).2.2

/-! ### The field boundary (R145) -/

theorem stepTrigger (cs : List ChainNo) : Desk.Work air d (d.stepTrigger cs) := by
  refine trans (fold Desk.triggerStart (fun x c => ?_) cs d) (trigger _)
  unfold Desk.triggerStart
  split
  · split
    · exact mark rfl rfl rfl
    · exact refl x
  · exact refl x

theorem countDown : Desk.Work air d (d.countDown i) := by
  unfold Desk.countDown
  dsimp only
  split
  · exact mark rfl rfl rfl
  · exact refl d

theorem stepEnd (x : EndedCue) (h : (d.slot x.slot).st.live = true) : Desk.Work air d (d.stepEnd fc x) :=
  (beginEnd h).trans (checkChainOf _)

/-- The cues due to end, each in SCHEDULED or ON_AIR and each once, end one after the other. -/
theorem stepEnds (es : List EndedCue) : ∀ {d : Desk}, (es.map EndedCue.slot).Nodup →
    (∀ x ∈ es, (d.slot x.slot).st = .scheduled ∨ (d.slot x.slot).st = .onAir) →
    Desk.Work air d (es.foldl (Desk.stepEnd fc) d) := by
  induction es with
  | nil => exact fun _ _ => refl _
  | cons x es ih =>
    intro d hn hs
    obtain ⟨hx, hn⟩ := List.nodup_cons.mp hn
    have first : (d.slot x.slot).st.live = true := by
      rcases hs x List.mem_cons_self with h | h <;> rw [h] <;> rfl
    refine (stepEnd x first).trans (ih hn (fun y hy => ?_))
    have other : x.slot ≠ y.slot := fun e => hx (e ▸ List.mem_map_of_mem hy)
    have hy' := hs y (List.mem_cons_of_mem _ hy)
    obtain ⟨b, hb⟩ := slot_stepEnd_ne (fc := fc) (d := d) other (by rcases hy' with h | h <;> simp [h])
      (by rcases hy' with h | h <;> simp [h])
    rw [hb]
    exact hy'

theorem stepSucceed (x : EndedCue) : Desk.Work air d (d.stepSucceed fc x) := by
  unfold Desk.stepSucceed
  dsimp only
  split
  · exact refl d
  · split
    · exact refl d
    · have marked : Desk.Work air d (if (d.slot x.slot).st = .ending
          then d.modSlot x.slot (fun y => { y with succDone := true }) else d) := by
        split
        · exact mark rfl rfl rfl
        · exact refl d
      split
      · exact (marked.trans (armSuccessor ..)).trans checkChain
      · split
        · exact (marked.trans (armSuccessor ..)).trans checkChain
        · exact marked.trans (chain rfl)
      · exact refl d
      · exact refl d

end Desk.Work

/-- A cue that is due to end is SCHEDULED or ON_AIR (R145). -/
theorem Desk.st_of_dueToEnd {cs : List ChainNo} {d : Desk} {i : Slot} (h : d.dueToEnd cs i = true) :
    (d.slot i).st = .scheduled ∨ (d.slot i).st = .onAir := by
  simp only [Desk.dueToEnd, Bool.or_eq_true, Bool.and_eq_true, beq_iff_eq] at h
  rcases h with ⟨_, h⟩ | ⟨⟨h, _⟩, _⟩
  · exact h
  · exact .inr h

theorem Desk.endings_slots (cs : List ChainNo) (d : Desk) :
    (d.endings cs).map EndedCue.slot = allSlots.filter (d.dueToEnd cs) := by
  unfold Desk.endings
  rw [List.map_map]
  exact List.map_id _

theorem Desk.nodup_endings (cs : List ChainNo) (d : Desk) : ((d.endings cs).map EndedCue.slot).Nodup := by
  rw [Desk.endings_slots]
  exact (List.nodup_finRange 32).filter _

theorem Desk.st_of_mem_endings {cs : List ChainNo} {d : Desk} {x : EndedCue} (h : x ∈ d.endings cs) :
    (d.slot x.slot).st = .scheduled ∨ (d.slot x.slot).st = .onAir := by
  have hm : x.slot ∈ allSlots.filter (d.dueToEnd cs) := Desk.endings_slots cs d ▸ List.mem_map_of_mem h
  exact Desk.st_of_dueToEnd (List.mem_filter.mp hm).2

namespace Desk.Work

variable {air : Bool} {d e : Desk} {fc : FieldCount} {i : Slot} {c : ChainNo}

theorem boundaryEndings : Desk.Work air d (d.boundaryEndings fc) := by
  unfold Desk.boundaryEndings
  dsimp only
  have counted : Desk.Work air d (allSlots.foldl Desk.countDown (d.stepTrigger d.consumers)) :=
    (stepTrigger _).trans (fold Desk.countDown (fun _ _ => countDown) allSlots _)
  have ended := counted.trans (stepEnds (fc := fc) _ (Desk.nodup_endings d.consumers _)
    (fun x hx => Desk.st_of_mem_endings hx))
  exact ended.trans (fold (Desk.stepSucceed fc) (fun _ x => stepSucceed x) _ _)

/-- A cue that may go on air: SCHEDULED, or ARMED and within the limits of R140. -/
theorem goOnAir (h : CueSlot.Moves true d.ce (d.slot i)
    { d.slot i with st := .onAir, remaining := (d.slot i).cue.duration }) : Desk.Work true d (d.goOnAir fc i) := by
  have risen : Desk.Work true d (d.modSlot i (fun z => { z with st := .onAir, remaining := z.cue.duration })) := slot h
  unfold Desk.goOnAir
  dsimp only
  split
  · split
    · exact (risen.trans (chain rfl)).trans (cueReport _)
    · exact risen.trans (cueReport _)
  · split
    · exact risen.trans (chain rfl)
    · exact risen

theorem stepOnAir (ripe : List Slot) : Desk.Work true d (d.stepOnAir fc ripe i) := by
  unfold Desk.stepOnAir
  split
  next hm =>
    split
    next hs => exact goOnAir (.rise rfl (by rw [hs]; rfl) (.inr rfl) rfl rfl)
    next hs =>
      have armed : (d.slot i).st = .armed := by
        unfold Desk.mayGoOnAir at hm
        simp only [Bool.and_eq_true, Bool.or_eq_true, beq_iff_eq] at hm
        obtain ⟨_, ⟨⟨⟨hst, _⟩, _⟩, _⟩ | ⟨⟨⟨hst, _⟩, _⟩, _⟩⟩ := hm
        · exact absurd hst hs
        · exact hst
      split
      · exact regionFull
      next hlive =>
        split
        · exact refl d
        next hfull =>
          exact goOnAir (.enter armed (Nat.lt_of_not_le hlive) (chainFull_eq_false_iff.mp (by simpa using hfull))
            (.inr ⟨rfl, rfl⟩) rfl rfl)
  next => exact refl d

theorem stepPreroll : Desk.Work air d (d.stepPreroll fc i) := by
  unfold Desk.stepPreroll
  dsimp only
  split
  · split
    · exact (succeed _).trans tryArmed
    · exact refl d
  · exact refl d

theorem boundaryStarts (ripe : List Slot) : Desk.Work true d (d.boundaryStarts fc ripe) := by
  unfold Desk.boundaryStarts
  generalize allSlots = l
  dsimp only
  have tested := fold (air := true) (fun (x : Desk) i => x.testStart fc i) (fun _ _ => testStart) l d
  have onAir := (tested.trans (retry (fc := fc))).trans (fold (Desk.stepOnAir fc ripe) (fun _ _ => stepOnAir ripe) l _)
  exact onAir.trans (fold (Desk.stepPreroll fc) (fun _ _ => stepPreroll) l _)

theorem ceBoundary : Desk.Work true d (d.ceBoundary fc) := boundaryEndings.trans (boundaryStarts _)

/-! ### Stops (R148, R150, R151) -/

theorem endClaiming (a : Bool) : Desk.Work air d (d.endClaiming fc a i) := by
  unfold Desk.endClaiming
  dsimp only
  split
  · split
    · exact ((withCbi _ d).trans (itemLeft _)).trans claimGone
    · split
      · exact trans (mark rfl rfl rfl) (withCbi ..)
      · exact mark rfl rfl rfl
  · exact mark rfl rfl rfl

theorem abortCue (b : Bool) : Desk.Work air d (d.abortCue fc b i) := by
  unfold Desk.abortCue
  split
  next hs => exact ((unloadRun (by simp [hs])).trans wake).trans tryStart
  next hs =>
    split
    · exact beginEnd (by rw [hs]; rfl)
    · exact mark rfl rfl rfl
  next hs =>
    split
    · exact beginEnd (by rw [hs]; rfl)
    · exact mark rfl rfl rfl
  next => exact endClaiming _
  all_goals exact refl d

theorem abortWith (b : Bool) : Desk.Work air d (d.abortWith fc b c) := by
  unfold Desk.abortWith
  dsimp only
  split
  · exact refl d
  next hi => exact ((abort hi).trans (fold (Desk.abortCue fc b) (fun _ _ => abortCue b) _ _)).trans checkChain

theorem abortChains : Desk.Work air d d.abortChains := by
  unfold Desk.abortChains
  refine fold _ (fun x c => ?_) allChains d
  split
  · exact refl x
  next hi => exact abort hi

theorem abortAllAtOnce : Desk.Work air d (d.abortAllAtOnce fc) :=
  (abortChains.trans (fold (Desk.abortWith fc true) (fun _ _ => abortWith true) allChains _)).trans (retryIfReleased d)

theorem stopCue : Desk.Work air d (d.stopCue fc i) := by
  have gone (hl : (d.slot i).st.live = true) : Desk.Work air d ((d.endForChain i).ended fc i) :=
    endForChain.trans (ended (by rw [st_endForChain]; exact CueSt.ne_free_of_live hl))
  unfold Desk.stopCue
  split
  next hs => exact unloadRun (by simp [hs])
  next hs => exact gone (by rw [hs]; rfl)
  next hs => exact gone (by rw [hs]; rfl)
  next => exact mark rfl rfl rfl
  next hs =>
    split
    · exact refl d
    · exact ended (by simp [hs])
  all_goals exact refl d

theorem stopCues : Desk.Work air d (d.stopCues fc) :=
  abortChains.trans (fold (Desk.stopCue fc) (fun _ _ => stopCue) allSlots _)

theorem tellDiscards (es : List TxEntry) : Desk.Work air d (d.tellDiscards fc es) := by
  unfold Desk.tellDiscards
  refine fold _ (fun x e => ?_) es d
  dsimp only
  split
  · exact (itemLeft _).trans (frameDiscarded _)
  · exact itemLeft _

/-! ### Requests (R141, R147) -/

theorem withdrawCue : Desk.Work air d (d.withdrawCue fc i) := by
  unfold Desk.withdrawCue
  split
  · exact post ..
  · exact post ..
  · exact post ..
  · exact mark rfl rfl rfl
  · exact mark rfl rfl rfl
  · split
    · exact refl d
    · exact (endClaiming _).trans (retryIfReleased d)
  · exact refl d

theorem abortChain : Desk.Work air d (d.abortChain fc c) := by
  unfold Desk.abortChain
  split
  · exact post ..
  · exact post ..
  · exact (abortWith _).trans (retryIfReleased d)

theorem armDue : Desk.Work air d (d.armDue fc c) := by
  unfold Desk.armDue
  split
  · exact (((chain rfl).trans (armSuccessor ..)).trans tryArmed).trans checkChain
  · exact refl d

/-! ### Frames (R106 to R117) -/

theorem leaveQueue (x : TxEntry) : Desk.Work air d (d.leaveQueue fc x) := (withCbi _ d).trans (itemLeft _)

theorem tellGone (x : TxEntry) : Desk.Work air d (d.tellGone fc x) := by
  unfold Desk.tellGone
  split
  · exact (frameDiscarded _).trans retry
  · exact refl d

theorem tellAbandoned (x : TxEntry) : Desk.Work air d (d.tellAbandoned fc x) := by
  unfold Desk.tellAbandoned
  split
  · refine trans ?_ retry
    split
    · exact claimAbandoned
    · exact withdrawDone
    all_goals exact refl d
  · exact refl d

theorem tellSent (x : TxEntry) (contents : FrameContents) : Desk.Work true d (d.tellSent fc x contents) := by
  unfold Desk.tellSent
  split
  · refine trans ?_ retry
    split
    · exact claimSent _
    · exact withdrawDone
    · exact refl d
  · exact refl d

theorem releaseEntry (leaves : TxEntry → Bool) : Desk.Work air d (d.releaseEntry fc leaves) := by
  unfold Desk.releaseEntry
  split
  · exact refl d
  · split
    · exact (leaveQueue _).trans (tellGone _)
    · exact withCbi _ d

theorem loseAccess : Desk.Work air d (d.loseAccess fc) := by
  unfold Desk.loseAccess
  split
  · exact (withCbi _ d).trans (releaseEntry _)
  · exact refl d

theorem debit : Desk.Work air d (d.debit fc) := by
  unfold Desk.debit
  dsimp only
  split
  · exact ((withCbi _ d).trans (withCbi ..)).trans (post ..)
  · exact withCbi _ d

theorem charge (a : Attempt) : Desk.Work air d (d.charge fc a) := by
  unfold Desk.charge
  split
  · exact refl d
  · exact refl d
  · split
    · exact debit
    · exact withCbi _ d

theorem winAccess : Desk.Work air d (d.winAccess fc) := by
  unfold Desk.winAccess
  dsimp only
  split
  · split
    · exact (withCbi _ d).trans (charge _)
    · exact withCbi _ d
  · exact refl d

theorem attemptSent : Desk.Work true d (d.attemptSent fc) := by
  unfold Desk.attemptSent
  split
  · exact refl d
  · split
    · exact (withCbi _ d).trans (beaconSent _)
    · split
      · exact (leaveQueue _).trans (tellSent _ _)
      · exact refl d

theorem endOwnFrame : Desk.Work air d (d.endOwnFrame fc) := by
  unfold Desk.endOwnFrame
  dsimp only
  split
  · split
    · exact ((withCbi _ d).trans (releaseEntry _)).trans (withCbi ..)
    · exact withCbi _ d
  · exact refl d

theorem succeedAttempt : Desk.Work true d (d.succeedAttempt fc) := by
  unfold Desk.succeedAttempt
  split
  · exact attemptSent.trans endOwnFrame
  · exact refl d

theorem failEntry : Desk.Work air d (d.failEntry fc) := by
  unfold Desk.failEntry
  split
  · exact refl d
  · split
    · exact (leaveQueue _).trans (tellGone _)
    · split
      · exact ((leaveQueue _).trans (withCbi ..)).trans (tellAbandoned _)
      · exact withCbi _ d

theorem countFailure (a : Option Attempt) : Desk.Work air d (d.countFailure fc a) := by
  unfold Desk.countFailure
  split
  · exact refl d
  · split
    · exact withCbi _ d
    · exact failEntry.trans (withCbi ..)

theorem attemptObjected : Desk.Work air d (d.attemptObjected fc) := (withCbi _ d).trans (countFailure _)

theorem failAttempt (collision : Bool) : Desk.Work air d (d.failAttempt fc collision) := by
  unfold Desk.failAttempt
  split
  · split
    · exact (withCbi _ d).trans (countFailure _)
    · exact attemptObjected.trans endOwnFrame
  · exact refl d

theorem cutShort : Desk.Work air d (d.cutShort fc) := by
  have ended : Desk.Work air (d.loseAccess fc) ((d.loseAccess fc).endIfDecided fc) := by
    unfold Desk.endIfDecided
    split
    · exact endOwnFrame
    · exact refl _
  exact (loseAccess.trans ended).trans (failAttempt true)

theorem enterFault : Desk.Work air d (d.enterFault fc) := by
  unfold Desk.enterFault
  split
  · exact refl d
  · exact (cutShort.trans (withCbi ..)).trans (post ..)

variable {sys : System} {p : Parity} {line : Nat}

theorem setDue : Desk.Work air d d.setDue := by
  unfold Desk.setDue
  split
  · exact withCbi _ d
  · exact refl d

theorem setDueInWindow : Desk.Work air d (d.setDueInWindow sys p line) := by
  unfold Desk.setDueInWindow
  split
  · exact setDue
  · exact refl d

theorem cbiLine : Desk.Work air d (d.cbiLine sys p line) := by
  unfold Desk.cbiLine
  split
  · exact setDue
  · split
    · exact withCbi _ d
    · exact refl d

theorem cbiBoundary : Desk.Work air d (d.cbiBoundary sys p line) := (withCbi _ d).trans setDueInWindow

theorem leaveFault : Desk.Work air d (d.leaveFault sys fc p line) := by
  unfold Desk.leaveFault
  split
  · exact ((withCbi _ d).trans (post ..)).trans setDueInWindow
  · exact refl d

theorem joinContest (v : BusView) : Desk.Work air d (d.joinContest v) := by
  unfold Desk.joinContest Desk.contend
  split
  · exact withCbi _ d
  · exact withCbi _ d

theorem firstFall (v : BusView) : Desk.Work air d (d.firstFall v) := by
  unfold Desk.firstFall
  split
  · exact ((withCbi _ d).trans (joinContest v)).trans (withCbi ..)
  · exact refl d

theorem becomeIdle : Desk.Work air d d.becomeIdle := by
  unfold Desk.becomeIdle
  split
  · exact withCbi _ d
  · exact refl d

theorem takeRecall (stn target : Station) : Desk.Work air d (d.takeRecall stn target i) := by
  unfold Desk.takeRecall
  split
  · exact refl d
  · split
    · exact withCbi _ d
    · exact withCbi _ d

theorem postAll (rs : List Report) : Desk.Work air d (d.postAll fc rs) := fold _ (fun x r => post fc r x) rs d

theorem itemsLeft (ms : List Bool) : Desk.Work air d (d.itemsLeft fc ms) := fold _ (fun _ m => itemLeft m) ms d

theorem refuse (kind : Byte) (r : Reason) : Desk.Work air d (d.refuse fc kind r) := post ..

end Desk.Work

end Sys2Proof.Machine

namespace Sys2Proof.Machine

/-! ## What the work of the Cue Engine keeps -/

/-- What the work of the Cue Engine leaves: the Peer Table, the Span Builder, the Keyer, and the host port but for its report
queue and its FENCE. -/
structure Desk.Leaves (d e : Desk) : Prop where
  pt : e.pt = d.pt
  sb : e.sb = d.sb
  ky : e.ky = d.ky
  hp : e.hp = { d.hp with reports := e.hp.reports, fence := e.hp.fence, fenceLeft := e.hp.fenceLeft }

theorem Desk.Leaves.trans {d e f : Desk} (h : d.Leaves e) (h' : e.Leaves f) : d.Leaves f where
  pt := h'.pt.trans h.pt
  sb := h'.sb.trans h.sb
  ky := h'.ky.trans h.ky
  hp := by rw [h'.hp, h.hp]

section
variable {air : Bool} {ce : Ce} {d e : Desk} {i j : Slot} {c : ChainNo} {x y : CueSlot}

theorem slot_modSlot (f : CueSlot → CueSlot) : (d.modSlot i f).slot j = if i = j then f (d.slot i) else d.slot j := by
  split
  next h => rw [← h, slot_modSlot_self]
  next h => exact slot_modSlot_ne h f d

theorem slot_freeSlot : (d.freeSlot i).slot j = if i = j then CueSlot.freed else d.slot j := by
  split
  next h => subst h; exact slot_setSlot_self _ d.ce
  next h => exact slot_freeSlot_ne h

theorem slot_marks (f : CueSlot → CueSlot) :
    ({ d with ce := { d.ce with slots := d.ce.slots.map f } } : Desk).slot i = f (d.slot i) := by
  simp [Desk.slot, Ce.slot]

theorem chain_modChain (f : Chain → Chain) (b : ChainNo) :
    (d.modChain c f).chain b = if c = b then f (d.chain c) else d.chain b := by
  split
  next h => rw [← h, chain_modChain_self]
  next h =>
    have : c.val ≠ b.val := fun e => h (Fin.ext e)
    simp [Desk.chain, Desk.modChain, Ce.chain, Ce.setChain, Vector.getElem_set_ne, this]

theorem Desk.Work.leaves (h : Desk.Work air d e) : d.Leaves e := by
  induction h with
  | trans _ _ ih ih' => exact ih.trans ih'
  | _ => exact ⟨rfl, rfl, rfl, rfl⟩

theorem Desk.Work.reportsOk (h : Desk.Work air d e) (hd : Machine.reportsOk d.hp.reports) :
    Machine.reportsOk e.hp.reports := by
  induction h with
  | trans _ _ ih ih' => exact ih' (ih hd)
  | post fc r _ => exact reportsOk_post fc r hd
  | _ => exact hd

/-! ### The free list (R139) -/

theorem CueSlot.Moves.free_iff (h : CueSlot.Moves air ce x y) : y.st = .free ↔ x.st = .free := by
  cases h with
  | mark hst => rw [hst]
  | arm _ _ _ hst hy => simp [hst, hy, CueSlot.armedFor, CueSlot.idle]
  | enter hst _ _ hy => rcases hy with hy | ⟨_, hy⟩ <;> simp [hst, hy]
  | rise _ hst hy =>
    have := CueSt.ne_free_of_live hst
    rcases hy with hy | hy <;> simp [hy, this]
  | ending hst hy =>
    have := CueSt.ne_free_of_live hst
    simp [hy, this]
  | unload hst hy => simp [hst, hy, CueSlot.idle]

theorem Ce.slotsOk_congr (ce : Ce) {ce' : Ce} (hf : ce'.free = ce.free)
    (hs : ∀ i, (ce'.slot i).st = .free ↔ (ce.slot i).st = .free) (h : ce.slotsOk) : ce'.slotsOk := by
  obtain ⟨hn, hi⟩ := h
  exact ⟨hf ▸ hn, fun i => by rw [hf, hs i]; exact hi i⟩

/-- A slot that goes FREE goes to the tail of the list (R139). -/
theorem slotsOk_freeSlot (hi : (d.slot i).st ≠ .free) (h : d.ce.slotsOk) : (d.freeSlot i).ce.slotsOk := by
  obtain ⟨hn, hm⟩ := h
  have hout : i ∉ d.ce.free := fun hin => hi ((hm i).mp hin)
  refine ⟨List.nodup_append.mpr ⟨hn, List.nodup_singleton i, ?_⟩, fun j => ?_⟩
  · rintro a ha b hb rfl
    exact hout (List.mem_singleton.mp hb ▸ ha)
  · change j ∈ d.ce.free ++ [i] ↔ ((d.freeSlot i).slot j).st = .free
    rw [List.mem_append, List.mem_singleton, slot_freeSlot, hm j]
    by_cases hij : i = j
    · simp [hij, CueSlot.freed, CueSlot.idle]
    · simp only [hij, if_false, Ne.symm hij, or_false]
      rfl

theorem Desk.Work.slotsOk (h : Desk.Work air d e) (hd : d.ce.slotsOk) : e.ce.slotsOk := by
  induction h with
  | trans _ _ ih ih' => exact ih' (ih hd)
  | @slot d i f hm =>
    refine Ce.slotsOk_congr d.ce rfl (fun j => ?_) hd
    change ((d.modSlot i f).slot j).st = .free ↔ (d.slot j).st = .free
    rw [slot_modSlot]
    split
    next hij => exact hij ▸ hm.free_iff
    next => exact Iff.rfl
  | @marks f d hf =>
    refine Ce.slotsOk_congr d.ce rfl (fun j => ?_) hd
    change (Desk.slot { d with ce := { d.ce with slots := d.ce.slots.map f } } j).st = .free ↔ (d.slot j).st = .free
    rw [slot_marks, (hf _).1]
  | free hi => exact slotsOk_freeSlot hi hd
  | _ => exact hd

/-! ### Live cues (R140) -/

/-- The slots for which `p` holds, before and after a change of slot `i` alone. -/
theorem length_filter_allSlots_le {p q : Slot → Bool} (h : ∀ j, j ≠ i → q j = true → p j = true) :
    (allSlots.filter q).length ≤ (allSlots.filter p).length + 1 := by
  have hq : ∀ j ∈ allSlots.filter q, j ∈ i :: allSlots.filter p := by
    intro j hj
    by_cases hji : j = i
    · exact hji ▸ List.mem_cons_self
    · exact List.mem_cons_of_mem _ (List.mem_filter.mpr ⟨List.mem_finRange j, h j hji (List.mem_filter.mp hj).2⟩)
  have hn : (allSlots.filter q).Nodup := (List.nodup_finRange 32).filter _
  simpa using (hn.subperm hq).length_le

theorem length_filter_allSlots_mono {p q : Slot → Bool} (h : ∀ j, q j = true → p j = true) :
    (allSlots.filter q).length ≤ (allSlots.filter p).length :=
  (List.monotone_filter_right allSlots h).length_le

theorem Ce.liveOk_of_le {ce ce' : Ce}
    (h : ∀ i, (ce'.slot i).st.live = true → (ce.slot i).st.live = true ∧ (ce'.slot i).chain = (ce.slot i).chain)
    (hok : ce.liveOk) : ce'.liveOk := by
  refine ⟨le_trans (length_filter_allSlots_mono fun i hi => (h i hi).1) hok.1, fun c => ?_⟩
  refine le_trans (length_filter_allSlots_mono fun i hi => ?_) (hok.2 c)
  simp only [Bool.and_eq_true, beq_iff_eq] at hi ⊢
  obtain ⟨hl, hc⟩ := hi
  exact ⟨(h i hl).1, (h i hl).2 ▸ hc⟩

/-- An ARMED cue that becomes live within the limits (R140). -/
theorem liveOk_enter (f : CueSlot → CueSlot) (hlive : d.ce.liveCount < 16)
    (hfull : ∀ c, (d.slot i).chain = some c → d.ce.chainLive c < 2) (hchain : (f (d.slot i)).chain = (d.slot i).chain)
    (h : d.ce.liveOk) : (d.modSlot i f).ce.liveOk := by
  have other (j : Slot) (hj : j ≠ i) : (d.modSlot i f).ce.slot j = d.ce.slot j := slot_modSlot_ne (Ne.symm hj) f d
  refine ⟨?_, fun c => ?_⟩
  · have := length_filter_allSlots_le (i := i) (p := fun j => (d.ce.slot j).st.live)
      (q := fun j => ((d.modSlot i f).ce.slot j).st.live) (fun j hj hq => other j hj ▸ hq)
    unfold Ce.liveCount at hlive ⊢
    omega
  · by_cases hc : (d.slot i).chain = some c
    · have := length_filter_allSlots_le (i := i) (p := fun j => (d.ce.slot j).st.live && (d.ce.slot j).chain == some c)
        (q := fun j => ((d.modSlot i f).ce.slot j).st.live && ((d.modSlot i f).ce.slot j).chain == some c)
        (fun j hj hq => by rwa [other j hj] at hq)
      have hf := hfull c hc
      unfold Ce.chainLive at hf ⊢
      omega
    · refine le_trans (length_filter_allSlots_mono fun j hj => ?_) (h.2 c)
      by_cases hji : j = i
      · subst hji
        have : ((d.modSlot j f).ce.slot j).chain = (d.slot j).chain := by
          rw [← hchain, ← slot_modSlot_self j f d]
          rfl
        simp [this, hc] at hj
      · rwa [other j hji] at hj

theorem liveOk_modSlot {f : CueSlot → CueSlot} (h : CueSlot.Moves air d.ce (d.slot i) (f (d.slot i))) (hd : d.ce.liveOk) :
    (d.modSlot i f).ce.liveOk := by
  have keeps (hl : (f (d.slot i)).st.live = true → (d.slot i).st.live = true ∧ (f (d.slot i)).chain = (d.slot i).chain) :
      (d.modSlot i f).ce.liveOk := by
    refine Ce.liveOk_of_le (fun j hj => ?_) hd
    change ((d.modSlot i f).slot j).st.live = true at hj
    change _ ∧ ((d.modSlot i f).slot j).chain = _
    rw [slot_modSlot] at hj ⊢
    split at hj
    next hij => subst hij; rw [if_pos rfl]; exact hl hj
    next hij => exact ⟨hj, by rw [if_neg hij]; rfl⟩
  cases h with
  | mark hst hchain => exact keeps fun hl => ⟨hst ▸ hl, hchain⟩
  | arm _ _ _ _ hy => exact keeps fun hl => by rw [hy] at hl; cases hl
  | enter _ hlive hfull _ hchain => exact liveOk_enter f hlive hfull hchain hd
  | rise _ hst _ hchain => exact keeps fun _ => ⟨hst, hchain⟩
  | ending hst _ hchain => exact keeps fun _ => ⟨hst, hchain⟩
  | unload _ hy => exact keeps fun hl => by rw [hy] at hl; cases hl

theorem liveOk_setSlot_of_not_live {ce : Ce} (hx : x.st.live = false) (h : ce.liveOk) : (ce.setSlot i x).liveOk := by
  refine Ce.liveOk_of_le (fun j hj => ?_) h
  by_cases hij : i = j
  · subst hij
    rw [slot_setSlot_self, hx] at hj
    cases hj
  · rw [slot_setSlot_ne hij] at hj ⊢
    exact ⟨hj, rfl⟩

theorem Desk.Work.liveOk (h : Desk.Work air d e) (hd : d.ce.liveOk) : e.ce.liveOk := by
  induction h with
  | trans _ _ ih ih' => exact ih' (ih hd)
  | slot hm => exact liveOk_modSlot hm hd
  | @marks f d hf =>
    refine Ce.liveOk_of_le (fun j hj => ?_) hd
    change (Desk.slot { d with ce := { d.ce with slots := d.ce.slots.map f } } j).st.live = true at hj
    change _ ∧ (Desk.slot { d with ce := { d.ce with slots := d.ce.slots.map f } } j).chain = _
    rw [slot_marks] at hj ⊢
    exact ⟨(hf _).1 ▸ hj, (hf _).2.1⟩
  | free _ => exact liveOk_setSlot_of_not_live (x := CueSlot.freed) rfl hd
  | _ => exact hd

/-! ### Cues on air, and chains that run -/

/-- Without `air` a cue that is SCHEDULED or ON_AIR was so before, in the same chain. -/
theorem Desk.Work.airborne (h : Desk.Work false d e) (i : Slot)
    (hi : (e.slot i).st = .scheduled ∨ (e.slot i).st = .onAir) :
    (e.slot i).st = (d.slot i).st ∧ (e.slot i).chain = (d.slot i).chain ∧ (e.slot i).cue = (d.slot i).cue := by
  induction h with
  | trans _ _ ih ih' =>
    obtain ⟨hst', hc', hq'⟩ := ih' hi
    obtain ⟨hst, hc, hq⟩ := ih (hst' ▸ hi)
    exact ⟨hst'.trans hst, hc'.trans hc, hq'.trans hq⟩
  | @slot d j f hm =>
    rw [slot_modSlot] at hi ⊢
    split at hi
    next hij =>
      subst hij
      rw [if_pos rfl]
      cases hm with
      | mark hst hchain hcue => exact ⟨hst, hchain, hcue⟩
      | arm _ _ _ _ hy => simp [hy, CueSlot.armedFor, CueSlot.idle] at hi
      | enter _ _ _ hy => simp_all
      | rise hair => cases hair
      | ending _ hy => simp [hy] at hi
      | unload _ hy => simp [hy, CueSlot.idle] at hi
    next hij => simp [hij]
  | @marks f d hf =>
    rw [slot_marks]
    exact hf _
  | @free d j _ =>
    rw [slot_freeSlot] at hi ⊢
    split at hi
    next hij => simp [CueSlot.freed, CueSlot.idle] at hi
    next hij => simp [hij]
  | _ => exact ⟨rfl, rfl, rfl⟩

/-- A chain that is IDLE or ABORTING stays so; only START_CHAIN starts one. -/
theorem Desk.Work.stopped (h : Desk.Work air d e) (c : ChainNo)
    (hc : (d.chain c).st = .idle ∨ (d.chain c).st = .aborting) : (e.chain c).st = .idle ∨ (e.chain c).st = .aborting := by
  induction h with
  | trans _ _ ih ih' => exact ih' (ih hc)
  | @chain d b f hf =>
    rw [chain_modChain]
    split
    next hbc => subst hbc; rwa [hf]
    next => exact hc
  | @abort d b _ =>
    rw [chain_modChain]
    split
    · exact .inr rfl
    · exact hc
  | @settle d b _ _ =>
    rw [chain_modChain]
    split
    · exact .inl rfl
    · exact hc
  | _ => exact hc

end

end Sys2Proof.Machine

namespace Sys2Proof.Machine

/-! ## The form of a span list (R161 to R163) -/

/-- A proper interval within 0..hi. -/
def Ivl.Within (hi : Int) (i : Ivl) : Prop := 0 ≤ i.1 ∧ i.1 ≤ i.2 ∧ i.2 ≤ hi

/-- Intervals sorted and disjoint. -/
def apart (is : List Ivl) : Prop := is.Pairwise (fun a b => a.2 < b.1)

section
variable {hi : Int} {i o z : Ivl} {is os : List Ivl}

theorem mem_without_bounds (h : z ∈ without o i) (hi : i.1 ≤ i.2) : i.1 ≤ z.1 ∧ z.1 ≤ z.2 ∧ z.2 ≤ i.2 := by
  unfold without at h
  split at h
  next =>
    obtain rfl := List.mem_singleton.mp h
    exact ⟨le_rfl, hi, le_rfl⟩
  next =>
    rcases List.mem_append.mp h with h | h
    · obtain ⟨_, h⟩ := List.mem_ite_nil_right.mp h
      obtain rfl := List.mem_singleton.mp h
      dsimp only
      omega
    · obtain ⟨_, h⟩ := List.mem_ite_nil_right.mp h
      obtain rfl := List.mem_singleton.mp h
      dsimp only
      omega

theorem Ivl.nonempty_iff : i.nonempty = true ↔ i.1 ≤ i.2 := decide_eq_true_iff

theorem within_subtract (h : ∀ z ∈ is, z.Within hi) : ∀ z ∈ subtract is o, z.Within hi := by
  unfold subtract
  split
  · intro z hz
    obtain ⟨i, hi, hzi⟩ := List.mem_flatMap.mp hz
    obtain ⟨h0, h1, h2⟩ := h i hi
    obtain ⟨b0, b1, b2⟩ := mem_without_bounds hzi h1
    exact ⟨le_trans h0 b0, b1, le_trans b2 h2⟩
  · exact h

theorem within_foldl_subtract (os : List Ivl) (h : ∀ z ∈ is, z.Within hi) :
    ∀ z ∈ os.foldl subtract is, z.Within hi := by
  induction os generalizing is with
  | nil => exact h
  | cons o os ih => exact ih (within_subtract h)

theorem apart_without (ho : o.1 ≤ o.2) : apart (without o i) := by
  unfold apart without
  split_ifs <;> simp
  omega

theorem apart_subtract (hn : ∀ z ∈ is, z.1 ≤ z.2) (h : apart is) : apart (subtract is o) := by
  unfold subtract
  split
  next ho =>
    refine List.pairwise_flatMap.mpr ⟨fun i _ => apart_without (Ivl.nonempty_iff.mp ho), ?_⟩
    refine h.imp_of_mem fun {a b} ha hb hab x hx y hy => ?_
    have := mem_without_bounds hx (hn a ha)
    have := mem_without_bounds hy (hn b hb)
    omega
  next => exact h

theorem apart_foldl_subtract (os : List Ivl) (hw : ∀ z ∈ is, z.Within hi) (h : apart is) :
    apart (os.foldl subtract is) := by
  induction os generalizing is with
  | nil => exact h
  | cons o os ih => exact ih (within_subtract hw) (apart_subtract (fun z hz => (hw z hz).2.1) h)

/-- Joining keeps a lower bound of the left edges. -/
theorem le_of_mem_joinIvl {lo : Int} (hi : lo ≤ i.1) (h : ∀ c ∈ is, lo ≤ c.1) : ∀ z ∈ joinIvl i is, lo ≤ z.1 := by
  induction is generalizing i with
  | nil => simpa [joinIvl] using hi
  | cons c rest ih =>
    obtain ⟨hc, hr⟩ := List.forall_mem_cons.mp h
    unfold joinIvl
    split_ifs
    · exact List.forall_mem_cons.mpr ⟨hi, h⟩
    · exact List.forall_mem_cons.mpr ⟨hc, ih hi hr⟩
    · exact ih (by dsimp only; omega) hr

theorem within_joinIvl (hw : i.Within hi) (h : ∀ c ∈ is, c.Within hi) : ∀ z ∈ joinIvl i is, z.Within hi := by
  induction is generalizing i with
  | nil => simpa [joinIvl] using hw
  | cons c rest ih =>
    obtain ⟨hc, hr⟩ := List.forall_mem_cons.mp h
    unfold joinIvl
    split_ifs
    · exact List.forall_mem_cons.mpr ⟨hw, h⟩
    · exact List.forall_mem_cons.mpr ⟨hc, ih hw hr⟩
    · refine ih ?_ hr
      unfold Ivl.Within at hw hc ⊢
      dsimp only
      omega

/-- The joined list stays sorted, with a gap between any two. -/
theorem gapped_joinIvl (h : is.Pairwise (fun a b => a.2 + 1 < b.1)) (hn : ∀ c ∈ is, c.1 ≤ c.2) (hi : i.1 ≤ i.2) :
    (joinIvl i is).Pairwise (fun a b => a.2 + 1 < b.1) := by
  induction is generalizing i with
  | nil => simp [joinIvl]
  | cons c rest ih =>
    obtain ⟨hc, hr⟩ := List.pairwise_cons.mp h
    obtain ⟨nc, nr⟩ := List.forall_mem_cons.mp hn
    unfold joinIvl
    split_ifs with h1 h2
    · refine List.pairwise_cons.mpr ⟨List.forall_mem_cons.mpr ⟨h1, fun b hb => ?_⟩, h⟩
      have := hc b hb
      omega
    · refine List.pairwise_cons.mpr ⟨fun b hb => ?_, ih hr nr hi⟩
      have := le_of_mem_joinIvl (lo := c.2 + 2) (by omega) (fun x hx => by have := hc x hx; omega) b hb
      omega
    · exact ih hr nr (by dsimp only; omega)

/-- What joining one interval after the other gives: the runs of the pixels that they hold. -/
theorem foldl_joinIvl_form (hw : ∀ z ∈ os, z.Within hi) (is : List Ivl) (hi' : ∀ z ∈ is, z.Within hi)
    (hg : is.Pairwise (fun a b => a.2 + 1 < b.1)) :
    let runs := os.foldl (fun acc i => joinIvl i acc) is
    (∀ z ∈ runs, z.Within hi) ∧ runs.Pairwise (fun a b => a.2 + 1 < b.1) ∧
      ∀ x, covered x runs ↔ covered x os ∨ covered x is := by
  induction os generalizing is with
  | nil => exact ⟨hi', hg, fun x => by simp [covered]⟩
  | cons o os ih =>
    obtain ⟨ho, hos⟩ := List.forall_mem_cons.mp hw
    have hn : ∀ c ∈ is, c.1 ≤ c.2 := fun c hc => (hi' c hc).2.1
    obtain ⟨w, g, cov⟩ := ih hos (joinIvl o is) (within_joinIvl ho hi') (gapped_joinIvl hg hn ho.2.1)
    refine ⟨w, g, fun x => (cov x).trans ?_⟩
    rw [covered_joinIvl o is ho.2.1 hn]
    simp only [covered, List.exists_mem_cons_iff]
    exact or_left_comm.trans or_assoc.symm

theorem within_unionRuns (hw : ∀ z ∈ os, z.Within hi) : ∀ z ∈ unionRuns os, z.Within hi :=
  (foldl_joinIvl_form hw [] (by simp) List.Pairwise.nil).1

theorem apart_unionRuns (hw : ∀ z ∈ os, z.Within hi) : apart (unionRuns os) :=
  ((foldl_joinIvl_form hw [] (by simp) List.Pairwise.nil).2.1).imp (fun h => by omega)

theorem covered_unionRuns (hw : ∀ z ∈ os, z.Within hi) (x : Int) : covered x (unionRuns os) ↔ covered x os := by
  rw [unionRuns, (foldl_joinIvl_form hw [] (by simp) List.Pairwise.nil).2.2 x]
  simp [covered]

end

section
variable {stn : Station} {v : LineVals} {line : Nat} {r : OwnRegion} {sb : Sb} {k : CueKind} {x : Int}

theorem within_pieces : ∀ z ∈ sb.pieces stn v line r, z.Within (v.ppl - 1) := by
  unfold Sb.pieces
  split
  · dsimp only
    intro z hz
    obtain ⟨hz, hne⟩ := List.mem_filter.mp hz
    obtain ⟨y, hy, rfl⟩ := List.mem_map.mp hz
    have start : ∀ i ∈ [cutTo 0 (v.ppl - 1) ((r.left : Int), (r.left : Int) + r.width - 1)].filter Ivl.nonempty,
        i.Within (v.ppl - 1) := by
      intro i hi
      obtain ⟨hi, hp⟩ := List.mem_filter.mp hi
      obtain rfl := List.mem_singleton.mp hi
      have := Ivl.nonempty_iff.mp hp
      unfold Ivl.Within
      unfold cutTo at this ⊢
      dsimp only at this ⊢
      omega
    obtain ⟨y0, y1, y2⟩ := within_foldl_subtract _ start y hy
    have := Ivl.nonempty_iff.mp hne
    unfold Ivl.Within
    unfold cutTo at this ⊢
    dsimp only at this ⊢
    omega
  · simp

theorem within_kindPieces : ∀ z ∈ sb.kindPieces stn v line k, z.Within (v.ppl - 1) := by
  intro z hz
  obtain ⟨r, _, hr⟩ := List.mem_flatMap.mp hz
  exact within_pieces z hr

/-- The runs of the FILL regions. -/
def Sb.fillRuns (stn : Station) (v : LineVals) (line : Nat) (sb : Sb) : List Ivl := unionRuns (sb.kindPieces stn v line .fill)

/-- What the FILL runs leave of the CUTOUT runs. -/
def Sb.cutoutRuns (stn : Station) (v : LineVals) (line : Nat) (sb : Sb) : List Ivl :=
  (sb.fillRuns stn v line).foldl subtract (unionRuns (sb.kindPieces stn v line .cutout))

theorem Sb.spans_eq : sb.spans stn v line =
    ((sb.fillRuns stn v line).map (fun i => (⟨i.1, i.2, .fill⟩ : Span))).foldr insertSpan
      ((sb.cutoutRuns stn v line).map (fun i => (⟨i.1, i.2, .cutout⟩ : Span))) := rfl

theorem mem_foldr_insertSpan (ss ts : List Span) (w : Span) : w ∈ ss.foldr insertSpan ts ↔ w ∈ ss ∨ w ∈ ts := by
  induction ss with
  | nil => simp
  | cons s ss ih => rw [List.foldr_cons, mem_insertSpan, ih, List.mem_cons, or_assoc]

theorem Sb.mem_spans {w : Span} : w ∈ sb.spans stn v line ↔
    (∃ i ∈ sb.fillRuns stn v line, w = ⟨i.1, i.2, .fill⟩) ∨ ∃ i ∈ sb.cutoutRuns stn v line, w = ⟨i.1, i.2, .cutout⟩ := by
  rw [Sb.spans_eq, mem_foldr_insertSpan]
  simp only [List.mem_map, eq_comm (a := w)]

theorem within_fillRuns : ∀ z ∈ sb.fillRuns stn v line, z.Within (v.ppl - 1) := within_unionRuns within_kindPieces

theorem within_cutoutRuns : ∀ z ∈ sb.cutoutRuns stn v line, z.Within (v.ppl - 1) :=
  within_foldl_subtract _ (within_unionRuns within_kindPieces)

/-- No pixel lies in a FILL run and in what is left of the CUTOUT runs (R162). -/
theorem disjoint_fill_cutout {f c : Ivl} (hf : f ∈ sb.fillRuns stn v line) (hc : c ∈ sb.cutoutRuns stn v line) :
    f.2 < c.1 ∨ c.2 < f.1 := by
  by_contra hn
  have f1 := (within_fillRuns f hf).2.1
  have c1 := (within_cutoutRuns c hc).2.1
  have hx : covered (max f.1 c.1) (sb.cutoutRuns stn v line) := ⟨c, hc, by omega, by omega⟩
  exact ((covered_foldl_subtract _ _ _).mp hx).2 f hf ⟨by omega, by omega⟩

/-- A span put among sorted and disjoint spans that it does not touch. -/
theorem sorted_insertSpan {s : Span} {ss : List Span} (h : ss.Pairwise (fun a b => a.right < b.left))
    (hn : ∀ t ∈ ss, t.left ≤ t.right) (hs : s.left ≤ s.right) (hd : ∀ t ∈ ss, s.right < t.left ∨ t.right < s.left) :
    (insertSpan s ss).Pairwise (fun a b => a.right < b.left) := by
  induction ss with
  | nil => simp [insertSpan]
  | cons t rest ih =>
    obtain ⟨ht, hr⟩ := List.pairwise_cons.mp h
    obtain ⟨nt, nr⟩ := List.forall_mem_cons.mp hn
    obtain ⟨dt, dr⟩ := List.forall_mem_cons.mp hd
    unfold insertSpan
    split
    next hl =>
      refine List.pairwise_cons.mpr ⟨List.forall_mem_cons.mpr ⟨by omega, fun b hb => ?_⟩, h⟩
      have := ht b hb
      omega
    next hl =>
      refine List.pairwise_cons.mpr ⟨fun b hb => ?_, ih hr nr dr⟩
      rcases (mem_insertSpan b s rest).mp hb with rfl | hb
      · omega
      · exact ht b hb

/-- FILL spans put, from the right, among CUTOUT spans that they do not touch. -/
theorem sorted_foldr_insertSpan {fs cs : List Ivl} (hf : apart fs) (hc : apart cs) (nf : ∀ i ∈ fs, i.1 ≤ i.2)
    (nc : ∀ i ∈ cs, i.1 ≤ i.2) (hd : ∀ f ∈ fs, ∀ c ∈ cs, f.2 < c.1 ∨ c.2 < f.1) :
    ((fs.map (fun i => (⟨i.1, i.2, .fill⟩ : Span))).foldr insertSpan
      (cs.map (fun i => (⟨i.1, i.2, .cutout⟩ : Span)))).Pairwise (fun a b => a.right < b.left) := by
  induction fs with
  | nil => exact List.pairwise_map.mpr hc
  | cons f fs ih =>
    obtain ⟨hff, hfs⟩ := List.pairwise_cons.mp hf
    obtain ⟨nff, nfs⟩ := List.forall_mem_cons.mp nf
    obtain ⟨dff, dfs⟩ := List.forall_mem_cons.mp hd
    have others : ∀ t ∈ (fs.map (fun i => (⟨i.1, i.2, .fill⟩ : Span))).foldr insertSpan
        (cs.map (fun i => (⟨i.1, i.2, .cutout⟩ : Span))), t.left ≤ t.right ∧ (f.2 < t.left ∨ t.right < f.1) := by
      intro t ht
      rcases (mem_foldr_insertSpan _ _ t).mp ht with ht | ht
      · obtain ⟨g, hg, rfl⟩ := List.mem_map.mp ht
        exact ⟨nfs g hg, .inl (hff g hg)⟩
      · obtain ⟨c, hc, rfl⟩ := List.mem_map.mp ht
        exact ⟨nc c hc, dff c hc⟩
    rw [List.map_cons, List.foldr_cons]
    exact sorted_insertSpan (ih hfs nfs dfs) (fun t ht => (others t ht).1) nff (fun t ht => (others t ht).2)

theorem sorted_spans : (sb.spans stn v line).Pairwise (fun a b => a.right < b.left) :=
  sorted_foldr_insertSpan (apart_unionRuns within_kindPieces)
    (apart_foldl_subtract _ (within_unionRuns within_kindPieces) (apart_unionRuns within_kindPieces))
    (fun i hi => (within_fillRuns i hi).2.1) (fun i hi => (within_cutoutRuns i hi).2.1)
    (fun _ hf _ hc => disjoint_fill_cutout hf hc)

/-- The first 16 spans of a line have the form of R163. -/
theorem spansOk_take_lineSpans (keyable : Bool) : spansOk v.ppl ((sb.lineSpans stn v line keyable).take 16) := by
  unfold Sb.lineSpans
  split
  · refine ⟨List.length_take_le 16 _, sorted_spans.sublist (List.take_sublist 16 _), fun w hw => ?_⟩
    rcases Sb.mem_spans.mp (List.mem_of_mem_take hw) with ⟨i, hi, rfl⟩ | ⟨i, hi, rfl⟩
    · have := within_fillRuns i hi
      unfold Ivl.Within at this
      dsimp only
      omega
    · have := within_cutoutRuns i hi
      unfold Ivl.Within at this
      dsimp only
      omega
  · simp [spansOk]

end

end Sys2Proof.Machine

namespace Sys2Proof.Machine

/-! ## The claim store keeps its order and its limit (R125, R126) -/

section
variable {pt pt' : Pt} {n : Station} {i : Slot} {c : Claim} {e x : StoreEntry} {es : List StoreEntry}

theorem StoreEntry.isOf_iff : e.isOf n i = true ↔ e.station = n ∧ e.claim.id = i := by
  simp [StoreEntry.isOf]

theorem storeOk_of_sublist (h : pt'.store.Sublist pt.store) (hok : pt.storeOk) : pt'.storeOk :=
  ⟨le_trans h.length_le hok.1, hok.2.sublist h⟩

theorem length_insertEntry_le (x : StoreEntry) (es : List StoreEntry) : (insertEntry x es).length ≤ es.length + 1 := by
  induction es with
  | nil => simp [insertEntry]
  | cons e rest ih =>
    unfold insertEntry
    split_ifs <;> simp_all

theorem mem_insertEntry (h : e ∈ insertEntry x es) : e = x ∨ e ∈ es := by
  induction es with
  | nil => exact .inl (List.mem_singleton.mp h)
  | cons a rest ih =>
    unfold insertEntry at h
    split_ifs at h
    · exact List.mem_cons.mp h
    · exact (List.mem_cons.mp h).imp_right (List.mem_cons_of_mem a)
    · rcases List.mem_cons.mp h with rfl | h
      · exact .inr List.mem_cons_self
      · exact (ih h).imp_right (List.mem_cons_of_mem a)

theorem sorted_insertEntry (h : es.Pairwise (fun a b => a.order < b.order)) :
    (insertEntry x es).Pairwise (fun a b => a.order < b.order) := by
  induction es with
  | nil => simp [insertEntry]
  | cons a rest ih =>
    obtain ⟨ha, hr⟩ := List.pairwise_cons.mp h
    unfold insertEntry
    split_ifs with h1 h2
    · exact List.pairwise_cons.mpr ⟨List.forall_mem_cons.mpr ⟨h1, fun b hb => lt_trans h1 (ha b hb)⟩, h⟩
    · exact List.pairwise_cons.mpr ⟨fun b hb => h2 ▸ ha b hb, hr⟩
    · refine List.pairwise_cons.mpr ⟨fun b hb => ?_, ih hr⟩
      rcases mem_insertEntry hb with rfl | hb
      · omega
      · exact ha b hb

/-- An entry with the key of one that stands in order replaces it. -/
theorem length_insertEntry_of_mem (h : es.Pairwise (fun a b => a.order < b.order)) (he : e ∈ es)
    (hx : e.order = x.order) : (insertEntry x es).length = es.length := by
  induction es with
  | nil => cases he
  | cons a rest ih =>
    obtain ⟨ha, hr⟩ := List.pairwise_cons.mp h
    unfold insertEntry
    rcases List.mem_cons.mp he with rfl | he
    · simp [hx]
    · have := ha e he
      rw [if_neg (by omega), if_neg (by omega), List.length_cons, List.length_cons, ih hr he]

theorem lowestEntry_mem {low : StoreEntry} (h : lowestEntry es = some low) : low ∈ es := by
  induction es generalizing low with
  | nil => cases h
  | cons a rest ih =>
    unfold lowestEntry at h
    split at h
    · cases h
      exact List.mem_cons_self
    next m hm =>
      split at h <;> cases h
      · exact List.mem_cons_self
      · exact List.mem_cons_of_mem _ (ih hm)

theorem lowestEntry_eq_none (h : lowestEntry es = none) : es = [] := by
  cases es with
  | nil => rfl
  | cons a rest =>
    unfold lowestEntry at h
    split at h
    · cases h
    · split at h <;> cases h

theorem storeOk_removeEntry (h : pt.storeOk) : (pt.removeEntry n i).storeOk :=
  storeOk_of_sublist List.filter_sublist h

theorem storeOk_removeStation (h : pt.storeOk) : (pt.removeStation n).storeOk :=
  storeOk_of_sublist List.filter_sublist h

theorem storeOk_modPeer (f : Peer → Peer) (h : pt.storeOk) : (pt.modPeer n f).storeOk := h

theorem store_storeClaim : (pt.storeClaim n c).store = insertEntry ⟨n, c, pt.markFor n c⟩ pt.store := rfl

/-- With room for one more the store takes a claim. -/
theorem storeOk_storeClaim (hroom : pt.store.length < 64) (h : pt.storeOk) : (pt.storeClaim n c).storeOk := by
  refine ⟨?_, sorted_insertEntry h.2⟩
  have := length_insertEntry_le ⟨n, c, pt.markFor n c⟩ pt.store
  rw [store_storeClaim]
  omega

/-- A claim that is stored already replaces its entry. -/
theorem storeOk_storeClaim_of_stores (hs : pt.stores n c.id = true) (h : pt.storeOk) : (pt.storeClaim n c).storeOk := by
  refine ⟨?_, sorted_insertEntry h.2⟩
  obtain ⟨e, he, hof⟩ := List.any_eq_true.mp hs
  obtain ⟨hn, hi⟩ := StoreEntry.isOf_iff.mp hof
  rw [store_storeClaim, length_insertEntry_of_mem h.2 he (by simp [StoreEntry.order, hn, hi])]
  exact h.1

/-- A claim that evicts the lowest-ranked entry takes its room (R126). -/
theorem storeOk_contend (h : pt.storeOk) : (pt.contend n c).storeOk := by
  unfold Pt.contend
  split
  next hl =>
    refine storeOk_storeClaim ?_ h
    rw [lowestEntry_eq_none hl]
    decide
  next low hl =>
    split
    · refine storeOk_storeClaim ?_ (storeOk_modPeer _ (storeOk_removeEntry h))
      have shorter : (pt.removeEntry low.station low.claim.id).store.length < pt.store.length := by
        refine List.length_filter_lt_length_iff_exists.mpr ⟨low, lowestEntry_mem hl, ?_⟩
        simp [StoreEntry.isOf]
      exact lt_of_lt_of_le shorter h.1
    · exact h

theorem storeOk_takeClaim (resend : Bool) (h : pt.storeOk) : (pt.takeClaim n c resend).storeOk := by
  unfold Pt.takeClaim
  split
  · exact storeOk_modPeer _ (storeOk_removeEntry h)
  · split
    · exact h
    · unfold Pt.placeClaim
      split
      next hs => exact storeOk_storeClaim_of_stores hs h
      next =>
        split
        next hroom => exact storeOk_storeClaim hroom h
        next => exact storeOk_contend h

theorem storeOk_takeWithdraw (h : pt.storeOk) : (pt.takeWithdraw n i).storeOk := storeOk_modPeer _ (storeOk_removeEntry h)

theorem storeOk_map_afterSnapshot (fc : FieldCount) (h : pt.storeOk) :
    ({ pt with store := pt.store.map (StoreEntry.afterSnapshot fc) } : Pt).storeOk :=
  ⟨by simpa using h.1, List.pairwise_map.mpr h.2⟩

end

/-! ## What the claim half keeps -/

/-- A change of the claim half that keeps the form of the report queue, the delay line, the span lists, the claim store, the
free list and the limits of live cues. -/
structure Desk.Keeps (d e : Desk) : Prop where
  reports : reportsOk d.hp.reports → reportsOk e.hp.reports
  delay : d.ky.delayOk → e.ky.delayOk
  lists : d.listsOk → e.listsOk
  store : d.pt.storeOk → e.pt.storeOk
  slots : d.ce.slotsOk → e.ce.slotsOk
  live : d.ce.liveOk → e.ce.liveOk

namespace Desk.Keeps

variable {d e f : Desk} {fc : FieldCount} {i : Slot} {c : ChainNo} {n stn : Station}

theorem refl (d : Desk) : d.Keeps d := ⟨id, id, id, id, id, id⟩

theorem trans (h : d.Keeps e) (h' : e.Keeps f) : d.Keeps f :=
  ⟨h'.reports ∘ h.reports, h'.delay ∘ h.delay, h'.lists ∘ h.lists, h'.store ∘ h.store, h'.slots ∘ h.slots, h'.live ∘ h.live⟩

theorem fold {α : Type} (g : Desk → α → Desk) (hg : ∀ x a, Desk.Keeps x (g x a)) (l : List α) :
    ∀ d : Desk, d.Keeps (l.foldl g d) := by
  induction l with
  | nil => exact refl
  | cons a l ih => exact fun d => (hg d a).trans (ih _)

theorem work {air : Bool} (h : Desk.Work air d e) : d.Keeps e where
  reports := h.reportsOk
  delay := by rw [h.leaves.ky]; exact id
  lists := by unfold Desk.listsOk; rw [h.leaves.ky, h.leaves.sb]; exact id
  store := by rw [h.leaves.pt]; exact id
  slots := h.slotsOk
  live := h.liveOk

theorem hp {x : Hp} (h : reportsOk d.hp.reports → reportsOk x.reports) : d.Keeps { d with hp := x } :=
  ⟨h, id, id, id, id, id⟩

theorem pt {x : Pt} (h : d.pt.storeOk → x.storeOk) : d.Keeps { d with pt := x } := ⟨id, id, id, h, id, id⟩

theorem withPt {g : Pt → Pt} (h : d.pt.storeOk → (g d.pt).storeOk) : d.Keeps (d.withPt g) := pt h

theorem ce {x : Ce} (hs : d.ce.slotsOk → x.slotsOk) (hl : d.ce.liveOk → x.liveOk) : d.Keeps { d with ce := x } :=
  ⟨id, id, id, id, hs, hl⟩

/-- The Keyer changed, but for the list that it holds. -/
theorem ky {x : Ky} (hl : x.line = d.ky.line) (h : d.ky.delayOk → x.delayOk) : d.Keeps { d with ky := x } :=
  ⟨id, h, by unfold Desk.listsOk; rw [hl]; exact id, id, id, id⟩

/-- The Span Builder changed, but for the lists that it has built. -/
theorem sb {x : Sb} (hr : x.ready = d.sb.ready) : d.Keeps { d with sb := x } :=
  ⟨id, id, by unfold Desk.listsOk; rw [hr]; exact id, id, id, id⟩

theorem modChain (g : Chain → Chain) : d.Keeps (d.modChain c g) := ce id id

theorem post (r : Report) : d.Keeps (d.post fc r) := work (air := true) (.post ..)

/-! ### The Cue Engine -/

theorem loadSlot (cue : CueRec) : d.Keeps (d.loadSlot i cue) := by
  refine ce (fun h => ?_) (fun h => liveOk_setSlot_of_not_live (x := CueSlot.idle .loaded cue) rfl h)
  obtain ⟨hn, hm⟩ := h
  refine ⟨hn.filter _, fun j => ?_⟩
  change j ∈ d.ce.free.filter (· != i) ↔ ((d.ce.setSlot i (CueSlot.idle .loaded cue)).slot j).st = .free
  by_cases hij : i = j
  · subst hij
    simp [CueSlot.idle]
  · rw [slot_setSlot_ne hij, ← hm j, List.mem_filter]
    simp [Ne.symm hij]

theorem loadCue (ppl : Nat) (r : LoadCue) : d.Keeps (d.loadCue fc ppl r) := by
  unfold Desk.loadCue
  split
  · split
    · exact post _
    · exact (loadSlot _).trans (post _)
  · split
    · exact loadSlot _
    · exact loadSlot _
    · exact post _
    · exact post _

theorem freeCue : d.Keeps (d.freeCue fc i) := by
  unfold Desk.freeCue
  split
  next hs => exact work (air := true) (.free (by simp [hs]))
  all_goals exact post _

theorem startChain : d.Keeps (d.startChain fc c i) := by
  unfold Desk.startChain
  split
  · split
    · exact post _
    next hs =>
      refine (modChain (c := c) (fun x => { x with st := .running })).trans (work (air := true) (.trans ?_ .tryArmed))
      exact Desk.Work.arm none true hs
    · exact post _
  · exact post _

theorem pauseChain : d.Keeps (d.pauseChain fc c) := by
  unfold Desk.pauseChain
  split
  · exact post _
  · exact modChain _
  · exact refl d
  · exact post _

theorem resumeChain : d.Keeps (d.resumeChain fc c) := by
  unfold Desk.resumeChain
  split
  · exact post _
  · exact refl d
  · exact (modChain _).trans (work (air := true) .armDue)
  · exact post _

/-! ### The Keyer and the stops (R150, R168, R171) -/

theorem delayOk_silence {k : Ky} (h : k.delayOk) : k.silence.delayOk := by
  exact List.length_map (fun _ => false) |>.trans h

theorem stopKeyerNow : d.Keeps d.stopKeyerNow := ky (x := { d.ky.silence with stop := .acting }) rfl delayOk_silence

theorem stopKeyerNextLine : d.Keeps d.stopKeyerNextLine :=
  ky (x := { d.ky with stop := if d.ky.stop = .acting then .acting else .nextLine }) rfl id

/-- Every cue stopped, with its frames and the Keyer (R118, R150). -/
theorem stopAll (g : Cbi → Cbi) (es : List TxEntry) :
    d.Keeps (((((d.stopCues fc).stopKeyerNow.withCbi g).tellDiscards fc es).checkChains fc).retryIfReleased fc d) := by
  have stopped : d.Keeps (d.stopCues fc).stopKeyerNow := (work (air := true) .stopCues).trans stopKeyerNow
  have told := (Desk.Work.withCbi (air := true) g (d.stopCues fc).stopKeyerNow).trans (.tellDiscards (fc := fc) es)
  exact stopped.trans (work ((told.trans .checkChains).trans (.retryIfReleased d)))

theorem clearAll : d.Keeps (d.clearAll fc) := stopAll _ _

theorem mute (kind : Nat) : d.Keeps (d.mute fc kind) := by
  unfold Desk.mute
  split
  · exact refl d
  · exact (work (air := true) ((Desk.Work.withCbi _ d).trans (.post ..))).trans (stopAll _ _)

theorem delayOk_setDelay {k : Ky} (m : Nat) (h : k.delayOk) : (k.setDelay m).delayOk := by
  unfold Ky.setDelay
  split
  · exact h
  · simp [Ky.delayOk]

theorem takeKeyDelay (k : Option Nat) : d.Keeps (d.takeKeyDelay k) := by
  unfold Desk.takeKeyDelay
  split
  next m =>
    refine ky (x := d.ky.setDelay m) ?_ (delayOk_setDelay m)
    unfold Ky.setDelay
    split <;> rfl
  next => exact refl d

theorem delayOk_shift {k : Ky} (dec : Bool) (h : k.delayOk) : (k.shift dec).delayOk := by
  unfold Ky.delayOk at h ⊢
  unfold Ky.shift
  split
  · exact h
  next hd => simpa [hd] using h

theorem keyPixel (transp : Bool) (x : Int) : d.Keeps (d.keyPixel transp x) := by
  refine ky (x := d.ky.shift (d.decision transp x)) ?_ (delayOk_shift _)
  unfold Ky.shift
  split <;> rfl

theorem spansOk_nil (ppl : Nat) : spansOk ppl [] := by simp [spansOk]

/-- A delivered line begins with the list at the head of those ready, or the empty one (R164, R165). -/
theorem keyerLine (st : RefSt) (slipNow : Bool) : d.Keeps (d.keyerLine st slipNow) := by
  refine ⟨id, id, fun h l hl => ?_, id, id, id⟩
  rcases hl with rfl | hl
  · change spansOk d.sb.head.ppl d.sb.head.spans
    unfold Sb.head
    cases hr : d.sb.ready with
    | nil => exact spansOk_nil _
    | cons a rest => exact h a (.inr (hr ▸ List.mem_cons_self))
  · exact h l (.inr (List.mem_of_mem_tail hl))

/-- A list with the form of R163 handed to the next line's start. -/
theorem ready {x : Sb} {l : LineList} (hx : x.ready = d.sb.ready ++ [l]) (hl : spansOk l.ppl l.spans) :
    d.Keeps { d with sb := x } := by
  refine ⟨id, id, fun h m hm => ?_, id, id, id⟩
  rcases hm with rfl | hm
  · exact h _ (.inl rfl)
  · change m ∈ x.ready at hm
    rw [hx, List.mem_append, List.mem_singleton] at hm
    rcases hm with hm | rfl
    · exact h m (.inr hm)
    · exact hl

theorem build (v : LineVals) (line : Nat) (keyable slip : Bool) (p : Parity) :
    d.Keeps { d with sb := d.sb.build stn v line keyable slip p } := ready rfl (spansOk_take_lineSpans keyable)

theorem buildInserted (v : LineVals) (line : Nat) (slip : Bool) (p : Parity) :
    d.Keeps { d with sb := d.sb.buildInserted v line slip p } := ready rfl (spansOk_nil _)

/-! ### The Peer Table and the field boundary -/

theorem peerReport (p : Presence) : d.Keeps (d.peerReport fc n p) := by
  unfold Desk.peerReport
  dsimp only
  split
  · exact refl d
  · exact post _

theorem takeBeacon (b : Beacon) : d.Keeps (d.takeBeacon fc n b) := by
  unfold Desk.takeBeacon
  have heard : d.Keeps ((d.withPt (Pt.modPeer n Peer.hear)).peerReport fc n (d.pt.peer n).presence) :=
    (withPt (storeOk_modPeer _)).trans (peerReport _)
  refine (heard.trans (withPt fun h => storeOk_of_sublist List.filter_sublist h)).trans (fold _ (fun x i => ?_) allSlots _)
  unfold Desk.offerRecall
  split
  · exact (work (air := true) (.withCbi _ x)).trans (withPt (fun h => h))
  · exact refl x

theorem takeClear : d.Keeps (d.takeClear fc n) := by
  unfold Desk.takeClear
  split
  · have stopped : d.Keeps (d.abortAllAtOnce fc).stopKeyerNextLine :=
      (work (air := true) .abortAllAtOnce).trans stopKeyerNextLine
    exact (stopped.trans (withPt fun h => storeOk_of_sublist List.filter_sublist h)).trans (post _)
  · exact post _

theorem accept (kind : Nat) {g : Desk → Desk} (hg : ∀ x : Desk, x.Keeps (g x)) : d.Keeps (d.accept fc stn n kind g) := by
  unfold Desk.accept
  split
  · have ended : d.Keeps (d.withCbi Cbi.endFrame) := work (air := true) (.withCbi _ d)
    split
    · exact ended.trans (mute _)
    · exact ended.trans (hg _)
  · exact refl d

theorem agePeer : d.Keeps (d.agePeer fc stn n) := by
  unfold Desk.agePeer
  dsimp only
  split
  · exact refl d
  · have aged : d.Keeps (d.withPt (Pt.modPeer n Peer.age)) := withPt (storeOk_modPeer _)
    refine trans ?_ (peerReport _)
    split
    · exact aged.trans (withPt storeOk_removeStation)
    · exact aged

theorem ptBoundary : d.Keeps (d.ptBoundary fc stn) :=
  (fold (Desk.agePeer fc stn) (fun _ _ => agePeer) allStations d).trans (withPt (fun h => h))

theorem snapshot : d.Keeps (d.snapshot fc) := ⟨id, id, id, storeOk_map_afterSnapshot fc, id, id⟩

theorem releaseStop : d.Keeps d.releaseStop := ky (x := { d.ky with stop := .clear }) rfl id

variable {sys : System} {p : Parity} {line : Nat}

theorem fieldBoundary : d.Keeps (d.fieldBoundary sys stn fc p line) := by
  unfold Desk.fieldBoundary
  have cues := work (Desk.Work.cbiBoundary (d := d) (sys := sys) (p := p) (line := line) |>.trans (.ceBoundary (fc := fc)))
  exact ((cues.trans ptBoundary).trans snapshot).trans releaseStop

/-! ### CONFIGURE and REINIT (R178, R179) -/

theorem configure (acc : StationSet) : d.Keeps (d.configure acc sys p line) := by
  unfold Desk.configure
  refine trans ?_ (work (air := true) .setDueInWindow)
  exact ⟨id, id, id, id, id, id⟩

theorem slot_reset (i : Slot) : Ce.reset.slot i = CueSlot.freed := by
  simp [Ce.slot, Ce.reset]

theorem slotsOk_reset : Ce.reset.slotsOk :=
  ⟨List.nodup_finRange 32, fun i => ⟨fun _ => by rw [slot_reset]; rfl, fun _ => List.mem_finRange i⟩⟩

theorem liveOk_reset : Ce.reset.liveOk := by
  have none : ∀ i, (Ce.reset.slot i).st.live = false := fun i => by rw [slot_reset]; rfl
  refine ⟨?_, fun c => ?_⟩
  · simp [Ce.liveCount, none]
  · simp [Ce.chainLive, none]

theorem reportsOk_nil : reportsOk [] := by simp [reportsOk, plainCount]

theorem reinit : d.Keeps d.reinit :=
  ⟨fun _ => reportsOk_nil, delayOk_silence, fun h l hl => h l hl, id,
    fun _ => Ce.slotsOk_congr Ce.reset rfl (fun _ => Iff.rfl) slotsOk_reset,
    fun _ => Ce.liveOk_of_le (ce := Ce.reset) (fun _ h => ⟨h, rfl⟩) liveOk_reset⟩

/-- The reset values have every form. -/
theorem reset (d : Desk) : d.Keeps Desk.reset := by
  refine ⟨fun _ => reportsOk_nil, fun _ => rfl, fun _ l hl => ?_, fun _ => ⟨by decide, List.Pairwise.nil⟩,
    fun _ => slotsOk_reset, fun _ => liveOk_reset⟩
  rcases hl with rfl | hl
  · exact spansOk_nil _
  · rcases List.mem_pair.mp hl with rfl | rfl <;> exact spansOk_nil _

end Desk.Keeps

end Sys2Proof.Machine

namespace Sys2Proof.Machine

/-! ## The adjustment queue and the ranges of the delivery unit (R92, R93, R178) -/

/-- H_off lies in its range (R84). -/
def hoffOk (h : Int) : Prop := -2048 ≤ h ∧ h ≤ 2047

/-- A change of the unit that keeps the form of the queue and the ranges. -/
structure Tdu.Keeps (x y : Tdu) : Prop where
  queue : x.queueOk → y.queueOk
  ranges : x.rangesOk → y.rangesOk

namespace Tdu.Keeps

variable {x y z : Tdu}

theorem refl (x : Tdu) : x.Keeps x := ⟨id, id⟩

theorem trans (h : x.Keeps y) (h' : y.Keeps z) : x.Keeps z := ⟨h'.queue ∘ h.queue, h'.ranges ∘ h.ranges⟩

/-- The values that the ranges speak of are left. -/
theorem of_queue (hq : x.queueOk → y.queueOk) (hhoff : y.hoff = x.hoff) (hppl : y.ppl = x.ppl)
    (hhold : y.holdCount = x.holdCount) (hcfg : y.pendCfg = x.pendCfg) (hnew : y.newVals = x.newVals) : x.Keeps y :=
  ⟨hq, by unfold Tdu.rangesOk; rw [hhoff, hppl, hhold, hcfg, hnew]; exact id⟩

theorem queueOk_of_eq (h : y.queue = x.queue) (hx : x.queueOk) : y.queueOk := by
  unfold Tdu.queueOk Tdu.hostEntries Tdu.slips at *
  rwa [h]

/-- Neither the queue nor those values are touched. -/
theorem of_eq (hq : y.queue = x.queue) (hhoff : y.hoff = x.hoff) (hppl : y.ppl = x.ppl)
    (hhold : y.holdCount = x.holdCount) (hcfg : y.pendCfg = x.pendCfg) (hnew : y.newVals = x.newVals) : x.Keeps y :=
  of_queue (queueOk_of_eq hq) hhoff hppl hhold hcfg hnew

/-! ### Entries placed -/

theorem hostEntries_place (k : AdjKind) : (x.place k).hostEntries = x.hostEntries + if k.isHost then 1 else 0 := by
  simp only [Tdu.hostEntries, Tdu.place, List.filter_append, List.length_append, List.filter_singleton]
  cases k.isHost <;> rfl

theorem slips_place (k : AdjKind) : (x.place k).slips = x.slips + if k == .slip then 1 else 0 := by
  simp only [Tdu.slips, Tdu.place, List.filter_append, List.length_append, List.filter_singleton]
  cases k == .slip <;> rfl

theorem place_host {k : AdjKind} (hk : k.isHost = true) (h : x.hostEntries < 3) : x.Keeps (x.place k) := by
  refine of_queue (fun hq => ?_) rfl rfl rfl rfl rfl
  have noslip : (k == .slip) = false := by cases k <;> first | rfl | cases hk
  refine ⟨?_, ?_⟩
  · rw [hostEntries_place, hk]
    exact h
  · rw [slips_place, noslip]
    exact hq.2

theorem slips_of_hasSlip (h : x.hasSlip = false) : x.slips = 0 := by
  unfold Tdu.hasSlip at h
  unfold Tdu.slips
  rw [List.length_eq_zero_iff, List.filter_eq_nil_iff]
  exact fun e he => by simpa using List.any_eq_false.mp h e he

theorem place_slip (h : x.hasSlip = false) : x.Keeps (x.place .slip) := by
  refine of_queue (fun hq => ⟨?_, ?_⟩) rfl rfl rfl rfl rfl
  · rw [hostEntries_place]
    exact hq.1
  · rw [slips_place, slips_of_hasSlip h]
    exact le_rfl

theorem placeShift (amount : Int) (h : x.hostEntries < 3) : x.Keeps (x.placeShift amount) := by
  have placed : x.Keeps (x.place (.shift (clampInt (-1024) 1024 amount))) := place_host rfl h
  exact placed.trans (of_eq rfl rfl rfl rfl rfl rfl)

/-- Every entry marked by a FENCE. -/
theorem markAll : x.Keeps { x with queue := x.queue.map (fun e => { e with marked := true }) } := by
  refine of_queue (fun hq => ?_) rfl rfl rfl rfl rfl
  unfold Tdu.queueOk Tdu.hostEntries Tdu.slips at *
  simp only [List.filter_map, List.length_map]
  exact hq

/-! ### The queue applied (R93) -/

theorem queueOk_of_sublist (h : y.queue.Sublist x.queue) (hq : x.queueOk) : y.queueOk :=
  ⟨le_trans (h.filter _).length_le hq.1, le_trans (h.filter _).length_le hq.2⟩

end Tdu.Keeps

/-- An application keeps the step within its limit and H_off in its range (R93). -/
def Applying.Bounded (a : Applying) : Prop := (-stepLimit ≤ a.T ∧ a.T ≤ stepLimit) ∧ hoffOk a.hoff

section
variable {a : Applying} {e : AdjEntry} {x : Tdu}

theorem bounded_takeD (h : a.Bounded) : (a.takeD e).Bounded := by
  obtain ⟨_, hh⟩ := h
  refine ⟨?_, hh⟩
  have step : (a.takeD e).T = clampInt (-stepLimit) stepLimit (a.T - a.D) := by
    unfold Applying.takeD
    dsimp only
    omega
  rw [step]
  exact ⟨clampInt_ge _, clampInt_le (by decide) _⟩

/-- The part of a SHIFT that is applied keeps both limits. -/
theorem bounded_takeShift (amount : Int) (h : a.Bounded) : (a.takeShift e amount).Bounded := by
  obtain ⟨hT, hh⟩ := h
  unfold Applying.Bounded Applying.takeShift Applying.shiftPart
  unfold hoffOk stepLimit at *
  dsimp only
  have hc := ceilDiv_bounds (-2097152 - a.T) (den := 256) (by decide)
  generalize ceilDiv (-2097152 - a.T) 256 = lo at hc ⊢
  generalize hup : (2097152 - a.T) / 256 = up
  unfold clampInt
  omega

theorem bounded_entry (hold : Nat) (h : a.Bounded) : (a.entry hold e).Bounded := by
  unfold Applying.entry
  split
  · exact bounded_takeShift _ h
  · split
    · exact bounded_takeD h
    · exact h
  · split
    · exact bounded_takeD h
    · exact h

theorem bounded_foldl_entry (hold : Nat) (es : List AdjEntry) (h : a.Bounded) :
    (es.foldl (Applying.entry hold) a).Bounded := by
  induction es generalizing a with
  | nil => exact h
  | cons e es ih => exact ih (bounded_entry hold h)

theorem hoffOk_hoffAhead (h : x.rangesOk) : hoffOk x.hoffAhead := by
  obtain ⟨hh, _, _, _, hnew⟩ := h
  unfold Tdu.hoffAhead
  cases hv : x.newVals with
  | none => exact hh
  | some v => exact (hnew v hv).1

theorem pplAhead_range (h : x.rangesOk) : 640 ≤ x.pplAhead ∧ x.pplAhead ≤ 1280 := by
  obtain ⟨_, hp, _, _, hnew⟩ := h
  unfold Tdu.pplAhead
  cases hv : x.newVals with
  | none => exact hp
  | some v => exact (hnew v hv).2.1

theorem bounded_applyStart (h : x.rangesOk) : x.applyStart.Bounded := by
  have ahead := hoffOk_hoffAhead h
  have start : hoffOk ((x.pendCfg.map ConfigVals.hoff).getD x.hoffAhead) := by
    cases hc : x.pendCfg with
    | none => exact ahead
    | some c => exact (h.2.2.2.1 c hc).1
  refine ⟨?_, start⟩
  unfold Tdu.applyStart
  unfold hoffOk at start ahead
  unfold stepLimit
  dsimp only
  omega

theorem bounded_applied (h : x.rangesOk) : x.applied.Bounded := bounded_foldl_entry _ _ (bounded_applyStart h)

/-- The entries that stay are entries of the queue, in their order. -/
theorem kept_foldl_entry (hold : Nat) (es : List AdjEntry) (a : Applying) :
    ∃ ks, (es.foldl (Applying.entry hold) a).kept = a.kept ++ ks ∧ ks.Sublist es := by
  induction es generalizing a with
  | nil => exact ⟨[], by simp, List.Sublist.refl _⟩
  | cons e es ih =>
    obtain ⟨ks, hk, hs⟩ := ih (a.entry hold e)
    have one : (a.entry hold e).kept = a.kept ∨ (a.entry hold e).kept = a.kept ++ [e] := by
      unfold Applying.entry Applying.takeShift Applying.takeD
      split
      · exact .inl rfl
      · split
        · exact .inl rfl
        · exact .inr rfl
      · split
        · exact .inl rfl
        · exact .inr rfl
    rw [List.foldl_cons, hk]
    rcases one with h | h
    · exact ⟨ks, by rw [h], hs.cons e⟩
    · exact ⟨e :: ks, by rw [h, List.append_assoc]; rfl, hs.cons_cons e⟩

theorem kept_applied : x.applied.kept.Sublist x.queue := by
  obtain ⟨ks, hk, hs⟩ := kept_foldl_entry x.holdCount x.queue x.applyStart
  unfold Tdu.applied
  rw [hk]
  exact hs

end

namespace Tdu.Keeps

variable {x y : Tdu}

theorem applyQueue (n : Nat) : x.Keeps (x.applyQueue n) := by
  refine ⟨queueOk_of_sublist kept_applied, fun h => ?_⟩
  have bounded : hoffOk x.applied.hoff := (bounded_applied h).2
  have ahead := pplAhead_range h
  obtain ⟨hh, hp, hc, hcfg, hnew⟩ := h
  refine ⟨hh, hp, le_trans (Nat.sub_le _ _) hc, fun c h => (Option.some_ne_none c h.symm).elim, fun v hv => ?_⟩
  change x.newValsAfter n x.applied = some v at hv
  unfold Tdu.newValsAfter at hv
  split at hv
  next c hx =>
    cases hv
    obtain ⟨_, hcp, hck⟩ := hcfg c hx
    exact ⟨bounded, hcp, fun k hk => by cases hk; exact hck⟩
  next =>
    split at hv
    · exact hnew v hv
    · cases hv
      refine ⟨bounded, ahead, fun k hk => ?_⟩
      obtain ⟨w, hw, hk⟩ := Option.bind_eq_some_iff.mp hk
      exact (hnew w hw).2.2 k hk

theorem formLines (tape : Bool) (n : Nat) (F c A : Int) : x.Keeps (x.formLines tape n F c A) := by
  have fixed : ∀ len : Int, x.Keeps (x.fixLine n len) := by
    intro len
    unfold Tdu.fixLine
    split
    · split <;> exact of_eq rfl rfl rfl rfl rfl rfl
    · exact of_eq rfl rfl rfl rfl rfl rfl
  have formed : x.Keeps (x.formLine tape n F c A) := (fixed _).trans (of_eq rfl rfl rfl rfl rfl rfl)
  unfold Tdu.formLines
  dsimp only
  split
  · exact formed.trans (of_eq rfl rfl rfl rfl rfl rfl)
  · exact formed

theorem detectSlip (st : RefSt) (fc : FieldCount) : x.Keeps (x.detectSlip st fc).1 := by
  unfold Tdu.detectSlip
  dsimp only
  have counted : x.Keeps { x with slipDet := x.detect st } := of_eq rfl rfl rfl rfl rfl rfl
  split
  next h => exact counted.trans (place_slip h.2)
  next => exact counted

theorem handOver (tape : Bool) (n : Nat) (F c A : Int) (st : RefSt) (fc : FieldCount) :
    x.Keeps (x.handOver tape n F c A st fc).tdu := by
  unfold Tdu.handOver
  dsimp only
  have detected := (formLines (x := x) tape n F c A).trans (detectSlip st fc)
  split
  · exact detected.trans (applyQueue n)
  · exact detected

theorem takeBoundary (sys : System) (n line0 : Nat) (p : Parity) (mark : Bool) :
    x.Keeps (x.takeBoundary sys n line0 p mark) := by
  unfold Tdu.takeBoundary
  dsimp only
  split
  · split <;> exact of_eq rfl rfl rfl rfl rfl rfl
  · split <;> exact of_eq rfl rfl rfl rfl rfl rfl

theorem give (sys : System) : x.Keeps (x.give sys) := by
  unfold Tdu.give
  split
  · exact refl x
  · split
    · exact of_eq rfl rfl rfl rfl rfl rfl
    · split <;> exact of_eq rfl rfl rfl rfl rfl rfl

theorem commit : x.Keeps x.commit := by
  unfold Tdu.commit
  split
  next v hv =>
    have new : x.newVals = some v := by
      unfold Tdu.commits at hv
      split at hv
      next w n hw _ =>
        split at hv <;> cases hv
        exact hw
      next => cases hv
    refine ⟨queueOk_of_eq rfl, fun ⟨_, _, hc, hcfg, hnew⟩ => ?_⟩
    obtain ⟨hh, hp, _⟩ := hnew v new
    exact ⟨hh, hp, hc, hcfg, fun w hw => (Option.some_ne_none w hw.symm).elim⟩
  next => exact refl x

theorem startLine : x.Keeps x.startLine := by
  have opened : x.commit.Keeps x.commit.openNextLine := by
    unfold Tdu.openNextLine
    split <;> exact of_eq rfl rfl rfl rfl rfl rfl
  exact (commit.trans opened).trans (of_eq rfl rfl rfl rfl rfl rfl)

theorem stepPixel : x.Keeps x.stepPixel := by
  unfold Tdu.stepPixel
  split
  · dsimp only
    split <;> exact of_eq rfl rfl rfl rfl rfl rfl
  · exact refl x

theorem holdSlips (count : Nat) : x.Keeps { x with holdCount := min 250 count } :=
  ⟨queueOk_of_eq rfl, fun ⟨hh, hp, _, hcfg, hnew⟩ => ⟨hh, hp, Nat.min_le_left _ _, hcfg, hnew⟩⟩

theorem configure (ppl hoff : BitVec 16) (keyDelay : Byte) :
    x.Keeps { x with pendCfg := some (configVals ppl hoff keyDelay) } := by
  refine ⟨queueOk_of_eq rfl, fun ⟨hh, hp, hc, _, hnew⟩ => ⟨hh, hp, hc, fun c hcfg => ?_, hnew⟩⟩
  cases hcfg
  unfold configVals clampPpl
  exact ⟨⟨clampInt_ge _, clampInt_le (by decide) _⟩, by dsimp only; omega, Nat.min_le_left _ _⟩

end Tdu.Keeps

/-! ## The frequency of the loop (R27, R28) -/

/-- F lies within the clamp range. -/
def Loop.freqOk (sys : System) (l : Loop) : Prop := fMin sys ≤ l.F ∧ l.F ≤ fMax sys

section
variable {sys : System} {l : Loop}

theorem fMin_le_fNom (sys : System) : fMin sys ≤ fNom sys := by cases sys <;> decide
theorem fNom_le_fMax (sys : System) : fNom sys ≤ fMax sys := by cases sys <;> decide

theorem freqOk_updateF (ki : Nat) (e : Int) : (l.updateF sys ki e).freqOk sys := by
  unfold Loop.updateF
  dsimp only
  split
  next => exact ⟨clampInt_ge _, clampInt_le (le_trans (fMin_le_fNom sys) (fNom_le_fMax sys)) _⟩
  next h =>
    unfold Loop.freqOk
    dsimp only
    omega

theorem freqOk_closeGated (tape : Bool) (st : RefSt) (gate : Nat) (o : LineOutcome) (used : Option LoopRecord)
    (h : l.freqOk sys) : (l.closeGated sys tape st gate o used).freqOk sys := by
  unfold Loop.closeGated
  split
  · exact freqOk_updateF (l := l) _ _
  · exact h
  · split
    · unfold Loop.rejected
      dsimp only
      split <;> exact h
    · exact h
  · exact h

theorem freqOk_closeLine (tape : Bool) (st : RefSt) (h : l.freqOk sys) : (l.closeLine sys tape st).loop.freqOk sys := by
  unfold Loop.closeLine
  split
  · exact freqOk_closeGated _ _ _ _ _ h
  · exact h

theorem freqOk_transit (tr : Transition) (h : l.freqOk sys) : (l.transit tr).freqOk sys := by
  unfold Loop.transit
  split <;> exact h

end

end Sys2Proof.Machine

namespace Sys2Proof.Machine

/-! ## What every command and every SCLK keeps -/

/-- A change of the time half that keeps F in its range, the form of a pulse in progress, the adjustment queue and the ranges
of the delivery unit, and leaves the sample clock. -/
structure Timebase.Keeps (sys : System) (t u : Timebase) : Prop where
  sampleTs : u.sfe.sampleTs = t.sfe.sampleTs
  prev : u.sfe.prev = t.sfe.prev
  freq : t.loop.freqOk sys → u.loop.freqOk sys
  pulse : t.sfe.pulseOk → u.sfe.pulseOk
  tdu : t.tdu.Keeps u.tdu

/-- A change of the machine while RESET is released: the commands and samples that wait, the straps and the counter of the
free orders are left, and every invariant is kept. -/
structure State.Runs (s t : State) : Prop where
  pending : t.pending = s.pending
  inputs : t.inputs = s.inputs
  tieIx : t.tieIx = s.tieIx
  straps : t.straps = s.straps
  held : t.resetHeld = s.resetHeld
  time : s.time.Keeps s.sys t.time
  desk : s.desk.Keeps t.desk

namespace Timebase.Keeps

variable {sys : System} {t u w : Timebase}

theorem refl (t : Timebase) : t.Keeps sys t := ⟨rfl, rfl, id, id, .refl _⟩

theorem trans (h : t.Keeps sys u) (h' : u.Keeps sys w) : t.Keeps sys w :=
  ⟨h'.sampleTs.trans h.sampleTs, h'.prev.trans h.prev, h'.freq ∘ h.freq, h'.pulse ∘ h.pulse, h.tdu.trans h'.tdu⟩

/-- The loop's frequency and the delivery unit are left, and the Sync Front End keeps its pulse. -/
theorem of_sfe (hts : u.sfe.sampleTs = t.sfe.sampleTs) (hprev : u.sfe.prev = t.sfe.prev)
    (hp : t.sfe.pulseOk → u.sfe.pulseOk) (hl : u.loop.F = t.loop.F) (ht : u.tdu = t.tdu) : t.Keeps sys u :=
  ⟨hts, hprev, by unfold Loop.freqOk; rw [hl]; exact id, hp, ht ▸ .refl _⟩

/-- The Sync Front End is left. -/
theorem of_tdu (hs : u.sfe = t.sfe) (hl : t.loop.freqOk sys → u.loop.freqOk sys) (ht : t.tdu.Keeps u.tdu) : t.Keeps sys u :=
  ⟨by rw [hs], by rw [hs], hl, by rw [hs]; exact id, ht⟩

theorem convertLatch : t.Keeps sys t.convertLatch := by
  unfold Timebase.convertLatch
  split
  next h => exact of_tdu rfl id (.place_host rfl h.2)
  next => exact refl t

theorem latchOnEntry (tr : Option Transition) : t.Keeps sys (t.latchOnEntry tr) := by
  unfold Timebase.latchOnEntry
  split
  · split
    · exact convertLatch
    · exact refl t
  · exact refl t

theorem latchOnLeave (left : List AdjEntry) : t.Keeps sys (t.latchOnLeave left) := by
  unfold Timebase.latchOnLeave
  split
  · exact convertLatch
  · exact refl t

theorem routeLoop (tape : Bool) (r : PulseRecord) : t.Keeps sys (t.routeLoop sys tape r) := by
  unfold Timebase.routeLoop
  split
  · exact of_tdu rfl id (.refl _)
  · exact refl t

theorem freqOk_closeLine (tape : Bool) (time : Ts) (h : t.loop.freqOk sys) :
    (t.closeLine sys tape time).loop.freqOk sys := by
  have closed := Machine.freqOk_closeLine tape t.ref.st h
  unfold Timebase.closeLine
  dsimp only
  split
  · exact closed
  · exact freqOk_transit _ closed

end Timebase.Keeps

namespace State.Runs

variable {s t u : State}

theorem refl (s : State) : s.Runs s := ⟨rfl, rfl, rfl, rfl, rfl, .refl _, .refl _⟩

theorem trans (h : s.Runs t) (h' : t.Runs u) : s.Runs u where
  pending := h'.pending.trans h.pending
  inputs := h'.inputs.trans h.inputs
  tieIx := h'.tieIx.trans h.tieIx
  straps := h'.straps.trans h.straps
  held := h'.held.trans h.held
  time := h.time.trans (by have := h'.time; unfold State.sys at this ⊢; rwa [h.straps] at this)
  desk := h.desk.trans h'.desk

theorem onDesk {f : Desk → Desk} (h : s.desk.Keeps (f s.desk)) : s.Runs (s.onDesk f) := ⟨rfl, rfl, rfl, rfl, rfl, .refl _, h⟩

theorem onTime {f : Timebase → Timebase} (h : s.time.Keeps s.sys (f s.time)) : s.Runs (s.onTime f) :=
  ⟨rfl, rfl, rfl, rfl, rfl, h, .refl _⟩

/-- Both halves changed. -/
theorem both {x : Timebase} {d : Desk} (ht : s.time.Keeps s.sys x) (hd : s.desk.Keeps d) :
    s.Runs { s with time := x, desk := d } := ⟨rfl, rfl, rfl, rfl, rfl, ht, hd⟩

theorem work {f : Desk → Desk} {air : Bool} (h : Desk.Work air s.desk (f s.desk)) : s.Runs (s.onDesk f) := onDesk (.work h)

theorem withCbi (f : Cbi → Cbi) : s.Runs (s.onDesk (Desk.withCbi f)) := work (air := true) (.withCbi f _)

theorem onHp {f : Hp → Hp} (h : reportsOk s.desk.hp.reports → reportsOk (f s.desk.hp).reports) : s.Runs (s.onHp f) :=
  onDesk (.hp h)

/-- A change of the Sync Front End. -/
theorem onSfe {f : Sfe → Sfe} (hts : (f s.time.sfe).sampleTs = s.time.sfe.sampleTs)
    (hprev : (f s.time.sfe).prev = s.time.sfe.prev) (hp : s.time.sfe.pulseOk → (f s.time.sfe).pulseOk) :
    s.Runs (s.onTime (fun t => { t with sfe := f t.sfe })) := onTime (.of_sfe hts hprev hp rfl rfl)

/-- A change of the delivery unit. -/
theorem onTdu {f : Tdu → Tdu} (h : s.time.tdu.Keeps (f s.time.tdu)) :
    s.Runs (s.onTime (fun t => { t with tdu := f t.tdu })) := onTime (.of_tdu rfl id h)

/-! ### Field boundaries and records -/

theorem takeField (tk : Taking) : s.Runs (s.takeField tk) := by
  unfold State.takeField
  dsimp only
  exact both (.of_tdu rfl id (.takeBoundary ..)) ((Desk.Keeps.work (air := true) (.postAll _)).trans .fieldBoundary)

theorem takeRecord (r : PulseRecord) : s.Runs (s.takeRecord r) := by
  have routed : s.Runs (s.onTime (Timebase.routeLoop s.sys s.straps.tape r)) := onTime (.routeLoop _ _)
  unfold State.takeRecord
  dsimp only
  generalize s.onTime (Timebase.routeLoop s.sys s.straps.tape r) = y at routed ⊢
  generalize y.time.ft.takeRecord s.sys s.straps.tape y.time.loop.F y.time.loop.n r = out
  have taken : s.Runs (y.onTime (fun t => { t with ft := out.1 })) := routed.trans (onTime (.of_tdu rfl id (.refl _)))
  split
  · exact taken.trans (takeField _)
  · exact taken

/-! ### Line boundaries -/

theorem closeLine (time : Ts) : s.Runs (s.closeLine time).1 := by
  unfold State.closeLine
  dsimp only
  refine trans ?_ (onTime (.latchOnEntry _))
  exact both (.of_tdu rfl (Timebase.Keeps.freqOk_closeLine _ time) (.refl _)) (.work (air := true) (.postAll _))

theorem handOver (step : Int) : s.Runs (s.handOver step).1 := by
  unfold State.handOver
  dsimp only
  refine both (.trans ?_ (.latchOnLeave _)) ?_
  · exact .of_tdu rfl id (.handOver ..)
  · exact .work (air := true) (((Desk.Work.postAll _).trans (.itemsLeft _)).trans (.postAll _))

theorem openLine : s.Runs s.openLine := by
  unfold State.openLine
  dsimp only
  exact both (.of_tdu rfl id (.refl _)) (.work (air := true) .cbiLine)

theorem coast (before : Ft) : s.Runs (s.coast before) := by
  unfold State.coast
  split
  · exact takeField _
  · exact refl s

theorem buildList (inserted : Bool) : s.Runs (s.buildList inserted) := by
  unfold State.buildList
  refine onDesk ?_
  dsimp only
  split
  · exact (Desk.Keeps.buildInserted _ _ _ _).trans (.build ..)
  · exact .build ..

theorem lineBoundary (time : Ts) : s.Runs (s.lineBoundary time) := by
  unfold State.lineBoundary State.lineWork
  dsimp only
  split
  · exact ((((closeLine time).trans (handOver _)).trans openLine).trans (coast _)).trans (buildList _)
  · exact refl s

/-! ### The video input -/

theorem falling (time : Ts) (before now : Code) : s.Runs (s.falling time before now) := by
  unfold State.falling
  split
  next h => exact onTime (.of_sfe rfl rfl (fun _ => Sfe.pulseOk_startPulse h _ _) rfl rfl)
  next => exact refl s

theorem endPulse_clock (x : Sfe) (time : Ts) (sum : Nat) (p : Pulse) :
    (x.endPulse time sum p).1.sampleTs = x.sampleTs ∧ (x.endPulse time sum p).1.prev = x.prev := by
  unfold Sfe.endPulse
  dsimp only
  split <;> exact ⟨rfl, rfl⟩

theorem rising (time : Ts) (before now : Code) (sum : Nat) : s.Runs (s.rising time before now sum) := by
  unfold State.rising
  split
  next p _ =>
    split
    · have ended : s.Runs (s.onTime (fun t => { t with sfe := (s.time.sfe.endPulse time sum p).1 })) := by
        obtain ⟨hts, hprev⟩ := endPulse_clock s.time.sfe time sum p
        exact onTime (.of_sfe hts hprev (fun _ => Sfe.pulseOk_of_none (Sfe.pulse_endPulse ..)) rfl rfl)
      dsimp only
      split
      · exact ended.trans (takeRecord _)
      · exact ended
    · exact refl s
  next => exact refl s

theorem broad (time : Ts) : s.Runs (s.broad time) := by
  unfold State.broad
  split
  · split
    · have ended : s.Runs (s.onTime (fun t => { t with sfe := { t.sfe with pulse := none } })) :=
        onTime (.of_sfe rfl rfl (fun _ => Sfe.pulseOk_of_none rfl) rfl rfl)
      exact ended.trans (takeRecord _)
    · exact refl s
  · exact refl s

theorem loseActivity : s.Runs s.loseActivity := by
  unfold State.loseActivity
  split
  · exact onTime (.of_sfe rfl rfl (fun _ => Sfe.pulseOk_of_none rfl) rfl rfl)
  · exact refl s

theorem blankAt (time : Ts) (sum : Nat) : s.Runs (s.onTime (fun t => { t with sfe := t.sfe.blankAt time sum })) := by
  have clock : (s.time.sfe.blankAt time sum).sampleTs = s.time.sfe.sampleTs ∧
      (s.time.sfe.blankAt time sum).prev = s.time.sfe.prev := by
    unfold Sfe.blankAt
    split
    · split <;> exact ⟨rfl, rfl⟩
    · exact ⟨rfl, rfl⟩
  exact onSfe clock.1 clock.2 (fun h => Sfe.pulseOk_blankAt h time sum)

theorem endWindow (lo hi : Code) (hm : s.time.sfe.mode = .levelSearch) :
    s.Runs (s.onTime (fun t => { t with sfe := t.sfe.endWindow lo hi })) := by
  have clock : (s.time.sfe.endWindow lo hi).sampleTs = s.time.sfe.sampleTs ∧
      (s.time.sfe.endWindow lo hi).prev = s.time.sfe.prev := by
    unfold Sfe.endWindow
    dsimp only
    split <;> exact ⟨rfl, rfl⟩
  exact onSfe clock.1 clock.2 (fun h => Sfe.pulseOk_endWindow h hm lo hi)

/-! ### Delivered timing -/

theorem startLine : s.Runs s.startLine := by
  unfold State.startLine
  dsimp only
  exact (onTdu (f := fun _ => s.time.tdu.startLine) .startLine).trans
    (onDesk ((Desk.Keeps.takeKeyDelay _).trans (.keyerLine ..)))

theorem pixelEdge (transp : Bool) : s.Runs (s.pixelEdge transp) := by
  unfold State.pixelEdge
  split
  · split
    · exact (onDesk (.keyPixel ..)).trans (onTdu .stepPixel)
    · exact refl s
  · exact refl s

/-! ### The host port and the requests -/

theorem startTransfer : s.Runs (s.onHp Hp.startTransfer) := by
  refine onHp (fun h => ?_)
  unfold Hp.startTransfer
  split
  next q rest hr =>
    split
    · rw [hr] at h
      exact reportsOk_of_tail h
    · exact h
  next => exact h
where
  reportsOk_of_tail {q : QReport} {rest : List QReport} (h : reportsOk (q :: rest)) : reportsOk rest := by
    obtain ⟨hl, hp, hn⟩ := h
    have sub : (rest.filter (fun q => !isOverflow q)).Sublist ((q :: rest).filter (fun q => !isOverflow q)) :=
      (List.sublist_cons_self q rest).filter _
    exact ⟨le_trans (Nat.le_succ _) hl, le_trans sub.length_le hp, (List.nodup_cons.mp hn).2⟩

theorem takeHeld_reports (h : Hp) : h.takeHeld.reports = h.reports := by
  unfold Hp.takeHeld
  split
  · split <;> rfl
  · rfl

theorem present_reports (h : Hp) : h.present.reports = h.reports := by
  unfold Hp.present
  split
  · split <;> rfl
  · rfl

theorem acknowledge_reports (h : Hp) : h.acknowledge.reports = h.reports := by
  unfold Hp.acknowledge
  split
  · exact takeHeld_reports _
  · rfl

theorem readByte_reports (h : Hp) : h.readByte.1.reports = h.reports := by
  unfold Hp.readByte
  split
  · rfl
  · exact takeHeld_reports _

/-- A change of the host port that leaves the report queue. -/
theorem onHp_of_eq {f : Hp → Hp} (h : (f s.desk.hp).reports = s.desk.hp.reports) : s.Runs (s.onHp f) :=
  onHp (fun hr => h ▸ hr)

theorem refuse (kind : Byte) (r : Reason) : s.Runs (s.onDesk (Desk.refuse s.fc kind r)) := work (air := true) (.refuse ..)

theorem query : s.Runs s.query := by
  have posted : s.Runs (s.onDesk (Desk.post s.fc (.status s.statusOf))) := work (air := true) (.post ..)
  unfold State.query
  dsimp only
  split
  · exact (posted.trans (onTdu (f := fun x => { x with shiftExcess := 0 }) (.of_eq rfl rfl rfl rfl rfl rfl))).trans
      (withCbi Cbi.clearWraps)
  · exact posted

theorem fence : s.Runs s.fence := by
  unfold State.fence
  dsimp only
  split
  · exact refuse ..
  · split
    · exact work (air := true) (.post ..)
    · have marked : s.Runs s.markAll := by
        refine trans ?_ (withCbi _)
        exact onTime (.of_tdu rfl id .markAll)
      exact marked.trans (onHp_of_eq rfl)

theorem shift (amount : Int) : s.Runs (s.shift amount) := by
  unfold State.shift
  split
  next h => exact onTdu (.placeShift amount h)
  next => exact refuse ..

theorem recentre : s.Runs s.recentre := by
  unfold State.recentre
  split
  · split
    next h => exact onTdu (.place_host rfl h)
    next => exact refuse ..
  · exact onTime (.of_tdu rfl id (.refl _))

theorem configure (ppl hoff : BitVec 16) (keyDelay : Byte) (accept : StationSet) :
    s.Runs (s.configure (configVals ppl hoff keyDelay) accept) := by
  refine trans ?_ (onDesk (.configure accept))
  exact onTime (.of_tdu rfl id (.configure ppl hoff keyDelay))

theorem beaconIn (sender : Station) (payload : BitVec 64) : s.Runs (s.beaconIn sender payload) := by
  unfold State.beaconIn
  split
  next b _ =>
    have heard : s.Runs (s.onDesk (Desk.accept s.fc s.straps.stn sender 1 (Desk.takeBeacon s.fc sender b))) :=
      onDesk (.accept 1 (fun _ => .takeBeacon b))
    dsimp only
    split
    · exact heard.trans (onTime (.of_tdu rfl id (.refl _)))
    · exact heard
  next => exact onDesk (.accept 1 .refl)

/-! ### Commands -/

/-- A command that runs `f`, while RESET is released (log 27). -/
theorem running {f : State → State} (h : s.Runs (f s)) : s.Runs (s.running f) := by
  unfold State.running
  split
  · exact refl s
  · exact h

/-- A request of the host is refused, or does its work. -/
theorem request (kind : Byte) {f : State → State} (h : s.Runs (f s)) : s.Runs (s.running (State.request kind f)) := by
  refine running ?_
  unfold State.request
  split
  · exact refuse ..
  · exact h

end State.Runs

/-- Every command but HARDWARE_RESET and RESET_RELEASE runs the machine on. -/
theorem exec_runs {i : Instr} (hreset : i ≠ .hardwareReset) (hrelease : ∀ stn sys tape, i ≠ .resetRelease stn sys tape)
    (s : State) : ∃ t, exec i s = .next t ∧ s.Runs t := by
  cases i with
  | hardwareReset => exact absurd rfl hreset
  | resetRelease stn sys tape => exact absurd rfl (hrelease stn sys tape)
  | levelSearchWindowEnd lo hi =>
    refine ⟨_, rfl, .running ?_⟩
    unfold State.onTime
    dsimp only
    split
    next hm => exact State.Runs.endWindow lo hi hm
    next => exact .refl s
  | fallingCrossing => exact ⟨_, rfl, .running (.falling ..)⟩
  | risingCrossing => exact ⟨_, rfl, .running (.rising ..)⟩
  | broadClassified => exact ⟨_, rfl, .running (.broad _)⟩
  | blankReading => exact ⟨_, rfl, .running (.blankAt ..)⟩
  | syncActivityLoss => exact ⟨_, rfl, .running .loseActivity⟩
  | lineBoundary => exact ⟨_, rfl, .running (.lineBoundary _)⟩
  | holdAgingRunsOut =>
    refine ⟨_, rfl, .running ?_⟩
    split
    · exact .lineBoundary _
    · exact .refl s
  | coastedBoundary =>
    refine ⟨_, rfl, .running ?_⟩
    split
    · exact .lineBoundary _
    · exact .refl s
  | deliveredLineStart =>
    refine ⟨_, rfl, .running ?_⟩
    split
    · exact .startLine
    · exact .refl s
  | hsyncEnd => exact ⟨_, rfl, .running (.onTime (.of_tdu rfl id (.of_eq rfl rfl rfl rfl rfl rfl)))⟩
  | deliveredBoundaryGiven => exact ⟨_, rfl, .running (.onTdu (.give _))⟩
  | vsyncEnd => exact ⟨_, rfl, .running (.onTime (.of_tdu rfl id (.of_eq rfl rfl rfl rfl rfl rfl)))⟩
  | pixelClockEdge => exact ⟨_, rfl, .running (.pixelEdge _)⟩
  | trigFallingEdge =>
    refine ⟨_, rfl, .running (.onDesk ?_)⟩
    unfold Ce.triggerEdge
    split <;> exact .ce id id
  | busIdle => exact ⟨_, rfl, .running (.work (air := true) .becomeIdle)⟩
  | busFirstFall => exact ⟨_, rfl, .running (.work (air := true) (.firstFall _))⟩
  | arbitrationLost => exact ⟨_, rfl, .running (.work (air := true) .loseAccess)⟩
  | arbitrationWon => exact ⟨_, rfl, .running (.work (air := true) .winAccess)⟩
  | attemptSucceeded => exact ⟨_, rfl, .running (.work .succeedAttempt)⟩
  | attemptFailed => exact ⟨_, rfl, .running (.work (air := true) (.failAttempt _))⟩
  | frameError => exact ⟨_, rfl, .running (.withCbi _)⟩
  | frameTruncated => exact ⟨_, rfl, .running (.withCbi _)⟩
  | frameObjected => exact ⟨_, rfl, .running (.withCbi _)⟩
  | beaconReceived => exact ⟨_, rfl, .running (.beaconIn ..)⟩
  | claimReceived => exact ⟨_, rfl, .running (.onDesk (.accept 2 fun _ => .withPt (storeOk_takeClaim _)))⟩
  | withdrawReceived => exact ⟨_, rfl, .running (.onDesk (.accept 3 fun _ => .withPt storeOk_takeWithdraw))⟩
  | recallReceived => exact ⟨_, rfl, .running (.onDesk (.accept 4 fun _ => .work (air := true) (.takeRecall ..)))⟩
  | clearReceived => exact ⟨_, rfl, .running (.onDesk (.accept 5 fun _ => .takeClear))⟩
  | busFaultEnter => exact ⟨_, rfl, .running (.work (air := true) .enterFault)⟩
  | busFaultCleared => exact ⟨_, rfl, .running (.work (air := true) .leaveFault)⟩
  | malformedRequest =>
    refine ⟨_, rfl, .running ?_⟩
    split
    · exact (State.Runs.onHp_of_eq rfl).trans (.refuse ..)
    · exact .refl s
  | configure => exact ⟨_, rfl, .request _ (.configure ..)⟩
  | reinit => exact ⟨_, rfl, .request _ (.onDesk .reinit)⟩
  | statusQuery => exact ⟨_, rfl, .request _ .query⟩
  | loadCue => exact ⟨_, rfl, .request _ (.onDesk (.loadCue ..))⟩
  | freeCue => exact ⟨_, rfl, .request _ (.onDesk .freeCue)⟩
  | startChain => exact ⟨_, rfl, .request _ (.onDesk .startChain)⟩
  | pauseChain => exact ⟨_, rfl, .request _ (.onDesk .pauseChain)⟩
  | resumeChain => exact ⟨_, rfl, .request _ (.onDesk .resumeChain)⟩
  | abortChain => exact ⟨_, rfl, .request _ (.work (air := true) .abortChain)⟩
  | withdrawCue => exact ⟨_, rfl, .request _ (.work (air := true) .withdrawCue)⟩
  | clearAll => exact ⟨_, rfl, .request _ (.onDesk .clearAll)⟩
  | shift => exact ⟨_, rfl, .request _ (.shift _)⟩
  | recentre => exact ⟨_, rfl, .request _ .recentre⟩
  | holdSlips => exact ⟨_, rfl, .request _ (.onTime (.of_tdu rfl id (.holdSlips _)))⟩
  | fence => exact ⟨_, rfl, .request _ .fence⟩
  | reportTransferStart => exact ⟨_, rfl, .running .startTransfer⟩
  | reportTransferEnd =>
    refine ⟨_, rfl, .running (.onHp_of_eq ?_)⟩
    split
    · exact State.Runs.acknowledge_reports _
    · rfl
  | requestByteStrobe edge =>
    refine ⟨_, rfl, .running (.onHp_of_eq ?_)⟩
    cases edge with
    | asserted b => exact State.Runs.takeHeld_reports _
    | released => exact State.Runs.present_reports _
  | reportByteAcknowledge =>
    refine ⟨_, rfl, .running (.onHp_of_eq ?_)⟩
    split
    · exact State.Runs.acknowledge_reports _
    · exact State.Runs.present_reports _

end Sys2Proof.Machine

namespace Sys2Proof.Machine

/-! ## The block's own clock -/

/-- A record of the host spells a request (R173). The cases are those of the payload's length and of the kind. -/
theorem requestKindOf_of_parseRequest {kind : Byte} {payload : List Byte} {i : Instr}
    (h : parseRequest kind payload = some i) : ∃ b, requestKindOf i = some b := by
  unfold parseRequest at h
  generalize kind.toNat = k at h
  rcases Nat.lt_or_ge k 16 with hk | hk
  case inr =>
    obtain ⟨m, rfl⟩ := Nat.exists_eq_add_of_le' hk
    cases h
  by_cases hload : k = 4
  · subst hload
    obtain ⟨r, _, rfl⟩ := Option.map_eq_some_iff.mp h
    exact ⟨_, rfl⟩
  rcases payload with _ | ⟨_, _ | ⟨_, _ | ⟨_, _ | ⟨_, _ | ⟨_, _ | ⟨_, _ | ⟨_, _ | ⟨_, rest⟩⟩⟩⟩⟩⟩⟩⟩
  all_goals
    interval_cases k
    all_goals try exact absurd rfl hload
    all_goals
      cases h
      try exact ⟨_, rfl⟩

theorem not_reset_of_parseRequest {kind : Byte} {payload : List Byte} {i : Instr} (h : parseRequest kind payload = some i) :
    i ≠ .hardwareReset ∧ ∀ stn sys tape, i ≠ .resetRelease stn sys tape := by
  obtain ⟨b, hb⟩ := requestKindOf_of_parseRequest h
  constructor
  · rintro rfl
    cases hb
  · rintro stn sys tape rfl
    cases hb

theorem not_reset_of_afterPayload {kind : Byte} {need : Nat} {got : List Byte} {i : Instr}
    (h : (afterPayload kind need got).2 = .request i) :
    i ≠ .hardwareReset ∧ ∀ stn sys tape, i ≠ .resetRelease stn sys tape := by
  unfold afterPayload at h
  split at h
  · cases h
  · dsimp only at h
    split at h <;> cases h
    next hp => exact not_reset_of_parseRequest hp

theorem not_reset_of_read {b : Byte} {f : Framer} {i : Instr} (h : (f.read b).2 = .request i) :
    i ≠ .hardwareReset ∧ ∀ stn sys tape, i ≠ .resetRelease stn sys tape := by
  cases f with
  | kind => cases h
  | length k =>
    change (match requestLength k with
      | some need => if need = b.toNat then afterPayload k need [] else (skipping b.toNat, .malformed k b)
      | none => (skipping b.toNat, .malformed k b)).2 = _ at h
    split at h
    · split at h
      · exact not_reset_of_afterPayload h
      · cases h
    · cases h
  | payload k need got => exact not_reset_of_afterPayload h
  | skip left => cases h

theorem not_reset_of_readByte {x : Hp} {i : Instr} (h : x.readByte.2 = .request i) :
    i ≠ .hardwareReset ∧ ∀ stn sys tape, i ≠ .resetRelease stn sys tape := by
  unfold Hp.readByte at h
  split at h
  · cases h
  · exact not_reset_of_read h

namespace State.Runs

variable {s t : State}

/-- A command run from within a tick. -/
theorem run {i : Instr} (hi : i ≠ .hardwareReset ∧ ∀ stn sys tape, i ≠ .resetRelease stn sys tape) : s.Runs (s.run i) := by
  obtain ⟨t, ht, h⟩ := exec_runs hi.1 hi.2 s
  unfold State.run
  rw [ht]
  exact h

/-! ### The cells of the claim bus -/

theorem onWire (f : Machine.Wire → Machine.Wire) : s.Runs (s.onWire f) := withCbi _

theorem acceptFrame (bits : List Bool) : s.Runs (s.acceptFrame bits) := by
  have handed {i : Instr} (hi : i ≠ .hardwareReset ∧ ∀ stn sys tape, i ≠ .resetRelease stn sys tape)
      {x : State} (hx : x = s.run i) : s.Runs x := hx ▸ run hi
  unfold State.acceptFrame
  dsimp only
  generalize rxKind bits = kind
  match kind with
  | 1 => exact handed (i := .beaconReceived _ _) (by simp) rfl
  | 2 => exact handed (i := .claimReceived _ _) (by simp) rfl
  | 3 => exact handed (i := .withdrawReceived _ _) (by simp) rfl
  | 4 => exact handed (i := .recallReceived _ _) (by simp) rfl
  | 0 | _ + 5 => exact handed (i := .clearReceived _) (by simp) rfl

theorem receiveBit (bit : Bool) (bits : List Bool) : s.Runs (s.receiveBit bit bits) := by
  have judged : s.Runs (s.judgeFrame bit bits) := by
    unfold State.judgeFrame
    split
    · exact withCbi _
    · split
      · exact acceptFrame bits
      · exact withCbi _
  unfold State.receiveBit
  split
  · exact refl s
  · split
    · split
      · split
        · exact withCbi _
        · exact refl s
      · exact refl s
    · split
      · unfold State.atObjection State.enterEndCells
        exact (judged.trans (withCbi _)).trans (onWire _)
      · exact refl s

theorem sendBit (bit sent : Bool) (bits : List Bool) (total : Nat) : s.Runs (s.sendBit bit sent bits total) := by
  unfold State.sendBit
  split
  · unfold State.ownObjection
    refine trans ?_ (onWire _)
    split
    · exact work .attemptSent
    · exact work (air := true) .attemptObjected
  · split
    · exact (work (air := true) (.failAttempt true)).trans (receiveBit ..)
    · exact refl s

theorem sampleCell (bit : Bool) : s.Runs (s.sampleCell bit) := by
  have sampled : s.Runs (s.onWire (fun w => { w with bits := s.desk.cbi.wire.bits ++ [bit], sampled := true })) := onWire _
  unfold State.sampleCell
  dsimp only
  split
  · exact sampled
  · split
    · split
      · split
        · exact sampled
        · exact sampled.trans (work (air := true) .loseAccess)
      · exact sampled
    · exact sampled.trans (sendBit ..)
    · exact sampled.trans (receiveBit ..)
    · exact sampled

theorem endFrame : s.Runs s.endFrame := by
  unfold State.endFrame
  refine trans ?_ (onWire _)
  refine onDesk ?_
  split
  · exact .work (air := true) (.withCbi _ _)
  · exact .work (air := true) .endOwnFrame

theorem closeCell : s.Runs s.closeCell := by
  have won : s.Runs s.closeAccess := by
    unfold State.closeAccess
    dsimp only
    split
    · exact work (air := true) .winAccess
    · exact refl s
  unfold State.closeCell State.closeFrame
  split
  · exact won.trans endFrame
  · exact won

theorem wireFall : s.Runs s.wireFall := by
  unfold State.wireFall
  split
  · exact work (air := true) (.firstFall _)
  · exact closeCell.trans (withCbi _)

theorem wireTimes : s.Runs s.wireTimes := by
  unfold State.wireTimes
  dsimp only
  split
  · exact work (air := true) .enterFault
  · split
    · exact work (air := true) .leaveFault
    · split
      · exact work (air := true) .becomeIdle
      · split
        · unfold State.silence
          split
          · exact endFrame
          · exact withCbi _
        · exact refl s

theorem busTick (others : Bool) : s.Runs (s.busTick others) := by
  have counted : s.Runs (s.onWire (Wire.count (others || s.clbPulled))) := onWire _
  unfold State.busTick
  refine trans ?_ wireTimes
  split
  · exact counted.trans wireFall
  · split
    · exact counted.trans (sampleCell _)
    · split
      · exact (counted.trans closeCell).trans (withCbi _)
      · split
        · exact (counted.trans (onWire _)).trans (withCbi _)
        · exact counted

/-! ### The sample and the line boundary -/

theorem boundaryIfDue : s.Runs s.boundaryIfDue := by
  unfold State.boundaryIfDue
  split
  · exact lineBoundary _
  · exact refl s

theorem crossing (before now : Code) : s.Runs (s.crossing before now) := by
  unfold State.crossing
  dsimp only
  split
  · exact falling ..
  · split
    · exact rising ..
    · exact broad _

theorem checkTimer : s.Runs s.checkTimer := by
  unfold State.checkTimer
  split
  · exact loseActivity
  · exact refl s

/-- The sums and the activity timer of a sample leave the form of a pulse. -/
theorem timeSample (now : Ts) (v : Code) : s.Runs (s.onTime (fun t => { t with sfe := (t.sfe.countTimer).sums now v })) := by
  have counted (x : Sfe) : x.countTimer = { x with timer := x.countTimer.timer } := by
    unfold Sfe.countTimer
    split <;> rfl
  refine onSfe (f := fun x => (x.countTimer).sums now v) ?_ ?_ (fun h => ?_)
  · rw [counted]
    rfl
  · rw [counted]
    rfl
  · rw [counted]
    refine Sfe.pulseOk_congr h (fun hp => ?_) rfl rfl rfl (fun hw => ?_)
    · simpa [Sfe.sums] using hp
    · simpa [Sfe.sums] using hw

theorem searchSample (v : Code) (hm : s.time.sfe.mode = .levelSearch) :
    s.Runs (s.onTime (fun t => { t with sfe := t.sfe.searchSample s.sys v })) := by
  unfold Sfe.searchSample State.onTime
  dsimp only
  split
  · exact endWindow _ _ hm
  · exact onSfe (s := s) (f := fun x => { x with
      windowCount := x.windowCount + 1
      lowest := if v.toNat < x.lowest.toNat then v else x.lowest
      highest := if x.highest.toNat < v.toNat then v else x.highest }) rfl rfl (fun h => h)

theorem finishBlank (now : Ts) : s.Runs (s.onTime (fun t => { t with sfe := t.sfe.finishBlank now })) := by
  refine onTime ?_
  unfold Sfe.finishBlank
  split
  · exact (blankAt ..).time
  · exact .refl _

theorem sample (v : Code) : s.Runs (s.sample v) := by
  unfold State.sample
  split
  next hm => exact searchSample v hm
  next =>
    unfold State.trackSample
    dsimp only
    refine trans ?_ checkTimer
    split
    · exact ((timeSample _ v).trans (crossing ..)).trans (finishBlank _)
    · exact (timeSample _ v).trans (finishBlank _)

theorem reference (sampleFirst : Bool) (v : Code) : s.Runs (s.reference sampleFirst v) := by
  unfold State.reference
  dsimp only
  refine trans (trans ?_ (sample v)) boundaryIfDue
  split
  · exact refl s
  · exact boundaryIfDue

/-! ### Delivered timing -/

theorem endVsync : s.Runs s.endVsync := by
  unfold State.endVsync
  split
  · exact onTime (.of_tdu rfl id (.of_eq rfl rfl rfl rfl rfl rfl))
  · exact refl s

theorem giveIf (p : Parity) : s.Runs (s.giveIf p) := by
  unfold State.giveIf
  split
  · exact onTime (.of_tdu rfl id (.give _))
  · exact refl s

theorem tickPixel (transp : Bool) (o : OpenLine) : s.Runs (s.tickPixel transp o) := by
  have hsync : s.Runs (if o.pixel = hsyncPixels o.ppl
      then (s.pixelEdge transp).onTime (fun t => { t with tdu := { t.tdu with hsync := false } })
      else s.pixelEdge transp) := by
    split
    · exact (pixelEdge transp).trans (onTime (.of_tdu rfl id (.of_eq rfl rfl rfl rfl rfl rfl)))
    · exact pixelEdge transp
  unfold State.tickPixel
  dsimp only
  split
  · exact (hsync.trans endVsync).trans (giveIf _)
  · exact hsync

theorem deliver (transp : Bool) (now : Ts) : s.Runs (s.deliver transp now) := by
  have due (x : State) : x.Runs (x.pixelIfDue transp now) := by
    unfold State.pixelIfDue
    split
    · split
      · exact tickPixel _ _
      · exact refl x
    · exact refl x
  unfold State.deliver
  refine trans ?_ (due _)
  split
  · exact (startLine.trans endVsync).trans (giveIf _)
  · exact refl s

/-! ### The tick -/

theorem timebaseTick (o : TickOrder) (p : PinSample) (now : Ts) : s.Runs (s.timebaseTick o p now) := by
  unfold State.timebaseTick
  split
  · exact (deliver _ _).trans (reference _ _)
  · exact (reference _ _).trans (deliver _ _)

theorem partTick (o : TickOrder) (p : PinSample) (now : Ts) : s.Runs (s.partTick o p now) := by
  unfold State.partTick
  split
  · exact (busTick _).trans (timebaseTick ..)
  · exact (timebaseTick ..).trans (busTick _)

theorem hostTick : s.Runs s.hostTick := by
  unfold State.hostTick State.frameByte
  refine trans ?_ startTransfer
  have read : s.Runs (s.onHp (fun _ => s.desk.hp.readByte.1)) := onHp_of_eq (readByte_reports _)
  dsimp only
  split
  · exact read
  next i hi => exact read.trans (run (not_reset_of_readByte hi))
  · exact read.trans (refuse ..)

end State.Runs

/-- One SCLK: the machine runs on, and the sample clock with it (R4). -/
theorem tickWith_runs (o : TickOrder) (p : PinSample) (s : State) :
    ∃ y, s.Runs y ∧ s.tickWith o p = y.onTime (fun t => { t with sfe := t.sfe.advance p.vin }) := by
  unfold State.tickWith
  dsimp only
  refine ⟨_, ?_, rfl⟩
  split
  · exact State.Runs.hostTick.trans (.partTick ..)
  · exact (State.Runs.partTick ..).trans .hostTick

/-! ## The invariants -/

/-- The invariants of the machine over one change of it, whatever RESET does. -/
structure State.KeepsAll (s t : State) : Prop where
  freq : s.freqOk → t.freqOk
  pulse : s.time.sfe.pulseOk → t.time.sfe.pulseOk
  tdu : s.time.tdu.Keeps t.time.tdu
  desk : s.desk.Keeps t.desk

section
variable {s t : State}

theorem State.Runs.keepsAll (h : s.Runs t) : s.KeepsAll t where
  freq := by
    have := h.time.freq
    unfold State.freqOk State.sys Loop.freqOk at *
    rwa [h.straps]
  pulse := h.time.pulse
  tdu := h.time.tdu
  desk := h.desk

theorem rangesOk_reset (sys : System) : (Tdu.reset sys).rangesOk := by
  unfold Tdu.rangesOk Tdu.reset
  simp

/-- The reset values meet every invariant. -/
theorem keepsAll_atReset (straps : Straps) (held : Bool) : s.KeepsAll (s.atReset straps held) where
  freq _ := ⟨fMin_le_fNom _, fNom_le_fMax _⟩
  pulse _ := Sfe.pulseOk_of_none rfl
  tdu := ⟨fun _ => ⟨Nat.zero_le _, Nat.zero_le _⟩, fun _ => rangesOk_reset _⟩
  desk := .reset _

theorem keepsAll_tick (p : PinSample) : s.KeepsAll (s.tick p) := by
  unfold State.tick
  split
  · exact (State.Runs.refl s).keepsAll
  · obtain ⟨y, hy, he⟩ := tickWith_runs s.tickOrder p s
    obtain ⟨freq, pulse, tdu, desk⟩ := hy.keepsAll
    rw [he]
    exact ⟨freq, pulse, tdu, desk⟩

theorem exec_keepsAll {i : Instr} (h : exec i s = .next t) : s.KeepsAll t := by
  by_cases hreset : i = .hardwareReset
  · subst hreset
    cases h
    exact keepsAll_atReset _ _
  · by_cases hrelease : ∀ stn sys tape, i ≠ .resetRelease stn sys tape
    · obtain ⟨u, hu, hr⟩ := exec_runs hreset hrelease s
      cases hu.symm.trans h
      exact hr.keepsAll
    · push Not at hrelease
      obtain ⟨stn, sys, tape, rfl⟩ := hrelease
      cases h
      split
      · exact keepsAll_atReset _ _
      · exact (State.Runs.refl s).keepsAll

/-- Every step keeps every invariant. -/
theorem step_keepsAll (h : step s = .next t) : s.KeepsAll t := by
  unfold step at h
  split at h
  next i rest _ =>
    obtain ⟨freq, pulse, tdu, desk⟩ := exec_keepsAll h
    exact ⟨freq, pulse, tdu, desk⟩
  next =>
    cases h
    unfold State.idle
    split
    · exact (State.Runs.refl s).keepsAll
    next p rest _ =>
      obtain ⟨freq, pulse, tdu, desk⟩ := keepsAll_tick (s := { s with inputs := rest }) p
      exact ⟨freq, pulse, tdu, desk⟩

end

/-- Settles O56: the frequency and the pulse part of what every step keeps. -/
theorem stepKeepsTheReference : Obligations.StepKeepsTheReference := by
  unfold Obligations.StepKeepsTheReference
  exact ⟨fun _ _ hs h => (step_keepsAll h).freq hs, fun _ _ hs h => (step_keepsAll h).pulse hs, Sfe.pulseOk_of_none rfl⟩

/-- Settles O57: the adjustment queue and the ranges, of which the application of a SHIFT within both its limits is the
case that needs an argument (`bounded_takeShift`). -/
theorem stepKeepsTheDeliveryUnit : Obligations.StepKeepsTheDeliveryUnit := by
  unfold Obligations.StepKeepsTheDeliveryUnit
  exact ⟨fun _ _ hs h => (step_keepsAll h).tdu.queue hs, fun _ _ hs h => (step_keepsAll h).tdu.ranges hs⟩

/-- Settles O58: no change of the claim half but a posted report lengthens the queue. -/
theorem stepKeepsTheReportQueue : Obligations.StepKeepsTheReportQueue := by
  unfold Obligations.StepKeepsTheReportQueue
  exact fun _ _ hs h => (step_keepsAll h).desk.reports hs

/-- Settles O59: the delay line, and the lists, whose form is that of the runs of a union (`spansOk_take_lineSpans`). -/
theorem stepKeepsTheKeyersData : Obligations.StepKeepsTheKeyersData := by
  unfold Obligations.StepKeepsTheKeyersData
  exact ⟨fun _ _ hs h => (step_keepsAll h).desk.delay hs, fun _ _ hs h => (step_keepsAll h).desk.lists hs⟩

/-- Settles O60: the store by its order, the slots and the live cues by the moves that the Cue Engine makes
(`Desk.Work`). -/
theorem stepKeepsTheClaimStoreAndTheSlots : Obligations.StepKeepsTheClaimStoreAndTheSlots := by
  unfold Obligations.StepKeepsTheClaimStoreAndTheSlots
  exact ⟨fun _ _ hs h => (step_keepsAll h).desk.store hs, fun _ _ hs h => (step_keepsAll h).desk.slots hs,
    fun _ _ hs h => (step_keepsAll h).desk.live hs⟩

/-! ## Commands and the clock -/

/-- Settles O2: a command runs the machine on, or gives it its reset values. -/
theorem everyCommandCompletesAndLeavesTheQueue : Obligations.EveryCommandCompletesAndLeavesTheQueue := by
  unfold Obligations.EveryCommandCompletesAndLeavesTheQueue Completes
  intro c s
  by_cases hreset : c = .hardwareReset
  · subst hreset
    exact ⟨_, rfl, rfl, rfl, rfl, fun _ => rfl⟩
  · by_cases hrelease : ∀ stn sys tape, c ≠ .resetRelease stn sys tape
    · obtain ⟨t, ht, h⟩ := exec_runs hreset hrelease s
      exact ⟨t, ht, h.pending, h.inputs, h.tieIx, fun _ => h.straps⟩
    · push Not at hrelease
      obtain ⟨stn, sys, tape, rfl⟩ := hrelease
      refine ⟨_, rfl, ?_⟩
      split <;> exact ⟨rfl, rfl, rfl, fun h => absurd rfl (h stn sys tape)⟩

/-- Settles O3: the tick runs the machine on and then moves the sample clock. -/
theorem anEmptyQueueRunsTheClock : Obligations.AnEmptyQueueRunsTheClock := by
  unfold Obligations.AnEmptyQueueRunsTheClock
  intro s hq
  have idle : step s = .next s.idle := by rw [step, hq]
  refine ⟨fun hi => ?_, fun p rest hi hheld => ?_, fun p rest hi hheld => ?_⟩
  · rw [idle, State.idle, hi]
  · rw [idle, State.idle, hi]
    simp [State.tick, hheld]
  · obtain ⟨y, hy, he⟩ := tickWith_runs (State.tickOrder { s with inputs := rest }) p { s with inputs := rest }
    refine ⟨_, idle, ?_⟩
    rw [State.idle, hi]
    dsimp only
    rw [State.tick, if_neg (by simp [hheld]), he]
    refine ⟨hy.pending.trans hq, hy.inputs, hy.straps, ?_, rfl⟩
    change y.time.sfe.sampleTs + 16 = _
    rw [hy.time.sampleTs]

end Sys2Proof.Machine

namespace Sys2Proof.Machine

/-! ## The step and RESET (R19, R177; log 27) -/

/-- Settles O1: the step takes the front command. -/
theorem stepRunsTheFrontCommand : Obligations.StepRunsTheFrontCommand := by
  unfold Obligations.StepRunsTheFrontCommand
  intro c rest s h
  rw [step, h]

/-- Every command but the two of the RESET pin runs a function of the state while RESET is released. -/
theorem exec_eq_running {i : Instr} (hreset : i ≠ .hardwareReset) (hrelease : ∀ stn sys tape, i ≠ .resetRelease stn sys tape)
    (s : State) : ∃ f, exec i s = .next (s.running f) := by
  cases i
  case hardwareReset => exact absurd rfl hreset
  case resetRelease stn sys tape => exact absurd rfl (hrelease stn sys tape)
  all_goals exact ⟨_, rfl⟩

theorem IdSet.ofPred_of_none {p : Slot → Bool} (h : ∀ i, p i = false) : IdSet.ofPred p = 0 := by
  unfold IdSet.ofPred
  generalize List.finRange 32 = l
  have (s : IdSet) : l.foldl (fun s i => if p i then IdSet.insert s i else s) s = s := by
    induction l with
    | nil => rfl
    | cons a l ih => rw [List.foldl_cons, h a]; exact ih
  exact this 0

theorem lockAtReset_reset (sys : System) : (Timebase.reset sys).lockAtReset sys := by
  simp [Timebase.lockAtReset, Timebase.reset, Sfe.reset, Loop.reset, Ref.reset]

theorem fieldAtReset_reset (sys : System) : (Timebase.reset sys).fieldAtReset sys := by
  simp [Timebase.fieldAtReset, Timebase.reset, Ft.reset, Tdu.reset, Loop.reset]

theorem busAtReset_reset : Desk.reset.busAtReset := by
  simp [Desk.busAtReset, Desk.reset, Cbi.reset, Wire.reset, Pt.reset, Pt.peer, Peer.reset, Pt.accepts]
  decide

theorem chain_reset (c : ChainNo) : Desk.reset.chain c = Chain.idle := by
  simp [Desk.reset, Desk.chain, Ce.chain, Ce.reset]

theorem slot_desk_reset (i : Slot) : Desk.reset.slot i = CueSlot.freed := Desk.Keeps.slot_reset i

theorem liveSet_reset : Desk.reset.ce.liveSet = 0 :=
  IdSet.ofPred_of_none (fun i => by
    change CueSlot.inLiveSet (Desk.reset.slot i) = false
    rw [slot_desk_reset]
    rfl)

theorem cuesAtReset_reset : Desk.reset.cuesAtReset := by
  refine ⟨⟨fun i => ?_, rfl, fun c => ?_, liveSet_reset, rfl, rfl⟩, ⟨rfl, rfl, rfl, rfl⟩, ⟨rfl, rfl, rfl, rfl⟩,
    ⟨rfl, rfl, rfl, rfl, rfl, rfl, rfl, rfl, rfl⟩⟩
  · rw [slot_desk_reset]
    exact ⟨rfl, rfl⟩
  · rw [chain_reset]
    exact ⟨rfl, rfl, rfl, rfl⟩

theorem valuesAtReset_of_eq {s : State} (ht : s.time = Timebase.reset s.sys) (hd : s.desk = Desk.reset) :
    s.valuesAtReset := by
  unfold State.valuesAtReset
  rw [ht, hd]
  exact ⟨lockAtReset_reset _, fieldAtReset_reset _, busAtReset_reset, cuesAtReset_reset⟩

theorem listsOk_reset : Desk.reset.listsOk := by
  intro l hl
  rcases hl with rfl | hl
  · exact Desk.Keeps.spansOk_nil _
  · rcases List.mem_pair.mp hl with rfl | rfl <;> exact Desk.Keeps.spansOk_nil _

/-- Settles O4: both commands give the reset values, every other runs only while RESET is released, and the reset values meet
the invariants. -/
theorem resetIsHeldAndReleased : Obligations.ResetIsHeldAndReleased := by
  unfold Obligations.ResetIsHeldAndReleased Completes
  refine ⟨fun s => ?_, fun stn sys tape s => ⟨fun h => ?_, fun h => ?_⟩, fun c s hheld hreset hrelease => ?_, ?_⟩
  · exact ⟨_, rfl, valuesAtReset_of_eq rfl rfl, rfl, rfl, rfl, rfl, rfl, rfl, rfl⟩
  · refine ⟨s.atReset ⟨stn, sys, tape⟩ false, ?_, valuesAtReset_of_eq rfl rfl, rfl, rfl, rfl, rfl⟩
    simp [exec, execResetRelease, h]
  · simp [exec, execResetRelease, h]
  · obtain ⟨f, hf⟩ := exec_eq_running hreset hrelease s
    rw [hf, running_held hheld]
  · exact ⟨valuesAtReset_of_eq rfl rfl, rfl, rfl, ⟨fMin_le_fNom _, fNom_le_fMax _⟩, ⟨Nat.zero_le _, Nat.zero_le _⟩,
      rangesOk_reset _, Desk.Keeps.reportsOk_nil, rfl, listsOk_reset, ⟨by decide, List.Pairwise.nil⟩,
      Desk.Keeps.slotsOk_reset, Desk.Keeps.liveOk_reset, lockOk_of_clear rfl⟩

/-! ## Levels and crossings (R5 to R17) -/

/-- A command that runs `f`, while RESET is released. -/
theorem next_running {s : State} (h : s.resetHeld = false) (f : State → State) :
    (Host.Outcome.next (s.running f) : Host.Outcome State Fault Refusal) = .next (f s) := by
  rw [running_released h]

theorem endWindow_eq {x : Sfe} (hm : x.mode = .levelSearch) (lo hi : Code) :
    x.endWindow lo hi = { x with
      tip := lo.toNat, blank := hi.toNat, windowCount := 0, lowest := 255, highest := 0,
      mode := if lo.toNat + 12 ≤ hi.toNat then .levelTracking else .levelSearch } := by
  unfold Sfe.endWindow Sfe.newWindow
  dsimp only
  have amp : 12 ≤ Sfe.amplitude { x with
      tip := lo.toNat, blank := hi.toNat, windowCount := 0, lowest := 255, highest := 0 } ↔ lo.toNat + 12 ≤ hi.toNat := by
    unfold Sfe.amplitude
    dsimp only
    omega
  simp only [amp]
  split
  · rfl
  · rw [hm]

/-- A level update lands between the level and the reading (R13). -/
theorem moveLevel_bounds (level reading : Nat) :
    min level reading ≤ moveLevel level reading ∧ moveLevel level reading ≤ max level reading := by
  unfold moveLevel
  have := roundR_bounds ((reading : Int) - level) (den := 8) (by decide)
  generalize roundR ((reading : Int) - level) 8 = r at *
  omega

/-- Settles O6: the two level commands, and the bounds of a level update. -/
theorem levelsAreSetAndTracked : Obligations.LevelsAreSetAndTracked := by
  unfold Obligations.LevelsAreSetAndTracked
  refine ⟨fun lo hi s h => ⟨fun hm => ?_, fun hm => ?_⟩, fun sum w s h hw => ?_, moveLevel_bounds⟩
  · simp only [exec, execLevelSearchWindowEnd, next_running h, State.onTime, hm, if_true, endWindow_eq hm]
    rfl
  · simp only [exec, execLevelSearchWindowEnd, next_running h, State.onTime, hm]
    rfl
  · simp only [exec, execBlankReading, next_running h, State.onTime, Sfe.blankAt, hw, if_true]
    rfl

/-- The edge lies in the 16 ticks before the sample (R7). -/
theorem edgeTime_sub (T : Nat) (time : Ts) (before now : Code) :
    (edgeTime T time before now - (time - 16)).toNat ≤ 15 := by
  have cancel : edgeTime T time before now - (time - 16) = BitVec.ofNat 20 (edgeFraction T before now) := by
    rw [edgeTime, BitVec.add_comm, BitVec.add_sub_cancel]
  rw [cancel, BitVec.toNat_ofNat]
  have : edgeFraction T before now ≤ 15 := Nat.min_le_left _ _
  omega

/-- Settles O7: the pulse that `Sfe.startPulse` begins, with the snapshot of the loop. -/
theorem fallingCrossingStartsAPulse : Obligations.FallingCrossingStartsAPulse := by
  unfold Obligations.FallingCrossingStartsAPulse
  refine ⟨fun time before now s => ?_, fun T time before now _ _ => edgeTime_sub T time before now⟩
  dsimp only
  intro h hm hamp hp hT hnow
  have falls : s.time.sfe.falls before now = true := by
    simp [Sfe.falls, (slicerOn_iff _).mpr ⟨hm, hamp⟩, hp, Sfe.threshold, hT, hnow]
  refine ⟨_, (exec_fallingCrossing_of_falls h falls time).trans rfl, rfl, rfl, rfl, rfl, rfl, rfl, rfl, rfl, ?_⟩
  refine ⟨fun ha => ?_, fun hl => ?_, fun ha hl => ?_⟩
  · simp [takeSnapshot, ha, gateOf]
  · simp [takeSnapshot, hl, gateOf, lockedGate]
  · cases hst : s.time.ref.st <;> simp_all [takeSnapshot, gateOf]

/-- Settles O11: the loss by the reference state in force. -/
theorem activityLossByReferenceState : Obligations.ActivityLossByReferenceState := by
  unfold Obligations.ActivityLossByReferenceState
  intro s h
  have lost : exec .syncActivityLoss s = .next s.loseActivity := next_running h _
  dsimp only
  refine ⟨fun ha => ⟨fun hst => ?_, fun hst => ?_, fun hs hh => ?_⟩, fun ha => ?_⟩
  · rw [lost, State.loseActivity, if_pos ha, State.onTime, Ref.takeLoss, hst]
    rfl
  · rw [lost, State.loseActivity, if_pos ha, State.onTime, Ref.takeLoss, hst]
    rfl
  · have told : s.time.ref.takeLoss = { s.time.ref with pendingLoss := true } := by
      unfold Ref.takeLoss
      split
      next hst => exact absurd hst hs
      next hst => exact absurd hst hh
      all_goals rfl
    rw [lost, State.loseActivity, if_pos ha, State.onTime, told]
    rfl
  · rw [lost, State.loseActivity, if_neg (by simp [ha])]

end Sys2Proof.Machine

namespace Sys2Proof.Machine

variable {s : State} {time : Ts}

/-! ## What a line boundary leaves (R23, R31, R60) -/

theorem exec_lineBoundary (h : s.resetHeld = false) (hfree : s.lineFree = true) (time : Ts) :
    exec (.lineBoundary time) s = .next (s.lineWork time) := by
  rw [show exec (.lineBoundary time) s = .next (s.running (State.lineBoundary time)) from rfl, next_running h,
    State.lineBoundary, if_pos hfree]

theorem convertLatch_eq (t : Timebase) : ∃ (b : Bool) (x : Tdu), t.convertLatch =
    { t with ref := { t.ref with latch := b }, tdu := x } := by
  unfold Timebase.convertLatch
  split
  · exact ⟨false, _, rfl⟩
  · exact ⟨t.ref.latch, t.tdu, rfl⟩

theorem latchOnEntry_eq (tr : Option Transition) (t : Timebase) : ∃ (b : Bool) (x : Tdu), t.latchOnEntry tr =
    { t with ref := { t.ref with latch := b }, tdu := x } := by
  unfold Timebase.latchOnEntry
  split
  · split
    · exact convertLatch_eq t
    · exact ⟨_, _, rfl⟩
  · exact ⟨_, _, rfl⟩

theorem latchOnLeave_eq (left : List AdjEntry) (t : Timebase) : ∃ (b : Bool) (x : Tdu), t.latchOnLeave left =
    { t with ref := { t.ref with latch := b }, tdu := x } := by
  unfold Timebase.latchOnLeave
  split
  · exact convertLatch_eq t
  · exact ⟨_, _, rfl⟩

theorem latchOnLeave_of_not_locked {t : Timebase} (h : t.ref.st ≠ .locked) (left : List AdjEntry) :
    t.latchOnLeave left = t := by
  unfold Timebase.latchOnLeave
  rw [if_neg fun hl => h hl.1]

/-- A loop and a machine that close the line. -/
def Timebase.closed (c : LineClose) (t : Timebase) : Timebase := { t with loop := c.loop, ref := c.ref }

/-- The hand-over of the closed line touches the delivery unit, the latch and the claim half. -/
theorem handOver_closeLine_eq (time : Ts) (step : Int) (s : State) : ∃ (b : Bool) (x : Tdu) (d : Desk),
    ((s.closeLine time).1.handOver step).1 =
      { s with
        time := { s.time with
          loop := (s.time.closeLine s.sys s.straps.tape time).loop
          ref := { (s.time.closeLine s.sys s.straps.tape time).ref with latch := b }
          tdu := x }
        desk := d } := by
  unfold State.closeLine State.handOver
  dsimp only [State.onTime]
  generalize s.time.closeLine s.sys s.straps.tape time = c
  obtain ⟨b, x, hentry⟩ := latchOnEntry_eq c.tr { s.time with loop := c.loop, ref := c.ref }
  rw [hentry]
  dsimp only
  generalize Tdu.handOver .. = h
  obtain ⟨b', x', hleave⟩ := latchOnLeave_eq h.left { s.time with loop := c.loop, ref := { c.ref with latch := b }, tdu := h.tdu }
  rw [hleave]
  exact ⟨b', x', _, rfl⟩

/-- The latch is looked at in LOCKED only. -/
theorem handOver_closeLine_ref (hst : (s.time.closeLine s.sys s.straps.tape time).ref.st ≠ .locked)
    (htr : ∀ tr, (s.time.closeLine s.sys s.straps.tape time).tr = some tr → tr.dest ≠ .locked) (step : Int) :
    ((s.closeLine time).1.handOver step).1.time.ref = (s.time.closeLine s.sys s.straps.tape time).ref := by
  unfold State.closeLine State.handOver
  dsimp only [State.onTime]
  generalize s.time.closeLine s.sys s.straps.tape time = c at *
  have entry (t : Timebase) : t.latchOnEntry c.tr = t := by
    unfold Timebase.latchOnEntry
    split
    next tr htr' => rw [if_neg (htr tr htr')]
    next => rfl
  rw [entry, latchOnLeave_of_not_locked hst]

theorem coast_loop (before : Ft) (s : State) : (s.coast before).time.loop = s.time.loop ∧
    (s.coast before).time.ref = s.time.ref ∧ (s.coast before).time.sfe = s.time.sfe ∧ (s.coast before).straps = s.straps ∧
    (s.coast before).resetHeld = s.resetHeld := by
  unfold State.coast
  split <;> exact ⟨rfl, rfl, rfl, rfl, rfl⟩

/-- What a line boundary makes of the loop, the machine, the front end and the straps. -/
theorem lineWork_eq (time : Ts) (s : State) :
    (s.lineWork time).time.loop = (s.time.closeLine s.sys s.straps.tape time).loop.openNext ∧
    (∃ b, (s.lineWork time).time.ref = { (s.time.closeLine s.sys s.straps.tape time).ref with latch := b }) ∧
    (s.lineWork time).time.sfe = s.time.sfe ∧ (s.lineWork time).straps = s.straps ∧
    (s.lineWork time).resetHeld = s.resetHeld := by
  obtain ⟨b, x, d, heq⟩ := handOver_closeLine_eq time (s.closeLine time).2.step s
  unfold State.lineWork State.buildList
  dsimp only [State.onDesk]
  obtain ⟨hl, hr, hs, hstr, hheld⟩ := coast_loop s.time.ft ((s.closeLine time).1.handOver (s.closeLine time).2.step).1.openLine
  rw [hl, hr, hs, hstr, hheld]
  unfold State.openLine
  dsimp only
  rw [heq]
  exact ⟨rfl, ⟨b, rfl⟩, rfl, rfl, rfl⟩

theorem lineWork_loop (time : Ts) (s : State) :
    (s.lineWork time).time.loop = (s.time.closeLine s.sys s.straps.tape time).loop.openNext := (lineWork_eq time s).1

theorem lineWork_sfe (time : Ts) (s : State) : (s.lineWork time).time.sfe = s.time.sfe := (lineWork_eq time s).2.2.1

theorem lineWork_straps (time : Ts) (s : State) : (s.lineWork time).straps = s.straps := (lineWork_eq time s).2.2.2.1

theorem lineWork_ref (time : Ts) (s : State) : ∃ b,
    (s.lineWork time).time.ref = { (s.time.closeLine s.sys s.straps.tape time).ref with latch := b } :=
  (lineWork_eq time s).2.1

theorem lineWork_st (time : Ts) (s : State) :
    (s.lineWork time).time.ref.st = (s.time.closeLine s.sys s.straps.tape time).ref.st := by
  obtain ⟨b, h⟩ := lineWork_ref time s
  rw [h]

theorem lineWork_ref_of_not_locked (hst : (s.time.closeLine s.sys s.straps.tape time).ref.st ≠ .locked)
    (htr : ∀ tr, (s.time.closeLine s.sys s.straps.tape time).tr = some tr → tr.dest ≠ .locked) :
    (s.lineWork time).time.ref = (s.time.closeLine s.sys s.straps.tape time).ref := by
  unfold State.lineWork State.buildList
  dsimp only [State.onDesk]
  rw [(coast_loop _ _).2.1]
  exact handOver_closeLine_ref hst htr _

/-- A line boundary that brings no coasted field. -/
theorem lineWork_of_not_coasting (hcoast : s.time.ft.coastsNow s.sys s.straps.tape = false) (time : Ts) :
    s.lineWork time = (((s.closeLine time).1.handOver (s.closeLine time).2.step).1.openLine).buildList
      ((s.closeLine time).1.handOver (s.closeLine time).2.step).2 := by
  have straps : ((s.closeLine time).1.handOver (s.closeLine time).2.step).1.openLine.straps = s.straps := by
    obtain ⟨b, x, d, heq⟩ := handOver_closeLine_eq time (s.closeLine time).2.step s
    unfold State.openLine
    dsimp only
    rw [heq]
  unfold State.lineWork State.coast
  dsimp only
  rw [State.sys, straps, if_neg]
  change ¬ s.time.ft.coastsNow s.sys s.straps.tape = true
  rw [hcoast]
  exact Bool.false_ne_true

/-- The tracker at a line boundary that brings no coasted field only counts the line. -/
theorem lineWork_ft (hcoast : s.time.ft.coastsNow s.sys s.straps.tape = false) (time : Ts) :
    (s.lineWork time).time.ft = s.time.ft.stepLine s.sys := by
  obtain ⟨b, x, d, heq⟩ := handOver_closeLine_eq time (s.closeLine time).2.step s
  rw [lineWork_of_not_coasting hcoast]
  unfold State.openLine State.buildList
  dsimp only [State.onDesk]
  rw [heq]
  rfl

/-! ## The first records of the report queue (R61, R182) -/

/-- The records at the front of a report queue. -/
def Desk.Leads (front : List QReport) (d : Desk) : Prop := ∃ more, d.hp.reports = front ++ more

/-- The reports of a hand-over: SLIP_PENDING, SLIP_DONE, FENCE_DONE. -/
def Report.ofHandOver (r : Report) : Bool := r.kind == 0x86 || r.kind == 0x87 || r.kind == 0x91

/-- A record of the reference states: REF_STATE or FREQ_RANGE. -/
def Report.ofReference (r : Report) : Bool := r.kind == 0x84 || r.kind == 0x90

theorem postReport_front {front : List QReport} (hf : ∀ q ∈ front, q.report.ofReference = true) {r : Report}
    (hr : r.ofHandOver = true) (fc : FieldCount) (more : List QReport) :
    ∃ more', postReport fc r (front ++ more) = front ++ more' := by
  have other (q : QReport) (hq : q ∈ front) : q.report.kind ≠ r.kind ∧ q.report.kind ≠ 0x94 := by
    have hq := hf q hq
    simp only [Report.ofReference, Report.ofHandOver, Bool.or_eq_true, beq_iff_eq] at hq hr
    omega
  have kept (g : QReport → QReport) (hg : ∀ q ∈ front, g q = q) : (front ++ more).map g = front ++ more.map g := by
    rw [List.map_append, List.map_congr_left hg, List.map_id']
  unfold postReport
  split
  · refine ⟨_, kept _ fun q hq => if_neg ?_⟩
    simp [Report.key, (other q hq).1]
  · split
    · exact ⟨more ++ [⟨r, 0⟩], List.append_assoc ..⟩
    · unfold overflowed
      split
      · refine ⟨_, kept _ fun q hq => if_neg ?_⟩
        simp [isOverflow, (other q hq).2]
      · exact ⟨more ++ [_], List.append_assoc ..⟩

namespace Desk.Leads

variable {front : List QReport} {d : Desk} {fc : FieldCount}

theorem post (hf : ∀ q ∈ front, q.report.ofReference = true) {r : Report} (hr : r.ofHandOver = true)
    (h : d.Leads front) : (d.post fc r).Leads front := by
  obtain ⟨more, h⟩ := h
  obtain ⟨more', h'⟩ := postReport_front hf hr fc more
  exact ⟨more', by rw [post_reports, h, h']⟩

theorem postAll (hf : ∀ q ∈ front, q.report.ofReference = true) {rs : List Report} (hr : ∀ r ∈ rs, r.ofHandOver = true)
    (h : d.Leads front) : (d.postAll fc rs).Leads front := by
  unfold Desk.postAll
  induction rs generalizing d with
  | nil => exact h
  | cons r rs ih =>
    exact ih (fun x hx => hr x (List.mem_cons_of_mem _ hx)) (h.post hf (hr r List.mem_cons_self))

theorem itemLeft (hf : ∀ q ∈ front, q.report.ofReference = true) (m : Bool) (h : d.Leads front) :
    (d.itemLeft fc m).Leads front := by
  unfold Desk.itemLeft
  split
  · split
    · exact post hf rfl h
    · exact h
  · exact h

theorem itemsLeft (hf : ∀ q ∈ front, q.report.ofReference = true) (ms : List Bool) (h : d.Leads front) :
    (d.itemsLeft fc ms).Leads front := by
  unfold Desk.itemsLeft
  induction ms generalizing d with
  | nil => exact h
  | cons m ms ih => exact ih (h.itemLeft hf m)

end Desk.Leads

theorem reports_cbiLine (sys : System) (p : Parity) (line : Nat) (d : Desk) :
    (d.cbiLine sys p line).hp.reports = d.hp.reports := by
  unfold Desk.cbiLine Desk.setDue
  repeat' split
  all_goals rfl

theorem ofHandOver_detectSlip (st : RefSt) (fc : FieldCount) (x : Tdu) :
    ∀ r ∈ (x.detectSlip st fc).2, r.ofHandOver = true := by
  unfold Tdu.detectSlip
  dsimp only
  split
  · rintro r (_ | ⟨_, ⟨⟩⟩)
    rfl
  · rintro r ⟨⟩

theorem ofHandOver_reports (fc : FieldCount) (a : Applying) : ∀ r ∈ a.reports fc, r.ofHandOver = true := by
  unfold Applying.reports
  cases a.slipDone
  · rintro r ⟨⟩
  · rintro r (_ | ⟨_, ⟨⟩⟩)
    rfl

theorem ofHandOver_handOver (tape : Bool) (n : Nat) (F c A : Int) (st : RefSt) (fc : FieldCount) (x : Tdu) :
    (∀ r ∈ (x.handOver tape n F c A st fc).pending, r.ofHandOver = true) ∧
      ∀ r ∈ (x.handOver tape n F c A st fc).done, r.ofHandOver = true := by
  unfold Tdu.handOver
  dsimp only
  split
  · exact ⟨ofHandOver_detectSlip _ _ _, ofHandOver_reports _ _⟩
  · exact ⟨ofHandOver_detectSlip _ _ _, fun r hr => absurd hr List.not_mem_nil⟩

theorem leads_handOver {front : List QReport} (hf : ∀ q ∈ front, q.report.ofReference = true) (step : Int)
    (h : s.desk.Leads front) : (s.handOver step).1.desk.Leads front := by
  unfold State.handOver
  dsimp only
  obtain ⟨hpend, hdone⟩ := ofHandOver_handOver s.straps.tape s.time.loop.n s.time.loop.F s.time.loop.C step s.time.ref.st
    s.fc s.time.tdu
  exact ((h.postAll hf hpend).itemsLeft hf _).postAll hf hdone

/-- A line boundary that brings no coasted field: what its transition posts in an empty queue stays in front. -/
theorem leads_lineWork {front : List QReport} (hf : ∀ q ∈ front, q.report.ofReference = true)
    (hcoast : s.time.ft.coastsNow s.sys s.straps.tape = false) (h : (s.closeLine time).1.desk.Leads front) :
    (s.lineWork time).desk.Leads front := by
  obtain ⟨more, hmore⟩ := leads_handOver hf (s.closeLine time).2.step h
  refine ⟨more, ?_⟩
  rw [lineWork_of_not_coasting hcoast]
  unfold State.buildList State.openLine
  dsimp only [State.onDesk]
  rw [reports_cbiLine, hmore]

/-- A transition posts REF_STATE, and FREQ_RANGE after it where the cause is PINNED, at the front of a queue that was
empty. -/
theorem leads_transition (hempty : s.desk.hp.reports = [])
    (hcoast : s.time.ft.coastsNow s.sys s.straps.tape = false) {tr : Transition}
    (htr : (s.time.closeLine s.sys s.straps.tape time).tr = some tr) :
    (s.lineWork time).desk.Leads
      ((transitionReports s.sys s.fc s.time.ref.st (s.time.closeLine s.sys s.straps.tape time).loop.F tr).map (⟨·, 0⟩)) := by
  refine leads_lineWork ?_ hcoast ⟨[], ?_⟩
  · unfold transitionReports
    split <;> simp [Report.ofReference, Report.kind]
  · unfold State.closeLine
    dsimp only [State.onTime]
    rw [htr]
    dsimp only
    unfold transitionReports
    split
    · simp [Desk.postAll, hempty, postReport, queued, Report.key, Report.kind]
    · simp [Desk.postAll, hempty, postReport, queued]

/-- The first record that a transition posts. -/
theorem reports_transition (hempty : s.desk.hp.reports = [])
    (hcoast : s.time.ft.coastsNow s.sys s.straps.tape = false) {tr : Transition}
    (htr : (s.time.closeLine s.sys s.straps.tape time).tr = some tr) :
    ∃ more, (s.lineWork time).desk.hp.reports = ⟨.refState tr.dest s.time.ref.st tr.cause s.fc, 0⟩ :: more := by
  obtain ⟨more, h⟩ := leads_transition hempty hcoast htr
  exact ⟨_, h⟩

end Sys2Proof.Machine

namespace Sys2Proof.Machine

variable {s : State} {time : Ts} {sys : System} {tape : Bool} {l : Loop} {t : Timebase}

/-- A statement about the line boundary is one about its work. -/
theorem completes_lineBoundary {P : State → Prop} (h : s.resetHeld = false) (hfree : s.lineFree = true)
    (hp : P (s.lineWork time)) : Completes (.lineBoundary time) s P := ⟨_, exec_lineBoundary h hfree time, hp⟩

/-! ## The loop's line (R25 to R38) -/

theorem judge_inGate {gate : Nat} {rs : List LoopRecord} {r : LoopRecord}
    (h : rs.find? (fun x => decide (x.e.natAbs ≤ gate)) = some r) : judge gate rs = (outcomeOf r.grade, some r) := by
  simp only [judge, h]

theorem judge_nil (gate : Nat) : judge gate [] = (.missing, none) := rfl

theorem judge_rejected {gate : Nat} {r : LoopRecord} {rest : List LoopRecord}
    (h : (r :: rest).find? (fun x => decide (x.e.natAbs ≤ gate)) = none) : judge gate (r :: rest) = (.rejected, some r) := by
  simp only [judge, h]

theorem closeLine_gated {st : RefSt} {gate : Nat} {o : LineOutcome} {used : Option LoopRecord}
    (hgate : gateOf tape st = some gate) (hj : judge gate l.records = (o, used)) :
    l.closeLine sys tape st = ⟨l.closeGated sys tape st gate o used, o, used,
      moveFine l.P (l.closeGated sys tape st gate o used).F⟩ := by
  rw [Loop.closeLine, hgate]
  dsimp only
  rw [hj]

theorem acceptedLine_good (st : RefSt) (e : Int) : l.acceptedLine sys tape st true e =
    { l with
      F := clampInt (fMin sys) (fMax sys) (l.F + freqStep (kiOf tape st) e)
      P := moveFine l.P (clampInt (fMin sys) (fMax sys) (l.F + freqStep (kiOf tape st) e) + phaseStep (kpOf tape st) e)
      C := phaseStep (kpOf tape st) e
      missRun := 0
      jumpRun := 0
      lastRejected := none
      pinnedRun := if fMin sys ≤ l.F + freqStep (kiOf tape st) e ∧ l.F + freqStep (kiOf tape st) e ≤ fMax sys then 0
        else satInc 256 l.pinnedRun
      pinnedCount := if fMin sys ≤ l.F + freqStep (kiOf tape st) e ∧ l.F + freqStep (kiOf tape st) e ≤ fMax sys
        then l.pinnedCount else satInc 255 l.pinnedCount } := by
  unfold Loop.acceptedLine Loop.updateF Loop.predict
  simp only [if_true]
  generalize l.F + freqStep (kiOf tape st) e = sum
  by_cases h : fMin sys ≤ sum ∧ sum ≤ fMax sys
  · rw [if_neg (by omega), if_pos h, if_pos h, clampInt_of_mem h.1 h.2]
  · rw [if_pos (by omega), if_neg h, if_neg h]

theorem acceptedLine_fair (st : RefSt) (e : Int) : l.acceptedLine sys tape st false e =
    { l with
      P := moveFine l.P (l.F + phaseStep (kpOf tape st) e)
      C := phaseStep (kpOf tape st) e
      missRun := 0
      jumpRun := 0
      lastRejected := none } := rfl

theorem closeGated_good (st : RefSt) (gate : Nat) (r : LoopRecord) :
    l.closeGated sys tape st gate .good (some r) = l.acceptedLine sys tape st true r.e := rfl

theorem closeGated_fair (st : RefSt) (gate : Nat) (r : LoopRecord) :
    l.closeGated sys tape st gate .fair (some r) = l.acceptedLine sys tape st false r.e := rfl

theorem closeGated_rejected (gate : Nat) (r : LoopRecord) :
    l.closeGated sys tape .locked gate .rejected (some r) = l.rejected tape gate r.edge := rfl

theorem missLimit_pos (tape : Bool) : 0 < missLimit tape := by cases tape <;> decide

theorem missLimit_lt (tape : Bool) : missLimit tape < 255 := by cases tape <;> decide

theorem jumpAfter_follows {gate : Nat} {edge last : Ts} (hl : l.lastRejected = some last) (hr : l.jumpRun ≠ 0)
    (hn : (fineDiff (fineOf edge) (moveFine (fineOf last) l.F)).natAbs ≤ gate * 256) :
    l.jumpAfter gate edge = satInc 4 l.jumpRun := by
  rw [Loop.jumpAfter, hl]
  exact if_pos ⟨hr, hn⟩

theorem jumpAfter_anew {gate : Nat} {edge : Ts} (h : ∀ last, l.lastRejected = some last → l.jumpRun = 0 ∨
    gate * 256 < (fineDiff (fineOf edge) (moveFine (fineOf last) l.F)).natAbs) : l.jumpAfter gate edge = 1 := by
  unfold Loop.jumpAfter
  split
  · rfl
  next last hl =>
    rw [if_neg]
    rintro ⟨hr, hn⟩
    exact (h last hl).elim hr (Nat.not_lt.mpr hn)

/-- A REJECTED line that does not complete the jump run. -/
theorem rejected_kept {gate : Nat} {edge : Ts} (h : l.jumpAfter gate edge < jumpLength tape) :
    l.rejected tape gate edge = { l with
      P := moveFine l.P l.F, C := 0, missRun := satInc 255 l.missRun, jumpRun := l.jumpAfter gate edge
      lastRejected := some edge } := by
  unfold Loop.rejected Loop.predict
  dsimp only
  rw [if_neg (by omega), Int.add_zero]

/-- A REJECTED line that completes the jump run. -/
theorem rejected_anchors {gate : Nat} {edge : Ts} (h : jumpLength tape ≤ l.jumpAfter gate edge) :
    l.rejected tape gate edge = { l with
      P := moveFine (fineOf edge) l.F, C := 0, missRun := 0, jumpRun := 0, lastRejected := none
      jumpCount := satInc 255 l.jumpCount } := by
  unfold Loop.rejected
  dsimp only
  rw [if_pos h]
  rfl

theorem missed_eq (l : Loop) : l.missed = { l with
    P := moveFine l.P l.F, C := 0, missRun := satInc 255 l.missRun, jumpRun := 0, lastRejected := none } := by
  unfold Loop.missed Loop.predict
  dsimp only
  rw [Int.add_zero]

/-- The number of the open line is left, whatever the line was. -/
theorem n_closeLine (sys : System) (tape : Bool) (st : RefSt) (l : Loop) : (l.closeLine sys tape st).loop.n = l.n := by
  have accepted (st : RefSt) (good : Bool) (e : Int) : (l.acceptedLine sys tape st good e).n = l.n := by
    cases good
    · rw [acceptedLine_fair]
    · rw [acceptedLine_good]
  have rejected (gate : Nat) (edge : Ts) : (l.rejected tape gate edge).n = l.n := by
    by_cases h : jumpLength tape ≤ l.jumpAfter gate edge
    · rw [rejected_anchors h]
    · rw [rejected_kept (Nat.lt_of_not_le h)]
  unfold Loop.closeLine
  split
  · dsimp only
    unfold Loop.closeGated
    split
    · exact accepted ..
    · exact accepted ..
    · split
      · exact rejected ..
      · rfl
    · rfl
  · rfl

/-! ## The machine at the line's end (R59, R60) -/

theorem closeLine_of_stay {tape : Bool} {c : Closing} (hc : t.loop.closeLine sys tape t.ref.st = c)
    (htr : (t.ref.countLine c).transition sys tape time t.ft.fs t.ref.pendingLoss c.loop = none) :
    t.closeLine sys tape time = ⟨c.loop, t.ref.countLine c, none, Closing.anchorStep c.flywheel c.loop⟩ := by
  unfold Timebase.closeLine
  dsimp only
  rw [hc, htr]

theorem closeLine_of_move {tape : Bool} {c : Closing} {tr : Transition} (hc : t.loop.closeLine sys tape t.ref.st = c)
    (htr : (t.ref.countLine c).transition sys tape time t.ft.fs t.ref.pendingLoss c.loop = some tr) :
    t.closeLine sys tape time = ⟨c.loop.transit tr, (t.ref.countLine c).enter tr, some tr,
      Closing.anchorStep c.flywheel (c.loop.transit tr)⟩ := by
  unfold Timebase.closeLine
  dsimp only
  rw [hc, htr]

section
variable {x : Ref} {fs : FieldSt} {loss : Bool}

theorem st_countLine {c : Closing} : (x.countLine c).st = x.st := by
  unfold Ref.countLine
  split <;> rfl

theorem transition_of_search (h : x.st = .search) : x.transition sys tape time fs loss l = x.leaveSearch time l.F := by
  unfold Ref.transition
  split <;> simp_all

theorem transition_of_acquire (h : x.st = .acquire) : x.transition sys tape time fs loss l = x.leaveAcquire loss l fs := by
  unfold Ref.transition
  split <;> simp_all

theorem transition_of_locked (h : x.st = .locked) : x.transition sys tape time fs loss l = leaveLocked tape loss l := by
  unfold Ref.transition
  split <;> simp_all

theorem transition_of_hold (h : x.st = .hold) : x.transition sys tape time fs loss l = x.leaveHold sys time l.F := by
  unfold Ref.transition
  split <;> simp_all

theorem transition_of_probe (h : x.st = .probe) : x.transition sys tape time fs loss l = x.leaveProbe sys loss l.F := by
  unfold Ref.transition
  split <;> simp_all

end

theorem countLine_locked (hst : t.ref.st = .locked) (c : Closing) : t.ref.countLine c = { t.ref with pendingLoss := false } := by
  unfold Ref.countLine
  split <;> simp_all

section
variable {c : Closing} (hst : t.ref.st = .locked) (hc : t.loop.closeLine sys tape .locked = c)
include hst hc

/-- A LOCKED line whose misses stay below the limit, with no loss pending. -/
theorem closeLine_locked_stays (hloss : t.ref.pendingLoss = false) (hmiss : c.loop.missRun < missLimit tape) :
    t.closeLine sys tape time = ⟨c.loop, { t.ref with pendingLoss := false }, none, Closing.anchorStep c.flywheel c.loop⟩ := by
  rw [closeLine_of_stay (hst ▸ hc), countLine_locked hst]
  rw [transition_of_locked (st_countLine.trans hst), leaveLocked, hloss, if_neg Bool.false_ne_true, if_neg (by omega)]

/-- A LOCKED line that ends in HOLD. -/
theorem closeLine_locked_holds {why : RefCause} (hwhy : leaveLocked tape t.ref.pendingLoss c.loop = some ⟨.hold, why, none⟩) :
    t.closeLine sys tape time = ⟨c.loop.clearRuns, { t.ref with pendingLoss := false }.enter ⟨.hold, why, none⟩,
      some ⟨.hold, why, none⟩, Closing.anchorStep c.flywheel c.loop.clearRuns⟩ := by
  have htr : (t.ref.countLine c).transition sys tape time t.ft.fs t.ref.pendingLoss c.loop = some ⟨.hold, why, none⟩ := by
    rw [transition_of_locked (st_countLine.trans hst)]
    exact hwhy
  rw [closeLine_of_move (hst ▸ hc) htr, countLine_locked hst]
  rfl

end

/-- Settles O12: an accepted line makes no transition, and the loop is that of `Loop.acceptedLine`. -/
theorem acceptedLinesSteerTheLoop : Obligations.AcceptedLinesSteerTheLoop := by
  unfold Obligations.AcceptedLinesSteerTheLoop
  intro time r s
  dsimp only
  intro h hfree hst hloss hr
  have stays {o : LineOutcome} (ho : outcomeOf r.grade = o)
      (hmiss : (s.time.loop.closeGated s.sys s.straps.tape .locked (lockedGate s.straps.tape) o (some r)).missRun = 0) :
      s.time.closeLine s.sys s.straps.tape time =
        ⟨s.time.loop.closeGated s.sys s.straps.tape .locked (lockedGate s.straps.tape) o (some r),
          { s.time.ref with pendingLoss := false }, none, _⟩ :=
    closeLine_locked_stays hst (closeLine_gated rfl (ho ▸ judge_inGate hr)) hloss (by
      dsimp only
      rw [hmiss]
      exact missLimit_pos _)
  constructor
  · intro hg
    have closed := stays (congrArg outcomeOf hg) (by simp only [outcomeOf, closeGated_good, acceptedLine_good])
    refine completes_lineBoundary h hfree ⟨?_, ?_, lineWork_sfe _ _, lineWork_straps _ _⟩
    · rw [lineWork_loop, closed]
      simp only [outcomeOf, closeGated_good, acceptedLine_good]
      rfl
    · rw [lineWork_st, closed]
      exact hst
  · intro hg
    have closed := stays (congrArg outcomeOf hg) (by simp only [outcomeOf, closeGated_fair, acceptedLine_fair])
    refine completes_lineBoundary h hfree ⟨?_, ?_, lineWork_sfe _ _, lineWork_straps _ _⟩
    · rw [lineWork_loop, closed]
      rfl
    · rw [lineWork_st, closed]
      exact hst

theorem satInc_of_lt {limit n : Nat} (h : n < limit) : satInc limit n = n + 1 := by
  unfold satInc
  omega

/-- Settles O13: by the cause of the move, a miss at the limit or a pending loss. -/
theorem unacceptedLinesEndInHold : Obligations.UnacceptedLinesEndInHold := by
  unfold Obligations.UnacceptedLinesEndInHold
  intro time s
  dsimp only
  intro h hfree hst
  have holds {why : RefCause} {c : Closing} (hc : s.time.loop.closeLine s.sys s.straps.tape .locked = c)
      (hwhy : leaveLocked s.straps.tape s.time.ref.pendingLoss c.loop = some ⟨.hold, why, none⟩) {q : Loop → Prop}
      (hq : q c.loop.clearRuns.openNext) : Completes (.lineBoundary time) s (fun t =>
        t.time.ref.st = .hold ∧ t.time.ref.aging = 0 ∧ t.time.ref.pendingLoss = false ∧ t.lor = true ∧ q t.time.loop ∧
        (s.desk.hp.reports = [] → s.time.ft.coastsNow s.sys s.straps.tape = false →
          ∃ more, t.desk.hp.reports = ⟨.refState .hold .locked why s.fc, 0⟩ :: more)) := by
    have closed := closeLine_locked_holds (time := time) hst hc hwhy
    obtain ⟨b, hb⟩ := lineWork_ref time s
    rw [closed] at hb
    have st : (s.lineWork time).time.ref.st = .hold := by rw [hb]; rfl
    refine completes_lineBoundary h hfree ⟨st, ?_, by rw [hb]; rfl, by simp [State.lor, st], ?_, fun hempty hcoast => ?_⟩
    · rw [hb]
      simp [Ref.enter, agingAfter, hst]
    · rw [lineWork_loop, closed]
      exact hq
    · obtain ⟨more, hmore⟩ := reports_transition hempty hcoast (congrArg LineClose.tr closed)
      exact ⟨more, hst ▸ hmore⟩
  have misses {c : Closing} {next : Loop} (hloss : s.time.ref.pendingLoss = false)
      (hc : s.time.loop.closeLine s.sys s.straps.tape .locked = c)
      (hmiss : c.loop.missRun = satInc 255 s.time.loop.missRun)
      (hnext : s.time.loop.missRun < 255 → c.loop.openNext = next) :
      (s.time.loop.missRun + 1 < missLimit s.straps.tape → Completes (.lineBoundary time) s (fun t =>
        t.time.loop = next ∧ t.time.ref.st = .locked ∧ t.time.sfe = s.time.sfe)) ∧
      (s.time.loop.missRun + 1 = missLimit s.straps.tape → Completes (.lineBoundary time) s (fun t =>
        t.time.ref.st = .hold ∧ t.time.ref.aging = 0 ∧ t.time.ref.pendingLoss = false ∧ t.lor = true ∧
        t.time.loop = { next with missRun := 0, jumpRun := 0, lastRejected := none, pinnedRun := 0 } ∧
        (s.desk.hp.reports = [] → s.time.ft.coastsNow s.sys s.straps.tape = false →
          ∃ more, t.desk.hp.reports = ⟨.refState .hold .locked .misses s.fc, 0⟩ :: more))) := by
    have small := missLimit_lt s.straps.tape
    constructor
    · intro hlt
      have closed := closeLine_locked_stays (time := time) hst hc hloss (by rw [hmiss, satInc_of_lt] <;> omega)
      refine completes_lineBoundary h hfree ⟨?_, ?_, lineWork_sfe _ _⟩
      · rw [lineWork_loop, closed, ← hnext (by omega)]
      · rw [lineWork_st, closed]
        exact hst
    · intro heq
      refine holds hc ?_ (q := fun l => l = _) (by rw [← hnext (by omega)]; rfl)
      rw [leaveLocked, hloss, if_neg Bool.false_ne_true, if_pos (by rw [hmiss, satInc_of_lt] <;> omega)]
  refine ⟨fun hloss => ⟨fun hr => ?_, fun r hr hg => ?_, fun r rest run hr hnone hfollows hanew hrun => ?_⟩, fun hloss => ?_⟩
  · refine misses hloss (closeLine_gated rfl (hr ▸ judge_nil _)) rfl fun hlt => ?_
    simp only [Loop.closeGated, missed_eq, satInc_of_lt hlt]
    rfl
  · have hj := judge_inGate hr
    rw [hg] at hj
    refine misses hloss (closeLine_gated rfl hj) rfl fun hlt => ?_
    simp only [outcomeOf, Loop.closeGated, missed_eq, satInc_of_lt hlt]
    rfl
  · have after : s.time.loop.jumpAfter (lockedGate s.straps.tape) r.edge = run := by
      by_cases hf : ∃ last, s.time.loop.lastRejected = some last ∧ s.time.loop.jumpRun ≠ 0 ∧
          (fineDiff (fineOf r.edge) (moveFine (fineOf last) s.time.loop.F)).natAbs ≤ lockedGate s.straps.tape * 256
      · rw [hfollows hf]
        obtain ⟨last, hl, hne, hn⟩ := hf
        exact jumpAfter_follows hl hne hn
      · have anew : ∀ last, s.time.loop.lastRejected = some last → s.time.loop.jumpRun = 0 ∨
            lockedGate s.straps.tape * 256 <
              (fineDiff (fineOf r.edge) (moveFine (fineOf last) s.time.loop.F)).natAbs := by
          intro last hl
          by_contra hcon
          push Not at hcon
          exact hf ⟨last, hl, hcon⟩
        rw [hanew anew]
        exact jumpAfter_anew anew
    have kept := rejected_kept (tape := s.straps.tape) (gate := lockedGate s.straps.tape) (edge := r.edge)
      (l := s.time.loop) (by rw [after]; exact hrun)
    have hj := judge_rejected (gate := lockedGate s.straps.tape) (hr ▸ hnone)
    refine misses hloss (closeLine_gated rfl (hr ▸ hj)) ?_ fun hlt => ?_
    · dsimp only
      rw [closeGated_rejected, kept]
    · simp only [closeGated_rejected, kept, satInc_of_lt hlt, after]
      rfl
  · refine holds (why := .activityLost) (c := s.time.loop.closeLine s.sys s.straps.tape .locked)
      (q := fun l' => l'.n = _ ∧ l'.missRun = 0 ∧ l'.jumpRun = 0 ∧ l'.lastRejected = none ∧ l'.pinnedRun = 0 ∧
        l'.records = []) rfl ?_ ⟨?_, rfl, rfl, rfl, rfl, rfl⟩
    · rw [leaveLocked, hloss, if_pos rfl]
    · exact congrArg (· + 1) (n_closeLine ..)

/-- Settles O14: the rejected line that completes the run anchors the loop, which leaves no misses. -/
theorem jumpRunReanchorsTheLoop : Obligations.JumpRunReanchorsTheLoop := by
  unfold Obligations.JumpRunReanchorsTheLoop
  intro time r rest last s
  dsimp only
  intro h hfree hst hloss hr hout hrun hl hn
  have hnone : s.time.loop.records.find? (fun x => decide (x.e.natAbs ≤ lockedGate s.straps.tape)) = none := by
    rw [List.find?_eq_none]
    intro x hx
    have := hout x hx
    unfold lockedGate
    simpa using this
  have hne : s.time.loop.jumpRun ≠ 0 := by rw [hrun]; split <;> decide
  have after : jumpLength s.straps.tape ≤ s.time.loop.jumpAfter (lockedGate s.straps.tape) r.edge := by
    rw [jumpAfter_follows (gate := lockedGate s.straps.tape) hl hne hn, hrun]
    unfold jumpLength
    split <;> decide
  have hj := judge_rejected (gate := lockedGate s.straps.tape) (hr ▸ hnone)
  have closed := closeLine_locked_stays (time := time) hst (closeLine_gated (sys := s.sys) rfl (hr ▸ hj)) hloss (by
    dsimp only
    rw [closeGated_rejected, rejected_anchors after]
    exact missLimit_pos _)
  rw [closeGated_rejected, rejected_anchors after] at closed
  have hloop := lineWork_loop time s
  rw [closed] at hloop
  refine completes_lineBoundary h hfree ?_
  rw [hloop, lineWork_st, closed]
  exact ⟨rfl, rfl, rfl, rfl, rfl, rfl, hst⟩

/-! ## Anchoring on a run (R50, R55) -/

theorem fMin_pos (sys : System) : 0 < fMin sys := by cases sys <;> decide

theorem fMax_lt (sys : System) : fMax sys < 2 ^ 27 := by cases sys <;> decide

theorem toInt_ofInt_of_range {x : Int} (h0 : 0 ≤ x) (h1 : x < 2 ^ 27) : (BitVec.ofInt 28 x).toInt = x := by
  rw [BitVec.toInt_ofInt, Int.bmod_def]
  omega

/-- The distance of a moved place from a later one. -/
theorem fineDiff_moveFine (p q : FineTs) (by_ : Int) :
    fineDiff (moveFine p by_) q = (BitVec.ofInt 28 (by_ - fineDiff q p)).toInt := by
  have hq : BitVec.ofInt 28 (fineDiff q p) = q - p := BitVec.ofInt_toInt
  rw [Int.sub_eq_add_neg, BitVec.ofInt_add, BitVec.ofInt_neg, hq, fineDiff, moveFine]
  congr 1
  generalize BitVec.ofInt 28 by_ = d
  bv_omega

/-- The anchor time lies whole line lengths after the run's last edge, and is the first such after the boundary sample. -/
theorem anchorAfter_spec {time edge : Ts} {F : Int} (hpos : 0 < F) (hlt : F < 2 ^ 27)
    (hlater : 0 ≤ fineDiff (fineOf time) (fineOf edge)) :
    (∃ k : Nat, 1 ≤ k ∧ anchorAfter time edge F = fineOf edge + BitVec.ofInt 28 (k * F)) ∧
      0 < fineDiff (anchorAfter time edge F) (fineOf time) ∧ fineDiff (anchorAfter time edge F) (fineOf time) ≤ F := by
  unfold anchorAfter
  dsimp only
  rw [fineDiff_moveFine]
  generalize fineDiff (fineOf time) (fineOf edge) = behind at hlater
  have hdiv : 0 ≤ behind / F := Int.ediv_nonneg hlater hpos.le
  have hmod := Int.emod_add_mul_ediv behind F
  have hmod0 := Int.emod_nonneg behind hpos.ne'
  have hmod1 := Int.emod_lt_of_pos behind hpos
  rw [max_eq_right (by omega)]
  have hdist : (behind / F + 1) * F - behind = F - behind % F := by linear_combination hmod
  constructor
  · refine ⟨(behind / F + 1).toNat, by omega, ?_⟩
    rw [Int.toNat_of_nonneg (by omega)]
    rfl
  · rw [hdist, toInt_ofInt_of_range (by omega) (by omega)]
    omega

theorem anchorAfter_of_freqOk {time edge : Ts} (hf : s.freqOk) (hlater : 0 ≤ fineDiff (fineOf time) (fineOf edge)) :
    (∃ k : Nat, 1 ≤ k ∧ anchorAfter time edge s.time.loop.F = fineOf edge + BitVec.ofInt 28 (k * s.time.loop.F)) ∧
      0 < fineDiff (anchorAfter time edge s.time.loop.F) (fineOf time) ∧
      fineDiff (anchorAfter time edge s.time.loop.F) (fineOf time) ≤ s.time.loop.F := by
  obtain ⟨hmin, hmax⟩ := hf
  have := fMin_pos s.sys
  have := fMax_lt s.sys
  exact anchorAfter_spec (by omega) (by omega) hlater

/-- A line of a state without a gate: the flywheel. -/
theorem closeLine_free {st : RefSt} (hgate : gateOf tape st = none) :
    l.closeLine sys tape st = ⟨{ l with C := 0, P := moveFine l.P l.F }, judgeFree l.records, none, moveFine l.P l.F⟩ := by
  rw [Loop.closeLine, hgate]
  dsimp only
  rw [Loop.predict, Int.add_zero]

theorem countLine_search (hst : t.ref.st = .search) (c : Closing) : t.ref.countLine c = { t.ref with pendingLoss := false } := by
  unfold Ref.countLine
  split <;> simp_all

/-- Settles O15: a run of 8 anchors the loop by `anchorAfter`, a shorter one makes no transition. -/
theorem searchAnchorsOnTheRun : Obligations.SearchAnchorsOnTheRun := by
  unfold Obligations.SearchAnchorsOnTheRun
  refine ⟨fun time edge s h hfree hst hrun hedge hf hlater => ?_, fun time s h hfree hst hrun => ?_⟩
  · have htr : ∀ c, (s.time.ref.countLine c).transition s.sys s.straps.tape time s.time.ft.fs s.time.ref.pendingLoss
        { s.time.loop with C := 0, P := moveFine s.time.loop.P s.time.loop.F } =
          some ⟨.acquire, .sourceFound, some (anchorAfter time edge s.time.loop.F)⟩ := by
      intro c
      rw [transition_of_search (st_countLine.trans hst), countLine_search hst]
      dsimp only [Ref.leaveSearch]
      rw [hedge]
      exact if_pos hrun
    have closed := closeLine_of_move (time := time) (closeLine_free (sys := s.sys) (tape := s.straps.tape)
      (l := s.time.loop) (by rw [hst]; rfl)) (htr _)
    have notLocked : (s.lineWork time).time.ref = _ := lineWork_ref_of_not_locked
      (by rw [closed]; exact fun hc => nomatch hc) (by rw [closed]; rintro tr ⟨⟩ hc; cases hc)
    obtain ⟨hk, hlt, hle⟩ := anchorAfter_of_freqOk hf hlater
    refine completes_lineBoundary h hfree ?_
    rw [notLocked, lineWork_loop, closed]
    exact ⟨rfl, rfl, rfl, rfl, rfl, hk, hlt, hle⟩
  · have htr : ∀ c l, (s.time.ref.countLine c).transition s.sys s.straps.tape time s.time.ft.fs s.time.ref.pendingLoss l =
        none := by
      intro c l
      rw [transition_of_search (st_countLine.trans hst), countLine_search hst]
      dsimp only [Ref.leaveSearch]
      split
      · exact if_neg (Nat.not_le.mpr hrun)
      · rfl
    have closed := closeLine_of_stay (time := time) (closeLine_free (sys := s.sys) (tape := s.straps.tape)
      (l := s.time.loop) (by rw [hst]; rfl)) (htr _ _)
    rw [countLine_search hst] at closed
    have notLocked : (s.lineWork time).time.ref = _ := lineWork_ref_of_not_locked
      (by rw [closed]; dsimp only; rw [hst]; exact fun hc => nomatch hc) (by rw [closed]; exact fun tr htr => nomatch htr)
    refine completes_lineBoundary h hfree ⟨?_, ?_, lineWork_sfe _ _⟩
    · rw [notLocked, closed]
    · rw [lineWork_loop, closed]
      rfl

end Sys2Proof.Machine

namespace Sys2Proof.Machine

variable {s t : State} {time : Ts} {sys : System} {tape : Bool} {l : Loop} {x : Ref}

/-! ## Only a line boundary changes the reference state (R59) -/

theorem st_running {f : State → State} (h : (f s).time.ref.st = s.time.ref.st) :
    (s.running f).time.ref.st = s.time.ref.st := by
  unfold State.running
  split
  · rfl
  · exact h

theorem st_request (kind : Byte) {f : State → State} (h : (f s).time.ref.st = s.time.ref.st) :
    (s.running (State.request kind f)).time.ref.st = s.time.ref.st := by
  refine st_running ?_
  unfold State.request
  split
  · rfl
  · exact h

theorem st_forward (F : Int) (r : LoopRecord) : (x.forward sys tape F r).st = x.st := by
  unfold Ref.forward
  split
  · unfold Ref.searchRecord
    split <;> rfl
  · unfold Ref.holdRecord
    repeat' split
    all_goals rfl
  · unfold Ref.probeRecord
    split <;> rfl
  · rfl
  · rfl

theorem st_takeLoss : x.takeLoss.st = x.st := by
  unfold Ref.takeLoss
  split <;> rfl

theorem st_takeRecord (r : PulseRecord) : (s.takeRecord r).time.ref.st = s.time.ref.st := by
  have routed : (s.time.routeLoop s.sys s.straps.tape r).ref.st = s.time.ref.st := by
    unfold Timebase.routeLoop
    split
    · exact st_forward ..
    · rfl
  unfold State.takeRecord
  dsimp only
  split <;> exact routed

theorem st_falling (time : Ts) (before now : Code) : (s.falling time before now).time.ref.st = s.time.ref.st := by
  unfold State.falling
  split <;> rfl

theorem st_rising (time : Ts) (before now : Code) (sum : Nat) :
    (s.rising time before now sum).time.ref.st = s.time.ref.st := by
  unfold State.rising
  split
  · split
    · dsimp only
      split
      · exact st_takeRecord _
      · rfl
    · rfl
  · rfl

theorem st_broad (time : Ts) : (s.broad time).time.ref.st = s.time.ref.st := by
  unfold State.broad
  split
  · split
    · exact st_takeRecord _
    · rfl
  · rfl

theorem st_loseActivity : s.loseActivity.time.ref.st = s.time.ref.st := by
  unfold State.loseActivity
  split
  · exact st_takeLoss
  · rfl

theorem st_pixelEdge (transp : Bool) : (s.pixelEdge transp).time.ref.st = s.time.ref.st := by
  unfold State.pixelEdge
  split
  · split <;> rfl
  · rfl

theorem st_beaconIn (sender : Station) (payload : BitVec 64) :
    (s.beaconIn sender payload).time.ref.st = s.time.ref.st := by
  unfold State.beaconIn
  split
  · dsimp only
    split <;> rfl
  · rfl

theorem st_query : s.query.time.ref.st = s.time.ref.st := by
  unfold State.query
  dsimp only
  split <;> rfl

theorem st_fence : s.fence.time.ref.st = s.time.ref.st := by
  unfold State.fence
  dsimp only
  repeat' split
  all_goals rfl

theorem st_shift (amount : Int) : (s.shift amount).time.ref.st = s.time.ref.st := by
  unfold State.shift
  split <;> rfl

theorem st_recentre : s.recentre.time.ref.st = s.time.ref.st := by
  unfold State.recentre
  repeat' split
  all_goals rfl

/-- Whatever is not a line boundary or a reset leaves the reference state. -/
theorem exec_keeps_st {i : Instr} (hreset : i ≠ .hardwareReset) (hrelease : ∀ stn sys tape, i ≠ .resetRelease stn sys tape)
    (hline : ∀ time, i ≠ .lineBoundary time ∧ i ≠ .holdAgingRunsOut time ∧ i ≠ .coastedBoundary time)
    (he : exec i s = .next t) : t.time.ref.st = s.time.ref.st := by
  suffices h : ∀ u, exec i s = .next u → u.time.ref.st = s.time.ref.st from h t he
  cases i with
  | hardwareReset => exact absurd rfl hreset
  | resetRelease stn sys tape => exact absurd rfl (hrelease stn sys tape)
  | lineBoundary time => exact absurd rfl (hline time).1
  | holdAgingRunsOut time => exact absurd rfl (hline time).2.1
  | coastedBoundary time => exact absurd rfl (hline time).2.2
  | levelSearchWindowEnd =>
    rintro _ ⟨⟩
    refine st_running ?_
    rw [onTime_time]
    split <;> rfl
  | fallingCrossing => rintro _ ⟨⟩; exact st_running (st_falling ..)
  | risingCrossing => rintro _ ⟨⟩; exact st_running (st_rising ..)
  | broadClassified => rintro _ ⟨⟩; exact st_running (st_broad _)
  | syncActivityLoss => rintro _ ⟨⟩; exact st_running st_loseActivity
  | deliveredLineStart =>
    rintro _ ⟨⟩
    refine st_running ?_
    split <;> rfl
  | pixelClockEdge => rintro _ ⟨⟩; exact st_running (st_pixelEdge _)
  | beaconReceived => rintro _ ⟨⟩; exact st_running (st_beaconIn ..)
  | malformedRequest =>
    rintro _ ⟨⟩
    refine st_running ?_
    split <;> rfl
  | statusQuery => rintro _ ⟨⟩; exact st_request _ st_query
  | fence => rintro _ ⟨⟩; exact st_request _ st_fence
  | shift => rintro _ ⟨⟩; exact st_request _ (st_shift _)
  | recentre => rintro _ ⟨⟩; exact st_request _ st_recentre
  | configure | reinit | loadCue | freeCue | startChain | pauseChain | resumeChain | abortChain | withdrawCue
  | clearAll | holdSlips => rintro _ ⟨⟩; exact st_request _ rfl
  | blankReading | hsyncEnd | deliveredBoundaryGiven | vsyncEnd | trigFallingEdge | busIdle | busFirstFall
  | arbitrationLost | arbitrationWon | attemptSucceeded | attemptFailed | frameError | frameTruncated | frameObjected
  | claimReceived | withdrawReceived | recallReceived | clearReceived | busFaultEnter | busFaultCleared
  | reportTransferStart | reportTransferEnd | requestByteStrobe | reportByteAcknowledge =>
    rintro _ ⟨⟩; exact st_running rfl

/-! ## The moves of the table (R59) -/

/-- A move of chapter 3's table, with its cause; `loss` says whether a loss was pending. -/
def Transition.Legal (left : RefSt) (loss : Bool) (tr : Transition) : Prop :=
  match left, tr.dest with
  | .search, .acquire => tr.cause = .sourceFound
  | .acquire, .locked => tr.cause = .lockConfirmed
  | .acquire, .search => if loss then tr.cause = .activityLost else tr.cause = .pinned ∨ tr.cause = .misses
  | .locked, .hold => tr.cause = if loss then .activityLost else .misses
  | .hold, .probe => tr.cause = .candidate
  | .hold, .acquire => tr.cause = .newSource
  | .hold, .search => tr.cause = .aged
  | .probe, .locked => tr.cause = .probeConfirmed
  | .probe, .search => tr.cause = .aged
  | .probe, .hold => tr.cause = if loss then .activityLost else .probeFailed
  | _, _ => False

theorem legal_leaveSearch {F : Int} {tr : Transition} {loss : Bool} (h : x.leaveSearch time F = some tr) :
    tr.Legal .search loss := by
  unfold Ref.leaveSearch at h
  split at h
  · split at h
    · cases h; rfl
    · cases h
  · cases h

theorem legal_leaveAcquire {fs : FieldSt} {tr : Transition} {loss : Bool} (h : x.leaveAcquire loss l fs = some tr) :
    tr.Legal .acquire loss := by
  unfold Ref.leaveAcquire at h
  split at h
  next hl => cases h; exact (if_pos hl).mpr rfl
  next hl =>
    split at h
    · cases h; exact (if_neg hl).mpr (.inl rfl)
    · split at h
      · cases h; exact (if_neg hl).mpr (.inr rfl)
      · split at h
        · cases h; rfl
        · cases h

theorem legal_leaveLocked {tr : Transition} {loss : Bool} (h : leaveLocked tape loss l = some tr) :
    tr.Legal .locked loss := by
  unfold leaveLocked at h
  split at h
  next hl => cases h; exact (if_pos hl).symm
  next hl =>
    split at h
    · cases h; exact (if_neg hl).symm
    · cases h

theorem legal_leaveHold {F : Int} {tr : Transition} {loss : Bool} (h : x.leaveHold sys time F = some tr) :
    tr.Legal .hold loss := by
  unfold Ref.leaveHold at h
  split at h
  · cases h; rfl
  · split at h
    · cases h; rfl
    · split at h
      · cases h; rfl
      · cases h

theorem legal_leaveProbe {F : Int} {tr : Transition} {loss : Bool} (h : x.leaveProbe sys loss F = some tr) :
    tr.Legal .probe loss := by
  unfold Ref.leaveProbe at h
  split at h
  next hl =>
    split at h
    · cases h; rfl
    · cases h; exact (if_pos hl).symm
  next hl =>
    split at h
    · cases h; rfl
    · split at h
      · cases h; rfl
      · split at h
        · cases h; exact (if_neg hl).symm
        · cases h

theorem legal_transition {fs : FieldSt} {tr : Transition} {loss : Bool}
    (h : x.transition sys tape time fs loss l = some tr) : tr.Legal x.st loss := by
  unfold Ref.transition at h
  split at h
  next hst => exact hst ▸ legal_leaveSearch h
  next hst => exact hst ▸ legal_leaveAcquire h
  next hst => exact hst ▸ legal_leaveLocked h
  next hst => exact hst ▸ legal_leaveHold h
  next hst => exact hst ▸ legal_leaveProbe h

/-- A line that changes the state makes one of the table's moves. -/
theorem closeLine_moves {t : Timebase} (h : (t.closeLine sys tape time).ref.st ≠ t.ref.st) :
    ∃ tr, (t.closeLine sys tape time).tr = some tr ∧ (t.closeLine sys tape time).ref.st = tr.dest ∧
      tr.Legal t.ref.st t.ref.pendingLoss := by
  unfold Timebase.closeLine at h ⊢
  dsimp only at h ⊢
  split at h
  · exact absurd st_countLine h
  next tr htr => exact ⟨tr, rfl, rfl, st_countLine (x := t.ref) ▸ legal_transition htr⟩

/-- The states that a move of the table leads to. -/
theorem Transition.Legal.dests {left : RefSt} {loss : Bool} {tr : Transition} (h : tr.Legal left loss) :
    (left = .search ∧ tr.dest = .acquire) ∨ (left = .acquire ∧ (tr.dest = .search ∨ tr.dest = .locked)) ∨
    (left = .locked ∧ tr.dest = .hold) ∨
    (left = .hold ∧ (tr.dest = .acquire ∨ tr.dest = .probe ∨ tr.dest = .search)) ∨
    (left = .probe ∧ (tr.dest = .locked ∨ tr.dest = .hold ∨ tr.dest = .search)) := by
  unfold Transition.Legal at h
  split at h
  all_goals simp_all

theorem st_lineBoundary_legal {s : State} (h : (s.lineBoundary time).time.ref.st ≠ s.time.ref.st) :
    ∃ tr, (s.time.closeLine s.sys s.straps.tape time).tr = some tr ∧ s.lineBoundary time = s.lineWork time ∧
      (s.lineWork time).time.ref.st = tr.dest ∧ tr.Legal s.time.ref.st s.time.ref.pendingLoss := by
  unfold State.lineBoundary at h ⊢
  split at h
  next hfree =>
    rw [lineWork_st] at h ⊢
    obtain ⟨tr, htr, hdest, hlegal⟩ := closeLine_moves h
    exact ⟨tr, htr, if_pos hfree, hdest, hlegal⟩
  next => exact absurd rfl h

/-! ## ACQUIRE (R51, R52) -/

section
variable {t : Timebase} {c : Closing}

theorem countLine_acquire (hst : t.ref.st = .acquire) (c : Closing) :
    t.ref.countLine c = { t.ref with pendingLoss := false, quality := qualityAfter c t.ref.quality } := by
  unfold Ref.countLine
  split <;> simp_all

/-- An ACQUIRE line that ends in SEARCH. -/
theorem closeLine_acquire_loses (hst : t.ref.st = .acquire) (hc : t.loop.closeLine sys tape .acquire = c) {why : RefCause}
    (hwhy : ∀ fs y, Ref.leaveAcquire t.ref.pendingLoss c.loop fs y = some ⟨.search, why, none⟩) :
    (t.closeLine sys tape time).loop = c.loop.clearRuns ∧ (t.closeLine sys tape time).ref.st = .search ∧
      (t.closeLine sys tape time).tr = some ⟨.search, why, none⟩ := by
  rw [closeLine_of_move (hst ▸ hc) ((transition_of_acquire (st_countLine.trans hst)).trans (hwhy _ _))]
  exact ⟨rfl, rfl, rfl⟩

/-- An ACQUIRE line with no reason to lose the source: the quality decides. -/
theorem closeLine_acquire_goes_on (hst : t.ref.st = .acquire) (hc : t.loop.closeLine sys tape .acquire = c)
    (hloss : t.ref.pendingLoss = false) (hpin : c.loop.pinnedRun < 256) (hmiss : c.loop.missRun < 16) :
    (64 ≤ qualityAfter c t.ref.quality → t.ft.fs = .locked →
      (t.closeLine sys tape time).ref.st = .locked ∧ (t.closeLine sys tape time).ref.aging = 0 ∧
      (t.closeLine sys tape time).loop.missRun = 0) ∧
    (qualityAfter c t.ref.quality < 64 ∨ t.ft.fs ≠ .locked →
      (t.closeLine sys tape time).ref.st = .acquire ∧
      (t.closeLine sys tape time).ref.quality = qualityAfter c t.ref.quality ∧
      (t.closeLine sys tape time).loop = c.loop) := by
  have leave : (t.ref.countLine c).transition sys tape time t.ft.fs t.ref.pendingLoss c.loop =
      if 64 ≤ qualityAfter c t.ref.quality ∧ t.ft.fs = .locked then some ⟨.locked, .lockConfirmed, none⟩ else none := by
    rw [transition_of_acquire (st_countLine.trans hst), countLine_acquire hst, Ref.leaveAcquire, hloss,
      if_neg Bool.false_ne_true, if_neg (by omega), if_neg (by omega)]
  constructor
  · intro hq hfs
    rw [closeLine_of_move (hst ▸ hc) (leave.trans (if_pos ⟨hq, hfs⟩))]
    exact ⟨rfl, by simp [Ref.enter, agingAfter], rfl⟩
  · intro hor
    rw [closeLine_of_stay (hst ▸ hc) (leave.trans (if_neg (by
      rintro ⟨hq, hfs⟩
      exact hor.elim (fun h => by omega) (fun h => h hfs)))), countLine_acquire hst]
    exact ⟨hst, rfl, rfl⟩

end

/-- A line in ACQUIRE that is not accepted is a miss. -/
theorem closeLine_acquire_missed (hpoor : ∀ r, l.records.find? (fun x => decide (x.e.natAbs ≤ 1024)) = some r →
    r.grade = .poor) : ∃ o used, l.closeLine sys tape .acquire = ⟨l.missed, o, used, moveFine l.P l.missed.F⟩ ∧
      o.accepted = false := by
  cases hin : l.records.find? (fun x => decide (x.e.natAbs ≤ 1024)) with
  | some r =>
    have hj := judge_inGate hin
    rw [hpoor r hin] at hj
    exact ⟨_, _, closeLine_gated rfl hj, rfl⟩
  | none =>
    cases hr : l.records with
    | nil => exact ⟨_, _, closeLine_gated rfl (hr ▸ judge_nil _), rfl⟩
    | cons r rest => exact ⟨_, _, closeLine_gated rfl (hr ▸ judge_rejected (hr ▸ hin)), rfl⟩

theorem qualityAfter_of_not_accepted {c : Closing} (h : c.outcome.accepted = false) (q : Nat) : qualityAfter c q = 0 := by
  unfold qualityAfter
  rw [h]
  split
  · exact if_neg fun hc => Bool.false_ne_true hc.1
  · rfl

theorem qualityAfter_of_used {c : Closing} {r : LoopRecord} (h : c.outcome.accepted = true) (hu : c.used = some r) (q : Nat) :
    qualityAfter c q = if r.e.natAbs ≤ 32 then min 64 (q + 1) else 0 := by
  unfold qualityAfter
  rw [hu]
  simp only [h, true_and]
  rfl

/-- The whole of the ACQUIRE line boundary. -/
theorem acquire_lineBoundary (time : Ts) (s : State) :
    let m := s.time.ref
    let l := s.time.loop
    let inGate := l.records.find? (fun x => decide (x.e.natAbs ≤ 1024))
    let gets (p : Ref → Loop → Prop) : Prop := Completes (.lineBoundary time) s (fun t => p t.time.ref t.time.loop)
    s.resetHeld = false → s.lineFree = true → m.st = .acquire →
    (m.pendingLoss = true → gets (fun m' _ => m'.st = .search)) ∧
    let sum (r : LoopRecord) : Int := l.F + roundR (r.e * 256) (2 ^ 6)
    (∀ r, m.pendingLoss = false → inGate = some r → r.grade = .good → 255 ≤ l.pinnedRun →
      sum r < fMin s.sys ∨ fMax s.sys < sum r → Completes (.lineBoundary time) s (fun t =>
        let F := max (fMin s.sys) (min (fMax s.sys) (sum r))
        t.time.ref.st = .search ∧ t.time.loop.F = F ∧ t.time.loop.pinnedRun = 0 ∧ t.time.loop.missRun = 0 ∧
        t.time.loop.pinnedCount = min 255 (l.pinnedCount + 1) ∧
        (s.desk.hp.reports = [] → s.time.ft.coastsNow s.sys s.straps.tape = false →
          ∃ more, t.desk.hp.reports = ⟨.refState .search .acquire .pinned s.fc, 0⟩ ::
            ⟨.freqRange F (decide (fMax s.sys < sum r)), 0⟩ :: more))) ∧
    (∀ r, m.pendingLoss = false → inGate = some r → r.grade ≠ .poor → (r.grade = .fair → l.pinnedRun < 256) →
      (r.grade = .good → l.pinnedRun < 255 ∨ (fMin s.sys ≤ sum r ∧ sum r ≤ fMax s.sys)) →
      let q := if r.e.natAbs ≤ 32 then min 64 (m.quality + 1) else 0
      (q = 64 → s.time.ft.fs = .locked → gets (fun m' l' => m'.st = .locked ∧ m'.aging = 0 ∧ l'.missRun = 0)) ∧
      (q ≠ 64 ∨ s.time.ft.fs ≠ .locked → gets (fun m' l' => m'.st = .acquire ∧ m'.quality = q ∧ l'.missRun = 0))) ∧
    (m.pendingLoss = false → (∀ r, inGate = some r → r.grade = .poor) → l.pinnedRun < 256 →
      (l.missRun + 1 < 16 → gets (fun m' l' => m'.st = .acquire ∧ m'.quality = 0 ∧ l'.missRun = l.missRun + 1)) ∧
      (l.missRun + 1 = 16 → gets (fun m' l' => m'.st = .search ∧ l'.F = l.F ∧ l'.missRun = 0))) := by
  dsimp only
  intro h hfree hst
  have fields : ∃ b, (s.lineWork time).time.ref =
      { (s.time.closeLine s.sys s.straps.tape time).ref with latch := b } := lineWork_ref time s
  obtain ⟨b, hb⟩ := fields
  refine ⟨fun hloss => ?_, fun r hloss hin hg hpin hout => ?_, fun r hloss hin hpoor hfair hgood => ?_,
    fun hloss hpoor hpin => ?_⟩
  · obtain ⟨-, hsearch, -⟩ := closeLine_acquire_loses (time := time) hst rfl (why := .activityLost)
      (c := s.time.loop.closeLine s.sys s.straps.tape .acquire)
      (fun fs y => by rw [Ref.leaveAcquire, hloss, if_pos rfl])
    exact completes_lineBoundary h hfree ((lineWork_st ..).trans hsearch)
  · have hj := judge_inGate hin
    rw [hg] at hj
    have hc := closeLine_gated (sys := s.sys) (tape := s.straps.tape) (st := .acquire) rfl hj
    simp only [outcomeOf, closeGated_good, acceptedLine_good] at hc
    have notIn : ¬ (fMin s.sys ≤ s.time.loop.F + freqStep (kiOf s.straps.tape .acquire) r.e ∧
        s.time.loop.F + freqStep (kiOf s.straps.tape .acquire) r.e ≤ fMax s.sys) := by
      intro hboth
      change fMin s.sys ≤ s.time.loop.F + roundR (r.e * 256) (2 ^ 6) ∧
        s.time.loop.F + roundR (r.e * 256) (2 ^ 6) ≤ fMax s.sys at hboth
      omega
    simp only [notIn, if_false] at hc
    obtain ⟨hloop, hsearch, htr⟩ := closeLine_acquire_loses (time := time) hst hc (why := .pinned)
      (fun fs y => by
        rw [Ref.leaveAcquire, hloss, if_neg Bool.false_ne_true, if_pos]
        dsimp only
        unfold satInc
        omega)
    have hwork := lineWork_loop time s
    rw [hloop] at hwork
    refine completes_lineBoundary h hfree ?_
    refine ⟨(lineWork_st ..).trans hsearch, by rw [hwork]; rfl, by rw [hwork]; rfl, by rw [hwork]; rfl, by rw [hwork]; rfl,
      fun hempty hcoast => ?_⟩
    obtain ⟨more, hmore⟩ := leads_transition hempty hcoast htr
    refine ⟨more, hmore.trans ?_⟩
    rw [hloop, hst]
    have limit : fMin s.sys < fMax s.sys := by cases s.sys <;> decide
    have atLimit : (clampInt (fMin s.sys) (fMax s.sys) (s.time.loop.F + freqStep (kiOf s.straps.tape .acquire) r.e) =
        fMax s.sys) ↔ fMax s.sys < s.time.loop.F + freqStep (kiOf s.straps.tape .acquire) r.e := by
      unfold clampInt
      omega
    simp only [transitionReports, if_true, Loop.clearRuns, atLimit]
    rfl
  · have accepts : ∃ o used, judge 1024 s.time.loop.records = (o, used) ∧ used = some r ∧ o.accepted = true ∧
        (s.time.loop.closeGated s.sys s.straps.tape .acquire 1024 o used).pinnedRun < 256 ∧
        (s.time.loop.closeGated s.sys s.straps.tape .acquire 1024 o used).missRun = 0 := by
      refine ⟨_, _, judge_inGate hin, rfl, ?_⟩
      cases hg : r.grade with
      | poor => exact absurd hg hpoor
      | fair => exact ⟨rfl, hfair hg, rfl⟩
      | good =>
        refine ⟨rfl, ?_, ?_⟩ <;> simp only [outcomeOf, closeGated_good, acceptedLine_good]
        have := hgood hg
        split
        · decide
        next hnot =>
          have less : s.time.loop.pinnedRun < 255 := this.resolve_right hnot
          unfold satInc
          omega
    obtain ⟨o, used, hj, hused, hacc, hpin, hmiss⟩ := accepts
    have hc := closeLine_gated (sys := s.sys) (tape := s.straps.tape) (st := .acquire) rfl hj
    have hq := qualityAfter_of_used (c := s.time.loop.closeLine s.sys s.straps.tape .acquire) (r := r)
      (by rw [hc]; exact hacc) (by rw [hc]; exact hused) s.time.ref.quality
    obtain ⟨locks, stays⟩ := closeLine_acquire_goes_on (time := time) hst rfl hloss
      (c := s.time.loop.closeLine s.sys s.straps.tape .acquire) (by rw [hc]; exact hpin) (by rw [hc]; dsimp only; omega)
    rw [hq] at locks stays
    constructor
    · intro hq64 hfs
      obtain ⟨hlocked, haging, hzero⟩ := locks (by rw [hq64]) hfs
      refine completes_lineBoundary h hfree ⟨(lineWork_st ..).trans hlocked, by rw [hb]; exact haging, ?_⟩
      rw [lineWork_loop]
      exact hzero
    · intro hor
      obtain ⟨hacquire, hquality, hloop⟩ := stays (hor.imp_left fun hne => by split at hne <;> split <;> omega)
      refine completes_lineBoundary h hfree ⟨(lineWork_st ..).trans hacquire, by rw [hb]; exact hquality, ?_⟩
      rw [lineWork_loop, hloop, hc]
      exact hmiss
  · obtain ⟨o, used, hc, hacc⟩ := closeLine_acquire_missed (sys := s.sys) (tape := s.straps.tape) hpoor
    have hq : qualityAfter (s.time.loop.closeLine s.sys s.straps.tape .acquire) s.time.ref.quality = 0 :=
      qualityAfter_of_not_accepted (by rw [hc]; exact hacc) _
    have hmissed := missed_eq s.time.loop
    constructor
    · intro hlt
      have hmiss : satInc 255 s.time.loop.missRun = s.time.loop.missRun + 1 := satInc_of_lt (by omega)
      obtain ⟨-, stays⟩ := closeLine_acquire_goes_on (time := time) hst rfl hloss
        (c := s.time.loop.closeLine s.sys s.straps.tape .acquire) (by rw [hc, hmissed]; exact hpin)
        (by rw [hc, hmissed]; dsimp only; omega)
      rw [hq] at stays
      obtain ⟨hacquire, hquality, hloop⟩ := stays (.inl (by decide))
      refine completes_lineBoundary h hfree ⟨(lineWork_st ..).trans hacquire, by rw [hb]; exact hquality, ?_⟩
      rw [lineWork_loop, hloop, hc, hmissed]
      exact hmiss
    · intro heq
      have hmiss : satInc 255 s.time.loop.missRun = s.time.loop.missRun + 1 := satInc_of_lt (by omega)
      obtain ⟨hloop, hsearch, -⟩ := closeLine_acquire_loses (time := time) hst rfl (why := .misses)
        (c := s.time.loop.closeLine s.sys s.straps.tape .acquire) (fun fs y => by
          rw [Ref.leaveAcquire, hloss, if_neg Bool.false_ne_true, hc, hmissed]
          dsimp only
          rw [if_neg (by omega), if_pos (by omega)])
      refine completes_lineBoundary h hfree ⟨(lineWork_st ..).trans hsearch, ?_, ?_⟩
      · rw [lineWork_loop, hloop, hc, hmissed]
        rfl
      · rw [lineWork_loop, hloop]
        rfl

/-! ## HOLD and PROBE (R54 to R58) -/

section
variable {t : Timebase} {c : Closing}

theorem countLine_hold (hst : t.ref.st = .hold) (c : Closing) :
    t.ref.countLine c = { t.ref with pendingLoss := false, aging := t.ref.aging + 1 } := by
  unfold Ref.countLine
  split <;> simp_all

/-- The tally of a probe once the open line is counted (R56). -/
def Ref.tallyAfter (x : Ref) : Nat :=
  if x.probeFirst = some .good ∨ x.probeFirst = some .fair then min 8 (x.probeTally + 1) else x.probeTally

theorem countLine_probe (hst : t.ref.st = .probe) (c : Closing) :
    t.ref.countLine c = { t.ref with
      pendingLoss := false, aging := t.ref.aging + 1, probeLines := satInc 8 t.ref.probeLines
      probeTally := t.ref.tallyAfter, probeFirst := none } := by
  unfold Ref.countLine
  split <;> simp_all
  rfl

theorem leaveHold_of_run {F : Int} {edge : Ts} (hrun : 16 ≤ x.newRun) (hedge : x.newEdge = some edge) :
    x.leaveHold sys time F = some ⟨.acquire, .newSource, some (anchorAfter time edge F)⟩ := by
  simp [Ref.leaveHold, hrun, hedge]

theorem leaveHold_of_no_run {F : Int} (hrun : x.newRun < 16) : x.leaveHold sys time F =
    if x.aged sys then some ⟨.search, .aged, none⟩
    else if x.anchor.isSome then some ⟨.probe, .candidate, none⟩
    else none := by
  simp [Ref.leaveHold, Nat.not_le.mpr hrun]

theorem aged_eq_false (h : x.aging < agingLimit sys) : x.aged sys = false := by
  simp [Ref.aged, h]

theorem leaveProbe_of_loss {F : Int} (h : x.aging < agingLimit sys) :
    x.leaveProbe sys true F = some ⟨.hold, .activityLost, none⟩ := by
  simp [Ref.leaveProbe, aged_eq_false h]

theorem leaveProbe_confirmed {F : Int} {a : Ts} (hl : 8 ≤ x.probeLines) (ht : 6 ≤ x.probeTally) (ha : x.anchor = some a) :
    x.leaveProbe sys false F = some ⟨.locked, .probeConfirmed, some (moveFine (fineOf a) (9 * F))⟩ := by
  simp [Ref.leaveProbe, hl, ht, ha]

/-- A probe that is not confirmed. -/
theorem leaveProbe_of_not_confirmed {F : Int} (h : x.probeLines < 8 ∨ x.probeTally < 6 ∨ x.anchor = none) :
    x.leaveProbe sys false F = if x.aged sys then some ⟨.search, .aged, none⟩
      else if 8 ≤ x.probeLines then some ⟨.hold, .probeFailed, none⟩ else none := by
  unfold Ref.leaveProbe
  rw [if_neg Bool.false_ne_true]
  split
  next ha hd => simp only [decide_eq_true_eq] at ha; simp_all; omega
  next => rfl

end

/-- The loop after a flywheel line and the move of a state without a gate. -/
def Loop.flown (l : Loop) : Loop := { l with n := l.n + 1, P := l.P + BitVec.ofInt 28 l.F, C := 0, records := [] }

/-- A line of a state without a gate that makes no move. -/
theorem lineWork_free_stays (hgate : gateOf s.straps.tape s.time.ref.st = none)
    (htr : ∀ c, (s.time.ref.countLine c).transition s.sys s.straps.tape time s.time.ft.fs s.time.ref.pendingLoss
      { s.time.loop with C := 0, P := moveFine s.time.loop.P s.time.loop.F } = none) :
    (s.lineWork time).time.loop = s.time.loop.flown ∧ ∃ b c,
      (s.lineWork time).time.ref = { s.time.ref.countLine c with latch := b } := by
  obtain ⟨b, hb⟩ := lineWork_ref time s
  rw [closeLine_of_stay (closeLine_free hgate) (htr _)] at hb
  refine ⟨?_, b, _, hb⟩
  rw [lineWork_loop, closeLine_of_stay (closeLine_free hgate) (htr _)]
  rfl

/-- A line of a state without a gate that makes a move. -/
theorem lineWork_free_moves {tr : Transition} (hgate : gateOf s.straps.tape s.time.ref.st = none)
    (htr : ∀ c, (s.time.ref.countLine c).transition s.sys s.straps.tape time s.time.ft.fs s.time.ref.pendingLoss
      { s.time.loop with C := 0, P := moveFine s.time.loop.P s.time.loop.F } = some tr) :
    (s.lineWork time).time.loop = s.time.loop.flown.transit tr ∧ ∃ b c,
      (s.lineWork time).time.ref = { (s.time.ref.countLine c).enter tr with latch := b } := by
  obtain ⟨b, hb⟩ := lineWork_ref time s
  rw [closeLine_of_move (closeLine_free hgate) (htr _)] at hb
  refine ⟨?_, b, _, hb⟩
  rw [lineWork_loop, closeLine_of_move (closeLine_free hgate) (htr _)]
  unfold Loop.transit
  dsimp only
  split <;> rfl

theorem gateOf_eq_none {st : RefSt} (h : st = .hold ∨ st = .probe ∨ st = .search) : gateOf tape st = none := by
  rcases h with h | h | h <;> rw [h] <;> rfl

/-- The last clause of O16: HOLD and PROBE. -/
theorem holdProbe_lineBoundary (time : Ts) (s : State) :
    let m := s.time.ref
    let l := s.time.loop
    let limit := match s.sys with
      | .sys625 => 15625
      | .sys525 => 15750
    let flown : Loop := { l with n := l.n + 1, P := l.P + BitVec.ofInt 28 l.F, C := 0, records := [] }
    let moved : Loop := { flown with missRun := 0, jumpRun := 0, lastRejected := none, pinnedRun := 0 }
    let gets (p : Ref → Loop → Prop) : Prop := Completes (.lineBoundary time) s (fun t => p t.time.ref t.time.loop)
    s.resetHeld = false → s.lineFree = true →
    (m.st = .hold → m.newRun < 16 → m.aging + 1 < limit →
      (∀ a, m.anchor = some a → gets (fun m' l' => m'.st = .probe ∧ m'.anchor = some a ∧ m'.probeLines = 0 ∧
        m'.probeTally = 0 ∧ m'.aging = m.aging + 1 ∧ l' = moved)) ∧
      (m.anchor = none → gets (fun m' l' => m'.st = .hold ∧ m'.newRun = m.newRun ∧ m'.aging = m.aging + 1 ∧ l' = flown))) ∧
    (∀ edge, m.st = .hold → 16 ≤ m.newRun → m.newEdge = some edge → s.freqOk →
      0 ≤ fineDiff (fineOf time) (fineOf edge) →
      gets (fun m' l' => m'.st = .acquire ∧ m'.quality = 0 ∧ m'.newRun = 0 ∧ m'.aging = 0 ∧ l'.F = l.F ∧ l'.C = 0 ∧
        (∃ k : Nat, 1 ≤ k ∧ l'.P = fineOf edge + BitVec.ofInt 28 (k * l.F)) ∧
        0 < fineDiff l'.P (fineOf time) ∧ fineDiff l'.P (fineOf time) ≤ l.F)) ∧
    (m.st = .probe →
      let tally := if m.probeFirst = some .good ∨ m.probeFirst = some .fair then min 8 (m.probeTally + 1) else m.probeTally
      let back (m' : Ref) (l' : Loop) : Prop := m'.st = .hold ∧ m'.anchor = none ∧ m'.probeLines = 0 ∧
        m'.probeTally = 0 ∧ m'.newRun = 0 ∧ m'.aging = m.aging + 1 ∧ l' = moved
      (m.pendingLoss = true → m.aging + 1 < limit → gets back) ∧
      (m.pendingLoss = false → m.aging + 1 < limit → m.probeLines + 1 < 8 →
        gets (fun m' l' => m'.st = .probe ∧ m'.anchor = m.anchor ∧ m'.probeLines = m.probeLines + 1 ∧
          m'.probeTally = tally ∧ m'.probeFirst = none ∧ m'.aging = m.aging + 1 ∧ l' = flown)) ∧
      (m.pendingLoss = false → m.aging + 1 < limit → m.probeLines + 1 = 8 → tally < 6 → gets back) ∧
      (∀ a, m.pendingLoss = false → m.probeLines + 1 = 8 → 6 ≤ tally → m.anchor = some a →
        gets (fun m' l' => m'.st = .locked ∧ m'.anchor = none ∧ m'.aging = 0 ∧
          l' = { moved with P := fineOf a + BitVec.ofInt 28 (9 * l.F) }))) := by
  dsimp only
  intro h hfree
  have young (c : Closing) (l : Loop) (hst : s.time.ref.st = .hold) (hrun : s.time.ref.newRun < 16)
      (hage : s.time.ref.aging + 1 < agingLimit s.sys) :
      (s.time.ref.countLine c).transition s.sys s.straps.tape time s.time.ft.fs s.time.ref.pendingLoss l =
        if s.time.ref.anchor.isSome then some ⟨.probe, .candidate, none⟩ else none := by
    rw [transition_of_hold (st_countLine.trans hst), countLine_hold hst,
      leaveHold_of_no_run (x := { s.time.ref with pendingLoss := false, aging := s.time.ref.aging + 1 }) hrun,
      aged_eq_false hage, if_neg Bool.false_ne_true]
  refine ⟨fun hst hrun hage => ⟨fun a ha => ?_, fun ha => ?_⟩, fun edge hst hrun hedge hf hlater => ?_, fun hst => ?_⟩
  · obtain ⟨hloop, b, c, href⟩ := lineWork_free_moves (time := time) (gateOf_eq_none (.inl hst))
      (tr := ⟨.probe, .candidate, none⟩) (fun c => by
        rw [young c _ hst hrun hage]
        simp [ha])
    refine completes_lineBoundary h hfree ?_
    rw [hloop, href, countLine_hold hst]
    exact ⟨rfl, ha, rfl, rfl, by simp [Ref.enter, agingAfter, hst], rfl⟩
  · obtain ⟨hloop, b, c, href⟩ := lineWork_free_stays (time := time) (gateOf_eq_none (.inl hst)) (fun c => by
        rw [young c _ hst hrun hage]
        simp [ha])
    refine completes_lineBoundary h hfree ?_
    rw [hloop, href, countLine_hold hst]
    exact ⟨hst, rfl, rfl, rfl⟩
  · obtain ⟨hloop, b, c, href⟩ := lineWork_free_moves (time := time) (gateOf_eq_none (.inl hst))
      (tr := ⟨.acquire, .newSource, some (anchorAfter time edge s.time.loop.F)⟩) (fun c => by
        rw [transition_of_hold (st_countLine.trans hst), countLine_hold hst]
        exact leaveHold_of_run hrun hedge)
    obtain ⟨hk, hlt, hle⟩ := anchorAfter_of_freqOk hf hlater
    refine completes_lineBoundary h hfree ?_
    rw [hloop, href]
    exact ⟨rfl, rfl, rfl, by simp [Ref.enter, agingAfter], rfl, rfl, hk, hlt, hle⟩
  · have gate := gateOf_eq_none (tape := s.straps.tape) (.inr (.inl hst))
    have back {why : RefCause} (htr : ∀ c, (s.time.ref.countLine c).transition s.sys s.straps.tape time s.time.ft.fs
        s.time.ref.pendingLoss { s.time.loop with C := 0, P := moveFine s.time.loop.P s.time.loop.F } =
          some ⟨.hold, why, none⟩) : Completes (.lineBoundary time) s (fun t => t.time.ref.st = .hold ∧
            t.time.ref.anchor = none ∧ t.time.ref.probeLines = 0 ∧ t.time.ref.probeTally = 0 ∧ t.time.ref.newRun = 0 ∧
            t.time.ref.aging = s.time.ref.aging + 1 ∧ t.time.loop = s.time.loop.flown.clearRuns) := by
      obtain ⟨hloop, b, c, href⟩ := lineWork_free_moves gate htr
      refine completes_lineBoundary h hfree ?_
      rw [hloop, href, countLine_probe hst]
      exact ⟨rfl, rfl, rfl, rfl, rfl, by simp [Ref.enter, agingAfter, hst], rfl⟩
    have leave (c : Closing) (l : Loop) : (s.time.ref.countLine c).transition s.sys s.straps.tape time s.time.ft.fs
        s.time.ref.pendingLoss l = Ref.leaveProbe s.sys s.time.ref.pendingLoss l.F { s.time.ref with
          pendingLoss := false, aging := s.time.ref.aging + 1, probeLines := satInc 8 s.time.ref.probeLines
          probeTally := s.time.ref.tallyAfter, probeFirst := none } := by
      rw [transition_of_probe (st_countLine.trans hst), countLine_probe hst]
    refine ⟨fun hloss hage => back (why := .activityLost) fun c => ?_, fun hloss hage hlines => ?_, fun hloss hage hlines htally =>
      back (why := .probeFailed) fun c => ?_,
      fun a hloss hlines htally ha => ?_⟩
    · rw [leave, hloss]
      exact leaveProbe_of_loss hage
    · obtain ⟨hloop, b, c, href⟩ := lineWork_free_stays (time := time) gate (fun c => by
        have short : satInc 8 s.time.ref.probeLines < 8 := by unfold satInc; omega
        rw [leave, hloss, leaveProbe_of_not_confirmed (.inl short), aged_eq_false hage, if_neg Bool.false_ne_true,
          if_neg (Nat.not_le.mpr short)])
      refine completes_lineBoundary h hfree ?_
      rw [hloop, href, countLine_probe hst]
      exact ⟨hst, rfl, satInc_of_lt (by omega), rfl, rfl, rfl, rfl⟩
    · have full : 8 ≤ satInc 8 s.time.ref.probeLines := by unfold satInc; omega
      rw [leave, hloss, leaveProbe_of_not_confirmed (.inr (.inl htally)), aged_eq_false hage, if_neg Bool.false_ne_true,
        if_pos full]
    · have full : 8 ≤ satInc 8 s.time.ref.probeLines := by unfold satInc; omega
      obtain ⟨hloop, b, c, href⟩ := lineWork_free_moves (time := time) gate
        (tr := ⟨.locked, .probeConfirmed, some (moveFine (fineOf a) (9 * s.time.loop.F))⟩) (fun c => by
          rw [leave, hloss]
          exact leaveProbe_confirmed full htally ha)
      refine completes_lineBoundary h hfree ?_
      rw [hloop, href]
      exact ⟨rfl, rfl, by simp [Ref.enter, agingAfter], rfl⟩

/-- Settles O16: a move is one of `Transition.Legal`, and each state's line boundary is worked out. -/
theorem referenceStatesMoveAsTheChapterSays : Obligations.ReferenceStatesMoveAsTheChapterSays := by
  unfold Obligations.ReferenceStatesMoveAsTheChapterSays
  refine ⟨fun c s t he hreset hrelease hne => ?_, fun time s t he hne hempty hcoast => ?_, acquire_lineBoundary,
    holdProbe_lineBoundary⟩
  · have line : ∃ time, c = .lineBoundary time ∨ c = .holdAgingRunsOut time ∨ c = .coastedBoundary time := by
      by_contra hno
      push Not at hno
      exact hne (exec_keeps_st hreset hrelease hno he)
    have works : ∃ time, t = s.lineBoundary time := by
      have released : s.resetHeld = false := by
        by_contra hheld
        obtain ⟨f, hf⟩ := exec_eq_running hreset hrelease s
        rw [hf, running_held (by simpa using hheld)] at he
        cases he
        exact hne rfl
      obtain ⟨time, rfl | rfl | rfl⟩ := line
      · rw [exec, execLineBoundary, next_running released] at he
        cases he
        exact ⟨time, rfl⟩
      · rw [exec, execHoldAgingRunsOut, next_running released] at he
        cases he
        split at hne
        next hages => exact ⟨time, if_pos hages⟩
        next => exact absurd rfl hne
      · rw [exec, execCoastedBoundary, next_running released] at he
        cases he
        split at hne
        next hcoasts => exact ⟨time, if_pos hcoasts⟩
        next => exact absurd rfl hne
    obtain ⟨time, rfl⟩ := works
    obtain ⟨tr, -, hwork, hdest, hlegal⟩ := st_lineBoundary_legal hne
    rw [hwork, hdest]
    exact ⟨line, hlegal.dests⟩
  · have released : s.resetHeld = false := by
      by_contra hheld
      rw [exec, execLineBoundary, running_held (by simpa using hheld)] at he
      cases he
      exact hne rfl
    rw [exec, execLineBoundary, next_running released] at he
    cases he
    obtain ⟨tr, htr, hwork, hdest, hlegal⟩ := st_lineBoundary_legal hne
    obtain ⟨more, hmore⟩ := reports_transition hempty hcoast htr
    rw [hwork, hdest]
    refine ⟨tr.cause, more, hmore, ?_⟩
    unfold Transition.Legal at hlegal
    split at hlegal
    all_goals simp_all

end Sys2Proof.Machine

namespace Sys2Proof.Machine

variable {s : State} {time : Ts} {sys : System} {tape : Bool} {x : Ft} {tk : Taking}

/-! ## Field boundaries (R73 to R81) -/

/-- The parity to adopt is one that the peers agree on. -/
theorem adoption_eq_some_iff (s : State) (p : Parity) : s.time.ft.adoption s.time.ref.st = some p ↔ s.agreesOn p := by
  unfold Ft.adoption Ft.tallyEntries State.agreesOn
  dsimp only
  generalize s.time.ft.tally.toList.filterMap id = entries
  match entries with
  | [] => simp
  | [_] => simp
  | y :: y2 :: rest =>
    dsimp only
    constructor
    · intro h
      split at h
      next hc =>
        obtain ⟨hst, hlabel, hall, hne⟩ := hc
        cases h
        refine ⟨hst, hlabel, by simp, fun q hq => ?_, hne⟩
        rcases List.mem_cons.mp hq with rfl | hq
        · rfl
        · exact eq_of_beq (List.all_eq_true.mp hall q hq)
      next => cases h
    · rintro ⟨hst, hlabel, -, hall, hne⟩
      have hy : y = p := hall y List.mem_cons_self
      have agree : (y2 :: rest).all (· == y) = true :=
        List.all_eq_true.mpr fun q hq => by rw [hy, hall q (List.mem_cons_of_mem _ hq)]; exact beq_self_eq_true p
      rw [if_pos ⟨hst, hlabel, agree, hy ▸ hne⟩, hy]

theorem oppParity_ne (p : Parity) : oppParity p ≠ p := by cases p <;> decide

theorem adopts_iff (s : State) (tk : Taking) :
    s.time.ft.adopts s.time.ref.st tk = true ↔ tk.parity = none ∧ ∃ p, s.agreesOn p := by
  simp [Ft.adopts, Option.isSome_iff_exists, adoption_eq_some_iff]

/-- The boundaries that the tracker takes on a candidate leave it in F_LOCKED, or in F_SEARCH where it was. -/
def Taking.Sound (x : Ft) (tk : Taking) : Prop :=
  tk.byCandidate = true → tk.fs = .locked ∨ (tk.fs = .search ∧ x.fs = .search)

theorem isIrregular_iff : x.isIrregular sys tk = true ↔ tk.byCandidate = true ∧ tk.count ≠ nominalCount sys x.parity := by
  simp [Ft.isIrregular]

theorem fieldCause_eq_some_iff (h : tk.Sound x) (cause : FieldCause) :
    x.fieldCause sys tk = some cause ↔ tk.tells sys x cause := by
  unfold Ft.fieldCause
  cases hslip : tk.fieldSlip with
  | true => cases cause <;> simp [Taking.tells, hslip]
  | false =>
    have irregular : (x.isIrregular sys tk && !x.irregular) = true ↔
        tk.byCandidate = true ∧ tk.count ≠ nominalCount sys x.parity ∧ x.irregular = false := by
      simp [isIrregular_iff, and_assoc]
    unfold Taking.Sound at h
    rw [if_neg Bool.false_ne_true]
    split
    · cases cause <;> simp_all [Taking.tells]
    · cases cause <;> simp_all [Taking.tells]
    · cases cause <;> simp_all [Taking.tells]
    · cases cause <;> simp_all [Taking.tells]
    next h1 h2 h3 h4 =>
      have same : tk.byCandidate = true → x.fs = tk.fs := by
        intro hb
        cases hx : x.fs <;> cases hy : tk.fs <;> simp_all
      split
      next hirr =>
        obtain ⟨hb, hcount, hflag⟩ := irregular.mp hirr
        cases cause <;> simp_all [Taking.tells]
      next hirr =>
        cases cause <;> simp_all [Taking.tells]

theorem fcAfter_eq (x : Ft) : x.fcAfter = x.fc + 1 + BitVec.ofNat 16 ((x.cand.map CountCand.k).getD 0) := by
  unfold Ft.fcAfter
  cases x.cand <;> simp

theorem strayAfter_candidate (w : Option Stray) : strayAfter true w = none := by
  cases w <;> rfl

theorem strayAfter_coasted (w : Option Stray) :
    strayAfter false w = w.bind (fun w => if w.fieldBefore then none else some ⟨w.count, true⟩) := by
  cases w <;> rfl

theorem mem_reports {st : RefSt} {y : Ft} (r : Report) : r ∈ x.reports sys st tk y ↔
    (∃ cause, x.fieldCause sys tk = some cause ∧
      r = .fieldState y.fs cause y.fc tk.count y.parity y.unclassified) ∨
    (∃ k, x.cand = some k ∧ r = .countAdopted x.fc y.fc k.k k.station) ∨
    (x.adopts st tk = true ∧ r = .parityAdopted y.parity x.tallyEntries.length y.fc) := by
  unfold Ft.reports
  cases x.fieldCause sys tk <;> cases x.cand <;> cases x.adopts st tk <;> simp

theorem nodup_reports (st : RefSt) (y : Ft) : (x.reports sys st tk y).Nodup := by
  unfold Ft.reports
  cases x.fieldCause sys tk <;> cases x.cand <;> cases x.adopts st tk <;> simp

/-- What a boundary does (R67, R69, R73 to R81). -/
theorem effect_takeField (h : tk.Sound s.time.ft) : tk.effect s (s.takeField tk) := by
  have adopted := adopts_iff s tk
  unfold Taking.effect
  dsimp only
  refine ⟨⟨rfl, rfl, rfl, rfl⟩, ⟨fcAfter_eq _, rfl, rfl⟩, fun p hp => ⟨?_, ?_, ?_⟩, fun hp => ⟨?_, ?_, fun p hagree => ?_,
    fun hno => ?_⟩, ?_, fun hb => ⟨?_, ?_⟩, fun hb => ⟨?_, ?_⟩, ?_, ?_⟩
  · change s.time.ft.parityAfter s.time.ref.st tk = p
    rw [Ft.parityAfter, hp]
  · change (if tk.parity.isSome then LabelSource.classified else .alternation) = .classified
    rw [hp]
    rfl
  · change (if tk.byCandidate && tk.parity.isNone then satInc 255 s.time.ft.unclassified else s.time.ft.unclassified) = _
    rw [hp, Option.isNone_some, Bool.and_false]
    rfl
  · change (if tk.parity.isSome then LabelSource.classified else .alternation) = .alternation
    rw [hp]
    rfl
  · change (if tk.byCandidate && tk.parity.isNone then satInc 255 s.time.ft.unclassified else s.time.ft.unclassified) = _
    rw [hp, Option.isNone_none, Bool.and_true]
    rfl
  · change s.time.ft.parityAfter s.time.ref.st tk ≠ p
    rw [Ft.parityAfter, hp]
    dsimp only
    rw [(adoption_eq_some_iff s p).mpr hagree]
    exact oppParity_ne p
  · change s.time.ft.parityAfter s.time.ref.st tk ≠ _
    have none : s.time.ft.adoption s.time.ref.st = none :=
      Option.eq_none_iff_forall_ne_some.mpr fun p hp => hno p ((adoption_eq_some_iff s p).mp hp)
    rw [Ft.parityAfter, hp]
    dsimp only
    rw [none]
    exact oppParity_ne _
  · rfl
  · change strayAfter tk.byCandidate _ = none
    rw [hb]
    exact strayAfter_candidate _
  · change s.time.ft.irregularAfter s.sys tk = true ↔ _
    have searches : ¬ (tk.fs = .search ∧ s.time.ft.fs ≠ .search) := by
      rcases h hb with hl | ⟨-, hs⟩
      · rw [hl]; exact fun hc => nomatch hc.1
      · exact fun hc => hc.2 hs
    rw [Ft.irregularAfter, if_neg searches, isIrregular_iff]
    exact and_iff_right hb
  · change s.time.ft.irregularAfter s.sys tk = false
    have regular : s.time.ft.isIrregular s.sys tk = false := by simp [Ft.isIrregular, hb]
    rw [Ft.irregularAfter, regular]
    split <;> rfl
  · change strayAfter tk.byCandidate _ = _
    rw [hb]
    exact strayAfter_coasted _
  · refine ⟨s.time.ft.slipMark s.time.ref.st tk, ?_, rfl⟩
    rw [Ft.slipMark, Bool.or_eq_true, beq_iff_eq, adopted]
  · refine ⟨s.time.ft.reports s.sys s.time.ref.st tk (s.takeField tk).time.ft, nodup_reports .., fun r => ?_, rfl⟩
    rw [mem_reports, adopted]
    simp only [fieldCause_eq_some_iff h]
    rfl

/-! ## The two events at a line boundary (R58, R74) -/

theorem exec_holdAgingRunsOut (h : s.resetHeld = false) (time : Ts) :
    exec (.holdAgingRunsOut time) s = .next (if s.agesOut then s.lineBoundary time else s) := next_running h _

theorem exec_coastedBoundary (h : s.resetHeld = false) (time : Ts) : exec (.coastedBoundary time) s =
    .next (if s.time.ft.coastsNow s.sys s.straps.tape then s.lineBoundary time else s) := next_running h _

theorem aged_eq_true {x : Ref} (h : agingLimit sys ≤ x.aging) : x.aged sys = true := by
  simp [Ref.aged, h]

/-- At the limit a HOLD or PROBE line with nothing better to do leads to SEARCH. -/
theorem transition_aged {l : Loop} {c : Closing} {t : Timebase} (hage : t.ref.aging + 1 = agingLimit sys)
    (h : (t.ref.st = .hold ∧ t.ref.newRun < 16) ∨ (t.ref.st = .probe ∧
      (t.ref.pendingLoss = true ∨ t.ref.probeLines + 1 < 8 ∨ t.ref.tallyAfter < 6 ∨ t.ref.anchor = none))) :
    (t.ref.countLine c).transition sys tape time t.ft.fs t.ref.pendingLoss l = some ⟨.search, .aged, none⟩ := by
  rcases h with ⟨hst, hrun⟩ | ⟨hst, hwhy⟩
  · rw [transition_of_hold (st_countLine.trans hst), countLine_hold hst,
      leaveHold_of_no_run (x := { t.ref with pendingLoss := false, aging := t.ref.aging + 1 }) hrun,
      aged_eq_true hage.ge, if_pos rfl]
  · rw [transition_of_probe (st_countLine.trans hst), countLine_probe hst]
    cases hloss : t.ref.pendingLoss with
    | true =>
      unfold Ref.leaveProbe
      rw [if_pos rfl, aged_eq_true hage.ge, if_pos rfl]
    | false =>
      have notConfirmed : satInc 8 t.ref.probeLines < 8 ∨ t.ref.tallyAfter < 6 ∨ t.ref.anchor = none := by
        rcases hwhy with hl | hlines | htally
        · rw [hloss] at hl
          cases hl
        · exact .inl (by unfold satInc; omega)
        · exact .inr htally
      rw [leaveProbe_of_not_confirmed (x := { t.ref with
        pendingLoss := false, aging := t.ref.aging + 1, probeLines := satInc 8 t.ref.probeLines
        probeTally := t.ref.tallyAfter, probeFirst := none }) notConfirmed, aged_eq_true hage.ge, if_pos rfl]

theorem stepLine_eq (x : Ft) : x.stepLine sys = { x with
    counter := x.counter + 1
    vwin := if x.fs = .search ∨ x.counter + 1 = nominalCount sys x.parity - 10 then true
      else if x.counter + 1 = 10 then false else x.vwin } := by
  unfold Ft.stepLine vwinAtLine
  by_cases h1 : x.fs = .search <;> by_cases h2 : x.counter + 1 = nominalCount sys x.parity - 10 <;> simp [h1, h2]

/-- A coasted boundary as the tracker's state gives it (R74). -/
theorem coastTaking_eq {fs : FieldSt} {coasts : Nat} (hfs : (x.coastTaking sys).fs = fs)
    (hcoasts : (x.coastTaking sys).coasts = coasts) :
    x.coastTaking sys = ⟨.coasted, fs, coasts, nominalCount sys x.parity, none, false, false⟩ := by
  rw [← hfs, ← hcoasts]
  rfl

theorem coastsNow_iff : x.coastsNow sys tape = true ↔ nominalCount sys x.parity + tolerance tape + 2 ≤ x.counter := by
  simp [Ft.coastsNow]

/-- The closed line handed over, and the next line open in the tracker: the state in which a coasted boundary is taken. -/
theorem ft_openLine_handOver (time : Ts) (s : State) :
    ((s.closeLine time).1.handOver (s.closeLine time).2.step).1.openLine.time.ft = s.time.ft.stepLine s.sys ∧
    ((s.closeLine time).1.handOver (s.closeLine time).2.step).1.openLine.straps = s.straps := by
  obtain ⟨b, x, d, heq⟩ := handOver_closeLine_eq time (s.closeLine time).2.step s
  unfold State.openLine
  dsimp only
  rw [heq]
  exact ⟨rfl, rfl⟩

/-- A line boundary that brings a coasted field takes it between the hand-over and the next line's list (log 54). -/
theorem lineWork_of_coasting (hcoast : s.time.ft.coastsNow s.sys s.straps.tape = true) (time : Ts) :
    s.lineWork time = ((((s.closeLine time).1.handOver (s.closeLine time).2.step).1.openLine).takeField
      (s.time.ft.coastTaking s.sys)).buildList ((s.closeLine time).1.handOver (s.closeLine time).2.step).2 := by
  have straps := (ft_openLine_handOver time s).2
  unfold State.lineWork State.coast
  dsimp only
  rw [State.sys, straps, if_pos]
  · rfl
  · exact hcoast

/-- Settles O17. -/
theorem agedAndCoastedBoundariesAct : Obligations.AgedAndCoastedBoundariesAct := by
  unfold Obligations.AgedAndCoastedBoundariesAct
  refine ⟨fun time s => ?_, fun time s => ?_⟩
  · dsimp only
    refine fun h => ⟨fun hfree hage hwhy => ?_, fun hage => ?_⟩
    · have gate : gateOf s.straps.tape s.time.ref.st = none :=
        gateOf_eq_none (hwhy.imp (·.1) fun hp => .inl hp.1)
      obtain ⟨hloop, b, c, href⟩ := lineWork_free_moves (time := time) gate fun c => transition_aged hage hwhy
      have ages : s.agesOut = true := by
        have limit : agingLimit s.sys ≤ s.time.ref.aging + 1 := hage.ge
        rcases hwhy with ⟨hst, -⟩ | ⟨hst, -⟩ <;> simp [State.agesOut, hst, limit]
      refine ⟨s.lineWork time, ?_, ?_⟩
      · rw [exec_holdAgingRunsOut h, if_pos ages, State.lineBoundary, if_pos hfree]
      · dsimp only
        rw [hloop, href]
        exact ⟨rfl, rfl, rfl, rfl, rfl, lineWork_sfe _ _⟩
    · have stays : ¬ s.agesOut = true := by
        have limit : s.time.ref.aging + 1 < agingLimit s.sys := hage
        simp [State.agesOut, limit]
      rw [exec_holdAgingRunsOut h, if_neg stays]
  · dsimp only
    intro h
    obtain ⟨hft, hstraps⟩ := ft_openLine_handOver time s
    rw [← stepLine_eq (sys := s.sys) s.time.ft]
    generalize hu : ((s.closeLine time).1.handOver (s.closeLine time).2.step).1.openLine = u at hft hstraps
    refine ⟨fun hfree hlast => ?_, fun hlast => ⟨?_, fun hfree => ?_⟩⟩
    · have coasts : s.time.ft.coastsNow s.sys s.straps.tape = true := coastsNow_iff.mpr hlast
      have takes {fs : FieldSt} {n : Nat} (hfs : (s.time.ft.coastTaking s.sys).fs = fs)
          (hn : (s.time.ft.coastTaking s.sys).coasts = n) : Completes (.coastedBoundary time) s (fun t =>
            u.time.ft = s.time.ft.stepLine s.sys ∧ ∃ w : State,
              t = w.buildList ((s.closeLine time).1.handOver (s.closeLine time).2.step).2 ∧
              w = { u with time := { u.time with ft := w.time.ft, tdu := w.time.tdu }, desk := w.desk } ∧
              w.time.ft.broadRun = s.time.ft.broadRun ∧ w.time.ft.lastBroad = s.time.ft.lastBroad ∧
              w.time.ft.firstBroad = s.time.ft.firstBroad ∧
              (⟨.coasted, fs, n, nominalCount s.sys s.time.ft.parity, none, false, false⟩ : Taking).effect u w) := by
        refine ⟨s.lineWork time, ?_, hft, u.takeField (s.time.ft.coastTaking s.sys), ?_, rfl, ?_, ?_, ?_, ?_⟩
        · rw [exec_coastedBoundary h, if_pos coasts, State.lineBoundary, if_pos hfree]
        · rw [lineWork_of_coasting coasts, hu]
        · exact (congrArg Ft.broadRun hft :)
        · exact (congrArg Ft.lastBroad hft :)
        · exact (congrArg Ft.firstBroad hft :)
        · rw [← coastTaking_eq hfs hn]
          exact effect_takeField fun hb => nomatch hb
      refine ⟨fun hs => takes ?_ ?_, fun hl => takes ?_ ?_, fun hc hn => takes ?_ ?_, fun hc hn => takes ?_ ?_⟩ <;>
        simp_all [Ft.coastTaking]
    · have not : ¬ s.time.ft.coastsNow s.sys s.straps.tape = true := by rw [coastsNow_iff]; exact Nat.not_le.mpr hlast
      rw [exec_coastedBoundary h, if_neg not]
    · have not : s.time.ft.coastsNow s.sys s.straps.tape = false := by
        rw [← Bool.not_eq_true, coastsNow_iff]
        exact Nat.not_le.mpr hlast
      exact completes_lineBoundary h hfree (lineWork_ft not time)

end Sys2Proof.Machine

namespace Sys2Proof.Machine

variable {s : State} {sys : System} {tape : Bool} {r : PulseRecord} {p : Pulse}

/-! ## Pulse records (R14 to R16, R70) -/

/-- The broad run is ended. -/
def Ft.noRun (x : Ft) : Ft := { x with broadRun := 0, lastBroad := none, firstBroad := none }

/-- A record at the loop changes the records of the line and what the machine knows, not its state. -/
theorem routeLoop_eq (sys : System) (tape : Bool) (r : PulseRecord) (t : Timebase) : ∃ rs m,
    t.routeLoop sys tape r = { t with loop := { t.loop with records := rs }, ref := m } ∧ m.st = t.ref.st := by
  unfold Timebase.routeLoop
  split
  · exact ⟨_, _, rfl, st_forward ..⟩
  · exact ⟨t.loop.records, t.ref, rfl, rfl⟩

/-- A record on which the tracker takes no boundary. -/
theorem takeRecord_none {y : Ft}
    (h : s.time.ft.takeRecord s.sys s.straps.tape s.time.loop.F s.time.loop.n r = (y, none)) :
    s.takeRecord r = s.onTime fun t => { t.routeLoop s.sys s.straps.tape r with ft := y } := by
  obtain ⟨rs, m, hroute, -⟩ := routeLoop_eq s.sys s.straps.tape r s.time
  unfold State.takeRecord
  dsimp only [State.onTime]
  rw [hroute]
  dsimp only [State.sys] at h ⊢
  rw [h]

/-- A record on which the tracker takes a boundary. -/
theorem takeRecord_some {y : Ft} {tk : Taking}
    (h : s.time.ft.takeRecord s.sys s.straps.tape s.time.loop.F s.time.loop.n r = (y, some tk)) :
    s.takeRecord r = (s.onTime fun t => { t.routeLoop s.sys s.straps.tape r with ft := y }).takeField tk := by
  obtain ⟨rs, m, hroute, -⟩ := routeLoop_eq s.sys s.straps.tape r s.time
  unfold State.takeRecord
  dsimp only [State.onTime]
  rw [hroute]
  dsimp only [State.sys] at h ⊢
  rw [h]

theorem takeRecord_of_not_broad (h : r.cls ≠ .broad) : s.takeRecord r =
    s.onTime fun t => { t.routeLoop s.sys s.straps.tape r with ft := s.time.ft.noRun } := by
  refine takeRecord_none ?_
  unfold Ft.takeRecord Ft.followBroad
  rw [if_neg h]
  rfl

theorem routeLoop_offered {lr : LoopRecord} (h : r.forLoop = some lr) (t : Timebase) :
    t.routeLoop sys tape r = t.offerLoop sys tape lr := by
  rw [Timebase.routeLoop, h]

theorem routeLoop_kept_out (h : r.forLoop = none) (t : Timebase) : t.routeLoop sys tape r = t := by
  rw [Timebase.routeLoop, h]

theorem forLoop_line (p : Pulse) (width : Nat) :
    (p.record .line width).forLoop = some ⟨p.edge, .line, p.grade, tsDiff p.edge p.snap.pred⟩ := rfl

theorem downgrade_eq (g : Grade) : g.downgrade = if g = .good then .fair else g := by cases g <;> rfl

/-- A NARROW or BROAD record is offered only in the vertical window, at full-line position, in ACQUIRE or LOCKED (R16). -/
theorem forLoop_of_other {cls : PulseClass} (hcls : cls ≠ .line) {width g : Nat} (hv : p.snap.vwin = true)
    (hst : p.snap.st = .acquire ∨ p.snap.st = .locked) (hg : p.snap.gate = some g)
    (he : (tsDiff p.edge p.snap.pred).natAbs ≤ g) : (p.record cls width).forLoop =
      some ⟨p.edge, cls, if p.grade = .good then .fair else p.grade, tsDiff p.edge p.snap.pred⟩ := by
  have full : (p.record cls width).atFullLine = true := by
    unfold PulseRecord.atFullLine Pulse.record
    dsimp only
    rw [hg]
    exact decide_eq_true he
  unfold PulseRecord.forLoop
  rw [if_neg (show (p.record cls width).cls ≠ .line from hcls), if_pos ⟨hst, hv, full⟩, downgrade_eq]
  rfl

theorem forLoop_kept_out {cls : PulseClass} (hcls : cls ≠ .line) {width : Nat} (h : p.snap.vwin = false ∨
    (p.snap.st ≠ .acquire ∧ p.snap.st ≠ .locked) ∨
    (∀ g, p.snap.gate = some g → g < (tsDiff p.edge p.snap.pred).natAbs)) : (p.record cls width).forLoop = none := by
  unfold PulseRecord.forLoop
  rw [if_neg (show (p.record cls width).cls ≠ .line from hcls), if_neg]
  rintro ⟨hst, hv, hfull⟩
  rcases h with h | ⟨ha, hl⟩ | h
  · exact Bool.false_ne_true (h.symm.trans hv)
  · exact hst.elim ha hl
  · unfold PulseRecord.atFullLine Pulse.record at hfull
    dsimp only at hfull
    split at hfull
    next g hg => exact absurd (of_decide_eq_true hfull) (Nat.not_le.mpr (h g hg))
    next => cases hfull

/-- A record offered to the loop in ACQUIRE or LOCKED is only kept. -/
theorem forward_gated {m : Ref} (h : m.st = .acquire ∨ m.st = .locked) (F : Int) (lr : LoopRecord) :
    m.forward sys tape F lr = m := by
  unfold Ref.forward
  rcases h with h | h <;> rw [h]

/-! ## The end of a pulse (R9 to R13, R26, R49, R54 to R56) -/

theorem rises_iff (x : Sfe) (before now : Code) : x.rises before now = true ↔
    (x.mode = .levelTracking ∧ x.tip + 12 ≤ x.blank) ∧ before.toNat ≤ (x.tip + x.blank) / 2 ∧
      (x.tip + x.blank) / 2 < now.toNat := by
  rw [Sfe.rises, Bool.and_eq_true, Bool.and_eq_true, slicerOn_iff, decide_eq_true_iff, decide_eq_true_iff, and_assoc]
  rfl

theorem slicer_off {x : Sfe} (h : x.mode = .levelSearch ∨ x.blank < x.tip + 12) : ¬ x.slicerOn = true := by
  rw [slicerOn_iff]
  rintro ⟨hm, hamp⟩
  rcases h with h | h
  · rw [h] at hm
    cases hm
  · omega

theorem exec_risingCrossing (h : s.resetHeld = false) (hp : s.time.sfe.pulse = some p) (time : Ts) (before now : Code)
    (sum : Nat) : exec (.risingCrossing time before now sum) s = .next (
      if s.time.sfe.rises before now then
        match (s.time.sfe.endPulse time sum p).2 with
        | some x => (s.onTime fun t => { t with sfe := (s.time.sfe.endPulse time sum p).1 }).takeRecord x
        | none => s.onTime fun t => { t with sfe := (s.time.sfe.endPulse time sum p).1 }
      else s) := by
  rw [show exec (.risingCrossing time before now sum) s = .next (s.running (State.rising time before now sum)) from rfl,
    next_running h, State.rising, hp] <;> rfl

theorem classOf_glitch {w : Nat} (h : w < 24) : classOf w = none := if_pos h

theorem classOf_narrow {w : Nat} (h : 24 ≤ w) (h' : w < 112) : classOf w = some .narrow := by
  rw [classOf, if_neg (by omega), if_pos h']

theorem classOf_line {w : Nat} (h : 112 ≤ w) (h' : w ≤ 400) : classOf w = some .line := by
  rw [classOf, if_neg (by omega), if_neg (by omega), if_pos h']

theorem endPulse_glitch {x : Sfe} {time : Ts} (h : classOf (samplesBetween time p.start) = none) (sum : Nat) :
    x.endPulse time sum p = ({ x with pulse := none }, none) := by
  unfold Sfe.endPulse
  dsimp only
  rw [h]

theorem endPulse_narrow {x : Sfe} {time : Ts} (h : classOf (samplesBetween time p.start) = some .narrow) (sum : Nat) :
    x.endPulse time sum p = ({ x with pulse := none }, some (p.record .narrow (samplesBetween time p.start))) := by
  unfold Sfe.endPulse
  dsimp only
  rw [h]

theorem endPulse_line {x : Sfe} {time : Ts} (h : classOf (samplesBetween time p.start) = some .line) (sum : Nat) :
    x.endPulse time sum p = (({ x with pulse := none } : Sfe).lineLevels time sum,
      some (p.record .line (samplesBetween time p.start))) := by
  unfold Sfe.endPulse
  dsimp only
  rw [h]

theorem forward_search {m : Ref} (h : m.st = .search) (tape : Bool) (F : Int) (r : LoopRecord) :
    m.forward sys tape F r = m.searchRecord sys r := by
  rw [Ref.forward, h]

theorem forward_hold {m : Ref} (h : m.st = .hold) (tape : Bool) (F : Int) (r : LoopRecord) :
    m.forward sys tape F r = m.holdRecord sys r := by
  rw [Ref.forward, h]

theorem forward_probe {m : Ref} (h : m.st = .probe) (tape : Bool) (F : Int) (r : LoopRecord) :
    m.forward sys tape F r = m.probeRecord tape F r := by
  rw [Ref.forward, h]

theorem runAfter_eq (sys : System) (edge : Ts) (last : Option Ts) (n : Nat) [Decidable (n ≠ 0 ∧ ∃ l, last = some l ∧
    (tsDiff edge l * 256 - fNom sys).natAbs ≤ (fTol sys).natAbs)] : runAfter sys edge last n =
      if n ≠ 0 ∧ ∃ l, last = some l ∧ (tsDiff edge l * 256 - fNom sys).natAbs ≤ (fTol sys).natAbs then n + 1 else 1 := by
  unfold runAfter consistentSpacing
  cases last with
  | none => simp
  | some l => simp

theorem holdRecord_eq (m : Ref) (r : LoopRecord) : m.holdRecord sys r =
    if m.anchor ≠ none ∨ 16 ≤ m.newRun then m
    else if 256 < r.e.natAbs then { m with newRun := runAfter sys r.edge m.newEdge m.newRun, newEdge := some r.edge }
    else if r.grade = .poor then { m with newRun := 0, newEdge := none }
    else { m with newRun := 0, newEdge := none, anchor := some r.edge, probeLines := 0, probeTally := 0 } := by
  have decided : m.holdDecided = true ↔ m.anchor ≠ none ∨ 16 ≤ m.newRun := by
    simp [Ref.holdDecided, Option.isSome_iff_ne_none]
  unfold Ref.holdRecord
  simp only [decided]
  by_cases hnear : r.e.natAbs ≤ 256
  · simp only [if_pos hnear, if_neg (Nat.not_lt.mpr hnear)]
  · simp only [if_neg hnear, if_pos (Nat.lt_of_not_le hnear)]

theorem probeRecord_eq (tape : Bool) (F : Int) (r : LoopRecord) (m : Ref)
    [Decidable (m.probeFirst = none ∧ ∃ a, m.anchor = some a ∧
      (fineDiff (fineOf r.edge) (fineOf a + BitVec.ofInt 28 ((m.probeLines + 1 : Nat) * F))).natAbs ≤
        lockedGate tape * 256)] : m.probeRecord tape F r =
    if m.probeFirst = none ∧ ∃ a, m.anchor = some a ∧
      (fineDiff (fineOf r.edge) (fineOf a + BitVec.ofInt 28 ((m.probeLines + 1 : Nat) * F))).natAbs ≤
        lockedGate tape * 256 then { m with probeFirst := some r.grade } else m := by
  have window : m.inProbeWindow tape F r.edge = true ↔ ∃ a, m.anchor = some a ∧
      (fineDiff (fineOf r.edge) (fineOf a + BitVec.ofInt 28 ((m.probeLines + 1 : Nat) * F))).natAbs ≤
        lockedGate tape * 256 := by
    unfold Ref.inProbeWindow moveFine
    cases m.anchor <;> simp
  unfold Ref.probeRecord
  simp only [Option.isNone_iff_eq_none, window]

/-- Settles O9: by the class of the pulse, and for a LINE pulse by the state that its record is forwarded in. -/
theorem risingCrossingEndsThePulse : Obligations.RisingCrossingEndsThePulse := by
  unfold Obligations.RisingCrossingEndsThePulse
  intro time before now tipSum p s
  dsimp only
  intro h hp
  have rising := exec_risingCrossing h hp time before now tipSum
  refine ⟨fun hoff => ?_, fun hm hamp hbefore hnow => ?_⟩
  · rw [rising, if_neg]
    exact fun hr => slicer_off hoff ((slicerOn_iff _).mpr ((rises_iff ..).mp hr).1)
  rw [if_pos ((rises_iff ..).mpr ⟨⟨hm, hamp⟩, hbefore, hnow⟩)] at rising
  refine ⟨fun hw => ?_, fun hw hw' => ?_, fun hw hw' hout => ?_, fun g hw hw' hv hsnap hst hg he => ?_⟩
  · rw [endPulse_glitch (classOf_glitch hw)] at rising
    rw [rising]
    rfl
  · rw [endPulse_line (classOf_line hw hw')] at rising
    rw [rising]
    dsimp only
    rw [takeRecord_of_not_broad (show PulseClass.line ≠ .broad by decide)]
    dsimp only [State.onTime]
    rw [routeLoop_offered (forLoop_line _ _)]
    unfold Timebase.offerLoop State.withTime
    dsimp only
    congr 3
    change s.time.ref.forward s.sys s.straps.tape s.time.loop.F _ = _
    split
    next hst => rw [forward_search hst, Ref.searchRecord, runAfter_eq]
    next hst => rw [forward_hold hst, holdRecord_eq, runAfter_eq]
    next hst =>
      rw [forward_probe hst, probeRecord_eq]
      rfl
    next hst => rw [forward_gated (.inl hst)]
    next hst => rw [forward_gated (.inr hst)]
  · rw [endPulse_narrow (classOf_narrow hw hw')] at rising
    rw [rising]
    dsimp only
    rw [takeRecord_of_not_broad (show PulseClass.narrow ≠ .broad by decide)]
    dsimp only [State.onTime]
    rw [routeLoop_kept_out (forLoop_kept_out (by decide) hout)]
    rfl
  · rw [endPulse_narrow (classOf_narrow hw hw')] at rising
    rw [rising]
    dsimp only
    rw [takeRecord_of_not_broad (show PulseClass.narrow ≠ .broad by decide)]
    dsimp only [State.onTime]
    rw [routeLoop_offered (forLoop_of_other (by decide) hv hsnap hg he)]
    unfold Timebase.offerLoop
    dsimp only
    rw [forward_gated hst]
    rfl

/-! ## Broad pulses (R10, R16, R70 to R75) -/

/-- The state once the pulse in progress has ended, with no work on the levels. -/
def State.pulseEnded (s : State) : State := s.onTime (fun t => { t with sfe := { t.sfe with pulse := none } })

theorem exec_broadClassified (h : s.resetHeld = false) (hp : s.time.sfe.pulse = some p)
    (hm : s.time.sfe.mode = .levelTracking) (hamp : s.time.sfe.tip + 12 ≤ s.time.sfe.blank) :
    exec (.broadClassified (p.start + 6400)) s = .next (s.pulseEnded.takeRecord (p.record .broad 401)) := by
  rw [show exec (.broadClassified (p.start + 6400)) s = .next (s.running (State.broad (p.start + 6400))) from rfl,
    next_running h, State.broad, hp]
  dsimp only
  rw [if_pos ⟨rfl, (slicerOn_iff _).mpr ⟨hm, hamp⟩⟩]
  rfl

theorem exec_broadClassified_off (h : s.resetHeld = false)
    (hoff : s.time.sfe.mode = .levelSearch ∨ s.time.sfe.blank < s.time.sfe.tip + 12) (time : Ts) :
    exec (.broadClassified time) s = .next s := by
  rw [show exec (.broadClassified time) s = .next (s.running (State.broad time)) from rfl, next_running h, State.broad]
  split
  · rw [if_neg fun hc => slicer_off hoff hc.2]
  · rfl

section
variable {x : Ft} {F : Int} {n : Nat} {last : Ts}

/-- A broad record that lengthens a run of one or two (R70). -/
theorem followBroad_lengthens (hcls : r.cls = .broad) (hl : x.lastBroad = some last) (hrun : 0 < x.broadRun)
    (hrun' : x.broadRun < 3) (hhalf : (16 * (tsDiff r.edge last * 256) - 8 * F).natAbs ≤ F.natAbs) :
    x.followBroad F r = { x with broadRun := x.broadRun + 1, lastBroad := some r.edge } := by
  unfold Ft.followBroad halfLineSpacing
  rw [if_pos hcls, if_neg (by omega), hl]
  dsimp only
  rw [if_pos ⟨by omega, decide_eq_true hhalf⟩]

/-- A broad record that starts the run anew (R70). -/
theorem followBroad_starts (hcls : r.cls = .broad) (hrun : x.broadRun < 3) (h : x.broadRun = 0 ∨
    ∃ last, x.lastBroad = some last ∧ ¬ (16 * (tsDiff r.edge last * 256) - 8 * F).natAbs ≤ F.natAbs) :
    x.followBroad F r = x.startBroadRun r := by
  unfold Ft.followBroad halfLineSpacing
  rw [if_pos hcls, if_neg (by omega)]
  split
  · rfl
  next last hl =>
    rw [if_neg]
    rintro ⟨hne, hnear⟩
    rcases h with h | ⟨last', hl', hfar⟩
    · exact hne h
    · rw [hl] at hl'
      cases hl'
      exact hfar (of_decide_eq_true hnear)

/-- A run that has reached 3 changes no more (R70). -/
theorem followBroad_full (hcls : r.cls = .broad) (hrun : x.broadRun = 3) : x.followBroad F r = x := by
  rw [Ft.followBroad, if_pos hcls, if_pos hrun.ge]

/-- A broad record that does not complete a run. -/
theorem takeRecord_quiet {sys : System} {tape : Bool} {y : Ft} (hy : x.followBroad F r = y)
    (h : y.broadRun ≠ 3 ∨ x.broadRun = 3) : x.takeRecord sys tape F n r = (y, none) := by
  unfold Ft.takeRecord
  dsimp only
  rw [hy]
  split
  · rw [if_neg]
    rintro ⟨-, h3, hne⟩
    exact h.elim (fun hn => hn h3) hne
  · rfl

/-- The third broad pulse of a run is judged (R71, R72). -/
theorem takeRecord_third {sys : System} {tape : Bool} {y : Ft} {b : BroadStart} (hcls : r.cls = .broad)
    (hy : x.followBroad F r = y) (hb : y.firstBroad = some b) (h3 : y.broadRun = 3) (hx : x.broadRun ≠ 3) :
    x.takeRecord sys tape F n r = y.judge sys tape (y.candidate F n b) := by
  unfold Ft.takeRecord
  dsimp only
  rw [hy, hb]
  exact if_pos ⟨hcls, h3, hx⟩

end

/-- The broad run once its third record has come. -/
def Ft.third (p : Pulse) (x : Ft) : Ft := { x with broadRun := 3, lastBroad := some p.edge }

/-- The effect of a boundary is that of the state before the record, which differs in the broad run alone. -/
theorem effect_of_same {tk : Taking} {z t : State} (hft : z.time.ft = s.time.ft.third p)
    (hn : z.time.loop.n = s.time.loop.n) (hst : z.time.ref.st = s.time.ref.st) (htdu : z.time.tdu = s.time.tdu)
    (hdesk : z.desk = s.desk) (hstraps : z.straps = s.straps) (h : tk.effect z t) : tk.effect s t := by
  unfold Taking.effect State.agreesOn State.sys at h ⊢
  dsimp only at h ⊢
  rw [hft, hn, hst, htdu, hdesk, hstraps] at h
  exact h

/-- The classification of a boundary edge by the gate of its snapshot (R71). -/
theorem candidate_eq {F : Int} {n : Nat} {b : BroadStart} {x : Ft} {near : Int → Bool}
    (hnear : ∀ d, near d = match b.snap.parityGate with
      | some g => decide (d.natAbs ≤ g)
      | none => false) :
    x.candidate F n b = ⟨
      if near (tsDiff b.edge b.snap.pred) then some .first
        else if near (tsDiff b.edge (b.snap.pred - BitVec.ofInt 20 (F / 512))) then some .second else none,
      (x.counter : Int) - ((n : Int) - b.snap.line) -
        if near (tsDiff b.edge b.snap.pred) then 0
        else if near (tsDiff b.edge (b.snap.pred - BitVec.ofInt 20 (F / 512))) || decide (tsDiff b.edge b.snap.pred < 0)
          then 1 else 0⟩ := by
  unfold Ft.candidate classify
  simp only [hnear]
  cases b.snap.parityGate with
  | none =>
    by_cases hd : tsDiff b.edge b.snap.pred < 0 <;> simp [hd]
  | some g =>
    by_cases h1 : (tsDiff b.edge b.snap.pred).natAbs ≤ g
    · simp [h1]
    · by_cases h2 : (tsDiff b.edge (b.snap.pred - BitVec.ofInt 20 (F / 512))).natAbs ≤ g
      · simp [h1, h2]
      · by_cases hd : tsDiff b.edge b.snap.pred < 0 <;> simp [h1, h2, hd]

theorem sound_acceptTaking (sys : System) (tape : Bool) (c : Candidate) (x : Ft) : (x.acceptTaking sys tape c).Sound x := by
  intro _
  unfold Ft.acceptTaking
  dsimp only
  split
  next hc => exact .inr ⟨rfl, hc.1⟩
  next => exact .inl rfl

theorem confirmsStray_iff (c : Candidate) (x : Ft) : x.confirmsStray c = true ↔
    ∃ w, x.stray = some w ∧ w.fieldBefore = true ∧ (w.count - c.count).natAbs ≤ 1 := by
  unfold Ft.confirmsStray
  cases x.stray <;> simp

/-- The state once a record has gone to the loop and the tracker is `y`. -/
def State.routed (r : PulseRecord) (y : Ft) (s : State) : State :=
  s.onTime fun t => { t.routeLoop s.sys s.straps.tape r with ft := y }

theorem routed_pulseEnded_eq (r : PulseRecord) (y : Ft) (s : State) : ∃ rs m, s.pulseEnded.routed r y =
    { s with time := { s.time with
        sfe := { s.time.sfe with pulse := none }, loop := { s.time.loop with records := rs }, ref := m, ft := y } } ∧
      m.st = s.time.ref.st := by
  obtain ⟨rs, m, hroute, hst⟩ := routeLoop_eq s.sys s.straps.tape r s.pulseEnded.time
  refine ⟨rs, m, ?_, hst⟩
  unfold State.routed State.onTime
  change { s with time := { s.pulseEnded.time.routeLoop s.sys s.straps.tape r with ft := y } } = _
  rw [hroute]
  rfl

/-- A broad record that completes no run. -/
theorem completes_broad_quiet {y : Ft} (h : s.resetHeld = false) (hp : s.time.sfe.pulse = some p)
    (hm : s.time.sfe.mode = .levelTracking) (hamp : s.time.sfe.tip + 12 ≤ s.time.sfe.blank)
    (hy : s.time.ft.followBroad s.time.loop.F (p.record .broad 401) = y) (hquiet : y.broadRun ≠ 3 ∨ s.time.ft.broadRun = 3) :
    exec (.broadClassified (p.start + 6400)) s = .next (s.pulseEnded.routed (p.record .broad 401) y) := by
  rw [exec_broadClassified h hp hm hamp, takeRecord_none (s := s.pulseEnded) (takeRecord_quiet hy hquiet)]
  rfl

/-- The first broad pulse of a run, by whether the loop is offered it. -/
theorem broad_starts_run (p : Pulse) (s : State) (h : s.resetHeld = false) (hp : s.time.sfe.pulse = some p)
    (hm : s.time.sfe.mode = .levelTracking) (hamp : s.time.sfe.tip + 12 ≤ s.time.sfe.blank) (hrun : s.time.ft.broadRun = 0) :
    exec (.broadClassified (p.start + 6400)) s = .next (s.pulseEnded.routed (p.record .broad 401)
      (s.time.ft.startBroadRun (p.record .broad 401))) :=
  completes_broad_quiet h hp hm hamp (followBroad_starts rfl (by omega) (.inl hrun))
    (.inl (show (1 : Nat) ≠ 3 by decide))

/-- What the third broad record of a run leaves of the sample side. -/
def State.Third (p : Pulse) (b : BroadStart) (s : State) (q : State → Prop) (t : State) : Prop :=
  t.time.sfe = { s.time.sfe with pulse := none } ∧ t.time.loop.F = s.time.loop.F ∧ t.time.loop.P = s.time.loop.P ∧
  t.time.ref.st = s.time.ref.st ∧ t.time.ft.broadRun = 3 ∧ t.time.ft.lastBroad = some p.edge ∧
  t.time.ft.firstBroad = some b ∧ q t

section
variable {last : Ts} {b : BroadStart} (h : s.resetHeld = false) (hp : s.time.sfe.pulse = some p)
  (hm : s.time.sfe.mode = .levelTracking) (hamp : s.time.sfe.tip + 12 ≤ s.time.sfe.blank) (hrun : s.time.ft.broadRun = 2)
  (hl : s.time.ft.lastBroad = some last) (hb : s.time.ft.firstBroad = some b)
  (hhalf : (16 * (tsDiff p.edge last * 256) - 8 * s.time.loop.F).natAbs ≤ s.time.loop.F.natAbs)
include hrun hl hb hhalf

theorem takeRecord_third_judged : s.time.ft.takeRecord s.sys s.straps.tape s.time.loop.F s.time.loop.n (p.record .broad 401) =
    (s.time.ft.third p).judge s.sys s.straps.tape ((s.time.ft.third p).candidate s.time.loop.F s.time.loop.n b) := by
  have less : 0 < s.time.ft.broadRun ∧ s.time.ft.broadRun < 3 := by rw [hrun]; decide
  have follow := followBroad_lengthens (r := p.record .broad 401) rfl hl less.1 less.2 hhalf
  rw [hrun] at follow
  exact takeRecord_third (r := p.record .broad 401) rfl follow hb rfl less.2.ne

include h hp hm hamp

/-- The third record of a run whose candidate is refused. -/
theorem completes_third_refused {y : Ft} {q : State → Prop}
    (hj : (s.time.ft.third p).judge s.sys s.straps.tape ((s.time.ft.third p).candidate s.time.loop.F s.time.loop.n b) =
      (y, none)) (h3 : y.broadRun = 3 ∧ y.lastBroad = some p.edge ∧ y.firstBroad = some b)
    (hq : ∀ t, t.time.ft = y → t.time.tdu = s.time.tdu → t.desk = s.desk → q t) :
    Completes (.broadClassified (p.start + 6400)) s (s.Third p b q) := by
  have judged := (takeRecord_third_judged hrun hl hb hhalf).trans hj
  obtain ⟨rs, m, hroute, hst⟩ := routed_pulseEnded_eq (p.record .broad 401) y s
  refine ⟨s.pulseEnded.routed (p.record .broad 401) y, ?_, ?_⟩
  · rw [exec_broadClassified h hp hm hamp, takeRecord_none (s := s.pulseEnded) judged]
    rfl
  · rw [hroute]
    exact ⟨rfl, rfl, rfl, hst, h3.1, h3.2.1, h3.2.2, hq _ rfl rfl rfl⟩

/-- The third record of a run whose candidate takes the boundary `tk`. -/
theorem completes_third_taken {tk : Taking} (hsound : tk.Sound s.time.ft)
    (hj : (s.time.ft.third p).judge s.sys s.straps.tape ((s.time.ft.third p).candidate s.time.loop.F s.time.loop.n b) =
      (s.time.ft.third p, some tk)) :
    Completes (.broadClassified (p.start + 6400)) s (s.Third p b (tk.effect s)) := by
  have judged := (takeRecord_third_judged hrun hl hb hhalf).trans hj
  obtain ⟨rs, m, hroute, hst⟩ := routed_pulseEnded_eq (p.record .broad 401) (s.time.ft.third p) s
  refine ⟨(s.pulseEnded.routed (p.record .broad 401) (s.time.ft.third p)).takeField tk, ?_, ?_⟩
  · rw [exec_broadClassified h hp hm hamp, takeRecord_some (s := s.pulseEnded) judged]
    rfl
  · have effect := effect_takeField (s := s.pulseEnded.routed (p.record .broad 401) (s.time.ft.third p)) (tk := tk) hsound
    rw [hroute] at effect ⊢
    refine ⟨rfl, rfl, rfl, hst, rfl, rfl, hb, effect_of_same (p := p) ?_ ?_ ?_ ?_ ?_ ?_ effect⟩
    exacts [rfl, rfl, hst, rfl, rfl, rfl]

end

/-- Settles O10: the record of the broad pulse at the loop and at the tracker, by the run it finds. -/
theorem broadPulsesTakeTheBoundary : Obligations.BroadPulsesTakeTheBoundary := by
  unfold Obligations.BroadPulsesTakeTheBoundary
  refine ⟨fun time s h hoff => exec_broadClassified_off h hoff time, fun p s => ?_, fun p last s => ?_,
    fun p last b s => ?_⟩
  · dsimp only
    intro h hp hm hamp hrun
    rw [broad_starts_run p s h hp hm hamp hrun]
    unfold State.routed State.pulseEnded
    dsimp only [State.onTime]
    refine ⟨fun hout => ?_, fun g hv hgated hst hg he => ?_⟩
    · rw [routeLoop_kept_out (forLoop_kept_out (by decide) (hout.imp_right (Or.imp_left not_or.mp)))]
      rfl
    · rw [routeLoop_offered (forLoop_of_other (by decide) hv hgated hg he)]
      unfold Timebase.offerLoop
      dsimp only
      rw [forward_gated hst]
      rfl
  · dsimp only
    intro h hp hm hamp hl
    have follows {y : Ft} (hy : s.time.ft.followBroad s.time.loop.F (p.record .broad 401) = y)
        (hquiet : y.broadRun ≠ 3 ∨ s.time.ft.broadRun = 3) : Completes (.broadClassified (p.start + 6400)) s (fun t =>
          t.time.sfe = { s.time.sfe with pulse := none } ∧ t.time.ft = y ∧ t.desk = s.desk ∧
            t.time.tdu = s.time.tdu) := by
      obtain ⟨rs, m, hroute, -⟩ := routed_pulseEnded_eq (p.record .broad 401) y s
      refine ⟨_, completes_broad_quiet h hp hm hamp hy hquiet, ?_⟩
      rw [hroute]
      exact ⟨rfl, rfl, rfl, rfl⟩
    refine ⟨fun hrun hhalf => ?_, fun hrun hfar => ?_, fun hrun => ?_⟩
    · have less : 0 < s.time.ft.broadRun ∧ s.time.ft.broadRun < 3 := by rw [hrun]; decide
      refine follows ?_ (.inl (show (2 : Nat) ≠ 3 by decide))
      rw [followBroad_lengthens (r := p.record .broad 401) rfl hl less.1 less.2 hhalf, hrun]
      rfl
    · have less : s.time.ft.broadRun < 3 := by rcases hrun with hrun | hrun <;> rw [hrun] <;> decide
      exact follows (followBroad_starts (r := p.record .broad 401) rfl less (.inr ⟨last, hl, hfar⟩)) (.inl (show (1 : Nat) ≠ 3 by decide))
    · exact follows (followBroad_full rfl hrun) (.inr hrun)
  · intro x gate near d dHalf parity before count inside confirmed third takes h hp hm hamp hrun hl hb hhalf
    have hnear (d : Int) : near d = match b.snap.parityGate with
        | some g => decide (d.natAbs ≤ g)
        | none => false := by
      have same : gate = b.snap.parityGate := by
        unfold Snapshot.parityGate
        dsimp only [gate]
        cases b.snap.st <;> rfl
      rw [← same] <;> rfl
    have cand : (s.time.ft.third p).candidate s.time.loop.F s.time.loop.n b = ⟨parity, count⟩ := candidate_eq hnear
    have judge (out : Ft × Option Taking)
        (hj : (s.time.ft.third p).judge s.sys s.straps.tape ⟨parity, count⟩ = out) :
        (s.time.ft.third p).judge s.sys s.straps.tape ((s.time.ft.third p).candidate s.time.loop.F s.time.loop.n b) =
          out := cand ▸ hj
    have accepted (hacc : x.fs = .search ∨ inside = true) : Completes (.broadClassified (p.start + 6400)) s
        (s.Third p b ((x.acceptTaking s.sys s.straps.tape ⟨parity, count⟩).effect s)) :=
      completes_third_taken h hp hm hamp hrun hl hb hhalf (sound_acceptTaking _ _ _ _) (judge _ (if_pos hacc))
    refine ⟨fun hs => ?_, fun hs hin => ?_, fun hs hout hconf => ?_, fun hs hout hconf => ?_⟩
    · have taking : x.acceptTaking s.sys s.straps.tape ⟨parity, count⟩ =
          ⟨if inside then .accepted else .slip, if parity = none then .search else .locked, 0, count, parity, true,
            false⟩ := by
        unfold Ft.acceptTaking
        simp only [hs, true_and]
        rfl
      have acc := accepted (.inl hs)
      rw [taking] at acc
      exact acc
    · have taking : x.acceptTaking s.sys s.straps.tape ⟨parity, count⟩ =
          ⟨.accepted, .locked, 0, count, parity, true, false⟩ := by
        unfold Ft.acceptTaking
        simp only [hs, false_and, if_false]
        rw [if_pos (show inAcceptance s.sys s.straps.tape x.parity count = true from hin)]
      have acc := accepted (.inr hin)
      rw [taking] at acc
      exact acc
    · refine completes_third_taken h hp hm hamp hrun hl hb hhalf (fun _ => .inl rfl) (judge _ ?_)
      exact (if_neg (not_or.mpr ⟨hs, Bool.eq_false_iff.mp hout⟩)).trans (if_pos ((confirmsStray_iff _ _).mpr hconf))
    · refine completes_third_refused h hp hm hamp hrun hl hb hhalf
        (y := { s.time.ft.third p with stray := some ⟨count, false⟩ }) (judge _ ?_) ⟨rfl, rfl, hb⟩
        fun t hft htdu hdesk => ⟨hft, htdu, hdesk⟩
      exact (if_neg (not_or.mpr ⟨hs, Bool.eq_false_iff.mp hout⟩)).trans
        (if_neg fun hc => hconf ((confirmsStray_iff _ _).mp hc))

end Sys2Proof.Machine

namespace Sys2Proof.Machine

variable {x : Tdu} {tape : Bool} {n : Nat} {F c A : Int} {st : RefSt} {fc : FieldCount}

/-! ## The delivered line of a hand-over (R85, R86) -/

theorem fixLine_open {o : OpenLine} (ho : x.openLine = some o) (hr : o.ref = some n) (hl : o.len = none) (len : Int) :
    x.fixLine n len = { x with openLine := some (o.fix len), nextStart := moveFine o.start len } := by
  rw [Tdu.fixLine, ho]
  exact if_pos ⟨hr, hl⟩

theorem fixLine_waits (h : ∀ o, x.openLine = some o → o.ref ≠ some n ∨ o.len ≠ none) (len : Int) :
    x.fixLine n len = { x with fixedLines := x.fixedLines ++ [⟨some n, len⟩], nextRef := n + 1 } := by
  unfold Tdu.fixLine
  split
  next o ho =>
    rw [if_neg]
    rintro ⟨hr, hl⟩
    exact (h o ho).elim (fun hn => hn hr) (fun hn => hn hl)
  next => rfl

theorem fixLine_eq (n : Nat) (len : Int) (x : Tdu) : ∃ o lines ref start, x.fixLine n len =
    { x with openLine := o, fixedLines := lines, nextRef := ref, nextStart := start } := by
  unfold Tdu.fixLine
  split
  · split <;> exact ⟨_, _, _, _, rfl⟩
  · exact ⟨_, _, _, _, rfl⟩

/-- What the line of a hand-over changes. -/
theorem formLines_eq (tape : Bool) (n : Nat) (F c A : Int) (x : Tdu) : ∃ o lines ref start d len,
    x.formLines tape n F c A =
      { x with openLine := o, fixedLines := lines, nextRef := ref, nextStart := start, D := d, lastLen := len
               stepX := 0, stepY := 0 } := by
  obtain ⟨o, lines, ref, start, hfix⟩ := fixLine_eq n (x.lineLength tape F c) x
  unfold Tdu.formLines Tdu.formLine Tdu.insertLine
  dsimp only
  rw [hfix]
  split <;> exact ⟨_, _, _, _, _, _, rfl⟩

/-- R86 asks for one line more. -/
theorem inserts_iff : x.inserts tape n F c A = true ↔ 4 * (x.nextD tape c A + x.hoff * 256) ≤ -3 * F := by
  obtain ⟨o, lines, ref, start, hfix⟩ := fixLine_eq n (x.lineLength tape F c) x
  unfold Tdu.inserts Tdu.formLine Tdu.farEarly
  dsimp only
  rw [hfix, decide_eq_true_iff]

theorem formLines_near (h : ¬ x.inserts tape n F c A = true) : x.formLines tape n F c A = x.formLine tape n F c A :=
  if_neg h

theorem formLines_far (h : x.inserts tape n F c A = true) :
    x.formLines tape n F c A = (x.formLine tape n F c A).insertLine tape F := if_pos h

theorem lineLength_eq : x.lineLength tape F c = F + slewOf tape c (x.D + x.stepY) + x.stepX := rfl

/-- D and the provisional length after a hand-over, by whether a line is inserted. -/
theorem formLines_D_near (h : ¬ x.inserts tape n F c A = true) : (x.formLines tape n F c A).D = x.nextD tape c A ∧
    (x.formLines tape n F c A).lastLen = F + slewOf tape c (x.D + x.stepY) := by
  rw [formLines_near h]
  refine ⟨rfl, ?_⟩
  change x.lineLength tape F c - x.stepX = _
  rw [lineLength_eq, Int.add_sub_cancel]

theorem formLines_D_far (h : x.inserts tape n F c A = true) :
    (x.formLines tape n F c A).D =
      wrapFine (wrapFine (x.nextD tape c A + F) + slewOf tape 0 (wrapFine (x.nextD tape c A + F))) ∧
    (x.formLines tape n F c A).lastLen = F + slewOf tape 0 (wrapFine (x.nextD tape c A + F)) := by
  rw [formLines_far h]
  exact ⟨rfl, rfl⟩

/-- The lines that wait after a hand-over. -/
theorem fixedLines_formLines {more : List FixedLine}
    (hfar : x.inserts tape n F c A = true → more = [⟨none, F + slewOf tape 0 (wrapFine (x.nextD tape c A + F))⟩])
    (hnear : ¬ x.inserts tape n F c A = true → more = []) :
    (x.formLines tape n F c A).openLine = (x.fixLine n (x.lineLength tape F c)).openLine ∧
    (x.formLines tape n F c A).nextStart = (x.fixLine n (x.lineLength tape F c)).nextStart ∧
    (x.formLines tape n F c A).fixedLines = (x.fixLine n (x.lineLength tape F c)).fixedLines ++ more := by
  by_cases h : x.inserts tape n F c A = true
  · rw [formLines_far h, hfar h]
    exact ⟨rfl, rfl, rfl⟩
  · rw [formLines_near h, hnear h, List.append_nil]
    exact ⟨rfl, rfl, rfl⟩

/-! ## The slip detector (R91, R96) -/

/-- The detector reads D, its count, the queue and the hold count, and changes its count and the queue. -/
theorem detectSlip_eq (st : RefSt) (fc : FieldCount) (x : Tdu) : ∃ q rs, x.detectSlip st fc =
    ({ x with slipDet := x.detect st, queue := q }, rs) ∧ ∀ y : Tdu, y.D = x.D → y.slipDet = x.slipDet →
      y.queue = x.queue → y.holdCount = x.holdCount →
      y.detectSlip st fc = ({ y with slipDet := x.detect st, queue := q }, rs) := by
  have places (y : Tdu) (hD : y.D = x.D) (hs : y.slipDet = x.slipDet) (hq : y.queue = x.queue) :
      y.detect st = x.detect st ∧ y.hasSlip = x.hasSlip := by
    unfold Tdu.detect Tdu.hasSlip
    rw [hD, hs, hq]
    exact ⟨rfl, rfl⟩
  by_cases h : 3 ≤ x.detect st ∧ x.hasSlip = false
  · refine ⟨x.queue ++ [⟨.slip, false⟩], [.slipPending (ticksOf x.D) x.holdCount fc], by unfold Tdu.detectSlip; exact if_pos h,
      fun y hD hs hq hh => ?_⟩
    obtain ⟨hdet, hslip⟩ := places y hD hs hq
    unfold Tdu.detectSlip
    dsimp only
    rw [hdet, if_pos ⟨h.1, hslip.trans h.2⟩, hD, hh, ← hq]
    rfl
  · refine ⟨x.queue, [], if_neg h, fun y hD hs hq hh => ?_⟩
    obtain ⟨hdet, hslip⟩ := places y hD hs hq
    unfold Tdu.detectSlip
    dsimp only
    rw [hdet, if_neg (fun hc => h ⟨hc.1, hslip.symm.trans hc.2⟩), ← hq]

theorem hasSlip_eq_false_iff : x.hasSlip = false ↔ x.slips = 0 := by
  refine ⟨Tdu.Keeps.slips_of_hasSlip, fun h => ?_⟩
  unfold Tdu.slips at h
  rw [List.length_eq_zero_iff, List.filter_eq_nil_iff] at h
  unfold Tdu.hasSlip
  exact List.any_eq_false.mpr fun e he => h e he

/-- The slip detector by its count and the queue. -/
theorem detectSlip_cases (st : RefSt) (fc : FieldCount) (x : Tdu) :
    let settled : Prop := st = .acquire ∨ st = .locked
    (settled → 65536 < x.D.natAbs →
      (x.slipDet < 2 → x.detectSlip st fc = ({ x with slipDet := x.slipDet + 1 }, [])) ∧
      (2 ≤ x.slipDet → x.slips = 0 →
        x.detectSlip st fc = ({ x with slipDet := 3, queue := x.queue ++ [⟨.slip, false⟩] },
          [.slipPending (roundR x.D 256) x.holdCount fc])) ∧
      (2 ≤ x.slipDet → 0 < x.slips → x.detectSlip st fc = ({ x with slipDet := 3 }, []))) ∧
    (x.D.natAbs ≤ 65536 ∨ ¬settled → x.detectSlip st fc = ({ x with slipDet := 0 }, [])) := by
  refine ⟨fun hst hfar => ?_, fun hquiet => ?_⟩
  · have count : x.detect st = satInc 3 x.slipDet := by rw [Tdu.detect, if_pos hst, if_pos hfar]
    refine ⟨fun hlow => ?_, fun hhigh hnone => ?_, fun hhigh hsome => ?_⟩
    · have up : satInc 3 x.slipDet = x.slipDet + 1 := satInc_of_lt (by omega)
      unfold Tdu.detectSlip
      dsimp only
      rw [count, up, if_neg (fun hc => by omega)]
    · have full : satInc 3 x.slipDet = 3 := by unfold satInc; omega
      have slipless : x.hasSlip = false := hasSlip_eq_false_iff.mpr hnone
      unfold Tdu.detectSlip
      dsimp only
      rw [count, full, if_pos ⟨le_rfl, slipless⟩]
      rfl
    · have full : satInc 3 x.slipDet = 3 := by unfold satInc; omega
      have queued : ¬ x.hasSlip = false := fun hc => by rw [hasSlip_eq_false_iff] at hc; omega
      unfold Tdu.detectSlip
      dsimp only
      rw [count, full, if_neg (fun hc => queued hc.2)]
  · have count : x.detect st = 0 := by
      unfold Tdu.detect
      rcases hquiet with hnear | hunsettled
      · rw [if_neg (by omega : ¬ 65536 < x.D.natAbs), ite_self]
      · rw [if_neg hunsettled]
    unfold Tdu.detectSlip
    dsimp only
    rw [count, if_neg (fun hc => absurd hc.1 (by decide))]

/-! ## The adjustment queue applied (R93) -/

theorem entry_takesD {e : AdjEntry} (h : e.kind = .slip ∨ e.kind = .recentre) (hold : Nat) (a : Applying) :
    a.entry hold e = if hold = 0 then a.takeD e else { a with kept := a.kept ++ [e] } := by
  unfold Applying.entry
  rcases h with h | h <;> rw [h]

theorem entry_shift {e : AdjEntry} {amount : Int} (h : e.kind = .shift amount) (hold : Nat) (a : Applying) :
    a.entry hold e = a.takeShift e amount := by
  unfold Applying.entry
  rw [h]

/-- The part of a SHIFT that fits: all of it, or up to the step limit in whole ticks (log 13). -/
theorem shiftPart_spec (amount : Int) (a : Applying) :
    let inRange := max (-2048) (min 2047 (a.hoff + amount)) - a.hoff
    (((a.T + inRange * 256).natAbs : Int) ≤ 8192 * 256 → a.shiftPart amount = inRange) ∧
    (8192 * 256 < a.T + inRange * 256 → a.T + a.shiftPart amount * 256 ≤ 8192 * 256 ∧
      8192 * 256 < a.T + (a.shiftPart amount + 1) * 256) ∧
    (a.T + inRange * 256 < -(8192 * 256) → -(8192 * 256) ≤ a.T + a.shiftPart amount * 256 ∧
      a.T + (a.shiftPart amount - 1) * 256 < -(8192 * 256)) := by
  dsimp only
  unfold Applying.shiftPart stepLimit
  dsimp only
  have hc := ceilDiv_bounds (-2097152 - a.T) (den := 256) (by decide)
  generalize ceilDiv (-2097152 - a.T) 256 = lo at hc ⊢
  change (_ → clampInt lo _ (max (-2048) (min 2047 (a.hoff + amount)) - a.hoff) = _) ∧ _
  unfold clampInt
  generalize max (-2048) (min 2047 (a.hoff + amount)) - a.hoff = inRange
  generalize hup : (2097152 - a.T) / 256 = up
  omega

/-- Only a SLIP or a RECENTRE stays, and none does while no slips are held (R93, R95). -/
theorem kept_foldl_kinds (hold : Nat) (es : List AdjEntry) (a : Applying) :
    (∀ e ∈ (es.foldl (Applying.entry hold) a).kept, e ∈ a.kept ∨ e.kind = .slip ∨ e.kind = .recentre) ∧
    (hold = 0 → (es.foldl (Applying.entry hold) a).kept = a.kept) := by
  induction es generalizing a with
  | nil => exact ⟨fun e he => .inl he, fun _ => rfl⟩
  | cons e es ih =>
    obtain ⟨kinds, empty⟩ := ih (a.entry hold e)
    have one : (a.entry hold e).kept = a.kept ∨ (hold ≠ 0 ∧ (e.kind = .slip ∨ e.kind = .recentre) ∧
        (a.entry hold e).kept = a.kept ++ [e]) := by
      cases hk : e.kind with
      | shift amount =>
        rw [entry_shift hk]
        exact .inl rfl
      | slip =>
        rw [entry_takesD (.inl hk)]
        split
        · exact .inl rfl
        next hne => exact .inr ⟨hne, .inl rfl, rfl⟩
      | recentre =>
        rw [entry_takesD (.inr hk)]
        split
        · exact .inl rfl
        next hne => exact .inr ⟨hne, .inr rfl, rfl⟩
    rw [List.foldl_cons]
    rcases one with h | ⟨hne, hkind, h⟩
    · rw [h] at kinds empty
      exact ⟨kinds, empty⟩
    · rw [h] at kinds
      refine ⟨fun z hz => ?_, fun h0 => absurd h0 hne⟩
      rcases kinds z hz with hz | hz
      · rcases List.mem_append.mp hz with hz | hz
        · exact .inl hz
        · rw [List.mem_singleton] at hz
          exact .inr (hz ▸ hkind)
      · exact .inr hz

/-! ## The hand-over (R31, R85, R86, R91, R93) -/

/-- The unit once the line is formed and the slip detector has looked at it. -/
def Tdu.detected (tape : Bool) (n : Nat) (F c A : Int) (st : RefSt) (fc : FieldCount) (x : Tdu) : Tdu :=
  ((x.formLines tape n F c A).detectSlip st fc).1

theorem appliesAt_iff : x.appliesAt n = true ↔ x.applyNext = true ∨ x.applyAt = some n ∨ x.plan.line = n := by
  simp [Tdu.appliesAt, or_assoc]

/-- The line formed, the detector as it acts on the D just formed. -/
theorem detected_eq (tape : Bool) (n : Nat) (F c A : Int) (st : RefSt) (fc : FieldCount) (x : Tdu) :
    let y := x.formLines tape n F c A
    let seen := ({ x with D := y.D } : Tdu).detectSlip st fc
    x.detected tape n F c A st fc = { y with slipDet := seen.1.slipDet, queue := seen.1.queue } ∧
      (y.detectSlip st fc).2 = seen.2 := by
  dsimp only
  obtain ⟨q, rs, hseen, hother⟩ := detectSlip_eq st fc { x with D := (x.formLines tape n F c A).D }
  obtain ⟨o, lines, ref, start, d, len, hform⟩ := formLines_eq tape n F c A x
  have formed := hother (x.formLines tape n F c A) rfl (by rw [hform]) (by rw [hform]) (by rw [hform])
  unfold Tdu.detected
  rw [formed, hseen]
  exact ⟨rfl, rfl⟩

/-- What of the formed line a queue application leaves. -/
theorem handOver_formed (tape : Bool) (n : Nat) (F c A : Int) (st : RefSt) (fc : FieldCount) (x : Tdu) :
    let y := x.formLines tape n F c A
    let seen := ({ x with D := y.D } : Tdu).detectSlip st fc
    let h := x.handOver tape n F c A st fc
    h.inserted = x.inserts tape n F c A ∧ h.tdu.D = y.D ∧ h.tdu.lastLen = y.lastLen ∧ h.tdu.openLine = y.openLine ∧
      h.tdu.nextStart = y.nextStart ∧ h.tdu.fixedLines = y.fixedLines ∧ h.tdu.hoff = x.hoff ∧ h.tdu.ppl = x.ppl ∧
      h.tdu.slipDet = seen.1.slipDet ∧ h.pending = seen.2 := by
  obtain ⟨hdet, hpend⟩ := detected_eq tape n F c A st fc x
  obtain ⟨o, lines, ref, start, d, len, hform⟩ := formLines_eq tape n F c A x
  have hoff : (x.formLines tape n F c A).hoff = x.hoff := by rw [hform]
  have hppl : (x.formLines tape n F c A).ppl = x.ppl := by rw [hform]
  unfold Tdu.detected at hdet
  dsimp only at hdet hpend ⊢
  unfold Tdu.handOver
  dsimp only
  rw [hdet, hpend]
  split <;> exact ⟨rfl, rfl, rfl, rfl, rfl, rfl, hoff, hppl, rfl, rfl⟩

theorem applies_detected : (x.detected tape n F c A st fc).appliesAt n = true ↔
    x.applyNext = true ∨ x.applyAt = some n ∨ x.plan.line = n := by
  obtain ⟨o, lines, ref, start, d, len, hform⟩ := formLines_eq tape n F c A x
  rw [(detected_eq ..).1, hform, appliesAt_iff]

theorem handOver_applies (h : x.applyNext = true ∨ x.applyAt = some n ∨ x.plan.line = n) :
    x.handOver tape n F c A st fc = ⟨(x.detected tape n F c A st fc).applyQueue n,
      ((x.formLines tape n F c A).detectSlip st fc).2, (x.detected tape n F c A st fc).applied.left,
      (x.detected tape n F c A st fc).applied.reports fc, x.inserts tape n F c A⟩ :=
  if_pos (applies_detected.mpr h)

theorem handOver_waits (h : ¬ (x.applyNext = true ∨ x.applyAt = some n ∨ x.plan.line = n)) :
    x.handOver tape n F c A st fc = ⟨x.detected tape n F c A st fc,
      ((x.formLines tape n F c A).detectSlip st fc).2, [], [], x.inserts tape n F c A⟩ :=
  if_neg fun hc => h (applies_detected.mp hc)

/-- The values that a formed and detected line leaves for a queue application. -/
theorem detected_rest (tape : Bool) (n : Nat) (F c A : Int) (st : RefSt) (fc : FieldCount) (x : Tdu) :
    let y := x.detected tape n F c A st fc
    y.holdCount = x.holdCount ∧ y.slipField = x.slipField ∧ y.applyAt = x.applyAt ∧ y.pendCfg = x.pendCfg ∧
      y.newVals = x.newVals ∧ y.hoff = x.hoff ∧ y.ppl = x.ppl ∧ y.stepX = 0 ∧ y.stepY = 0 := by
  obtain ⟨o, lines, ref, start, d, len, hform⟩ := formLines_eq tape n F c A x
  dsimp only
  rw [(detected_eq ..).1, hform]
  exact ⟨rfl, rfl, rfl, rfl, rfl, rfl, rfl, rfl, rfl⟩

/-- The line of a hand-over: the first clause of O18. -/
theorem handOver_line (tape : Bool) (n : Nat) (F c A : Int) (st : RefSt) (fc : FieldCount) (x : Tdu) :
    let limit : Int := if tape then 2048 else 1024
    let slew (y : Int) : Int := max (-limit) (min limit y)
    let modular (y : Int) : Int := (BitVec.ofInt 28 y).toInt
    let K := slew (c - (x.D + x.stepY))
    let len := F + K + x.stepX
    let D := modular (x.D + x.stepY + K - c - A)
    let far : Prop := 4 * (D + x.hoff * 256) ≤ -3 * F
    let K2 := slew (0 - modular (D + F))
    let h := x.handOver tape n F c A st fc
    (h.inserted = true ↔ far) ∧
    (¬far → h.tdu.D = D ∧ h.tdu.lastLen = F + K) ∧
    (far → h.tdu.D = modular (modular (D + F) + K2) ∧ h.tdu.lastLen = F + K2) ∧
    (∀ more : List FixedLine, (far → more = [⟨none, F + K2⟩]) → (¬far → more = []) →
      (∀ o, x.openLine = some o → o.ref = some n → o.len = none →
        (∃ i num, h.tdu.openLine = some { o with len := some len, baseIx := i, baseNum := num }) ∧
        h.tdu.nextStart = o.start + BitVec.ofInt 28 len ∧ h.tdu.fixedLines = x.fixedLines ++ more) ∧
      ((∀ o, x.openLine = some o → o.ref ≠ some n ∨ o.len ≠ none) →
        h.tdu.openLine = x.openLine ∧ h.tdu.nextStart = x.nextStart ∧
        h.tdu.fixedLines = x.fixedLines ++ ⟨some n, len⟩ :: more)) := by
  intro limit slew modular K len D far K2 h
  obtain ⟨hins, hD, hlast, hopen, hstart, hlines, -⟩ := handOver_formed tape n F c A st fc x
  have hfar : x.inserts tape n F c A = true ↔ far := inserts_iff
  refine ⟨?_, fun hnear => ?_, fun hf => ?_, fun more hmore hnone => ?_⟩
  · rw [← hfar]
    exact Eq.congr_left hins
  · obtain ⟨hd, hl⟩ := formLines_D_near (mt hfar.mp hnear)
    exact ⟨hD.trans hd, hlast.trans hl⟩
  · obtain ⟨hd, hl⟩ := formLines_D_far (hfar.mpr hf)
    exact ⟨hD.trans hd, hlast.trans hl⟩
  · obtain ⟨ho, hs, hfl⟩ := fixedLines_formLines (fun hc => hmore (hfar.mp hc)) (fun hc => hnone (mt hfar.mpr hc))
    refine ⟨fun o hopens href hlen => ?_, fun hwaits => ?_⟩
    · rw [fixLine_open hopens href hlen] at ho hs hfl
      exact ⟨⟨_, _, hopen.trans ho⟩, hstart.trans hs, hlines.trans hfl⟩
    · rw [fixLine_waits hwaits] at ho hs hfl
      refine ⟨hopen.trans ho, hstart.trans hs, (hlines.trans hfl).trans ?_⟩
      exact List.append_assoc ..

theorem newValsAfter_of_configure {a : Applying} {q : ConfigVals} (h : x.pendCfg = some q) :
    x.newValsAfter n a = some ⟨n + 2, q.ppl, a.hoff, some q.keyDelay⟩ := by
  rw [Tdu.newValsAfter, h]

theorem newValsAfter_of_none {a : Applying} (h : x.pendCfg = none) (hv : x.newVals = none) :
    x.newValsAfter n a = if a.hoff = x.hoff then none else some ⟨n + 2, x.ppl, a.hoff, none⟩ := by
  simp only [Tdu.newValsAfter, h, hv, Tdu.hoffAhead, Tdu.pplAhead]
  rfl

theorem newValsAfter_of_some {a : Applying} {v : NewVals} (h : x.pendCfg = none) (hv : x.newVals = some v) :
    x.newValsAfter n a = if a.hoff = v.hoff then some v else some ⟨n + 2, v.ppl, a.hoff, v.keyDelay⟩ := by
  simp only [Tdu.newValsAfter, h, hv, Tdu.hoffAhead, Tdu.pplAhead]
  rfl

/-- An application starts from the H_off that the last one left, with a CONFIGURE's step (R93, R97, log 48). -/
theorem applyStart_eq {old new : Int} (hnone : x.newVals = none → old = x.hoff) (hsome : ∀ v, x.newVals = some v → old = v.hoff)
    (hno : x.pendCfg = none → new = old) (hcfg : ∀ q, x.pendCfg = some q → new = q.hoff) :
    x.applyStart = { T := (new - old) * 256, Y := 0, D := x.D, hoff := new, excess := x.shiftExcess, kept := [], left := []
                     slipDone := none } := by
  have ahead : x.hoffAhead = old := by
    unfold Tdu.hoffAhead
    cases hv : x.newVals with
    | none => exact (hnone hv).symm
    | some v => exact (hsome v hv).symm
  have next : (x.pendCfg.map ConfigVals.hoff).getD x.hoffAhead = new := by
    cases hq : x.pendCfg with
    | none => exact ahead.trans (hno hq).symm
    | some q => exact (hcfg q hq).symm
  unfold Tdu.applyStart
  dsimp only
  rw [next, ahead]

/-- Settles O18. -/
theorem handOverSlewsDetectsAndSteps : Obligations.HandOverSlewsDetectsAndSteps := by
  unfold Obligations.HandOverSlewsDetectsAndSteps
  refine ⟨fun tape n F c A st fc x => ?_, fun tape n F c A st fc x => ?_, fun old new x hnone hsome hno hcfg => ?_,
    fun hold e a => ⟨?_, ?_⟩, detectSlip_cases, fun x hx => ?_⟩
  · obtain ⟨hins, hnear, hfar, hlines⟩ := handOver_line tape n F c A st fc x
    obtain ⟨-, -, -, -, -, -, hhoff, hppl, hdet, hpend⟩ := handOver_formed tape n F c A st fc x
    have hD : (x.handOver tape n F c A st fc).tdu.D = (x.formLines tape n F c A).D := (handOver_formed ..).2.1
    refine ⟨hins, hnear, hfar, hlines, hhoff, hppl, ?_, ?_, fun hnext hat hplan => ?_⟩
    · rw [hD]
      exact hdet
    · rw [hD]
      exact hpend
    · obtain ⟨hdetected, -⟩ := detected_eq tape n F c A st fc x
      obtain ⟨-, hslip, happly, -, hnew, -, -, hX, hY⟩ := detected_rest tape n F c A st fc x
      rw [hD, handOver_waits (by
        rintro (hc | hc | hc)
        · exact Bool.false_ne_true (hnext.symm.trans hc)
        · exact hat hc
        · exact hplan hc)]
      exact ⟨by rw [hdetected], rfl, rfl, hX, hY, happly, hnew, hslip⟩
  · dsimp only
    intro happlies
    obtain ⟨hhold, hslip, hat, hcfg, hnew, hhoff, hppl, -, -⟩ := detected_rest tape n F c A st fc x
    rw [handOver_applies happlies]
    rw [show ((x.formLines tape n F c A).detectSlip st fc).1 = x.detected tape n F c A st fc from rfl]
    generalize x.detected tape n F c A st fc = y at *
    refine ⟨rfl, rfl, rfl, rfl, rfl, rfl, congrArg (· - 1) hhold, congrArg (· || _) hslip, rfl, rfl, ?_, rfl,
      fun amount ha => ?_, fun ha => ?_, hhoff, hppl, fun q hq => ?_, fun hq hv => ?_, fun v hq hv => ?_⟩
    · rw [← hat]
      rfl
    · unfold Applying.reports
      rw [ha]
      rfl
    · unfold Applying.reports
      rw [ha]
      rfl
    · exact newValsAfter_of_configure (hcfg.trans hq)
    · rw [← hhoff, ← hppl]
      exact newValsAfter_of_none (hcfg.trans hq) (hnew.trans hv)
    · exact newValsAfter_of_some (hcfg.trans hq) (hnew.trans hv)
  · exact congrArg (fun a => List.foldl _ a x.queue) (applyStart_eq hnone hsome hno hcfg)
  · intro hkind
    dsimp only
    rw [entry_takesD hkind]
    exact ⟨fun h0 => if_pos h0, fun hne => if_neg hne⟩
  · intro amount hkind
    refine ⟨a.shiftPart amount, ?_, shiftPart_spec amount a⟩
    rw [entry_shift hkind]
    rfl
  · obtain ⟨⟨hlow, hhigh⟩, hmin, hmax⟩ := bounded_applied hx
    obtain ⟨kinds, empty⟩ := kept_foldl_kinds x.holdCount x.queue x.applyStart
    refine ⟨?_, hmin, hmax, fun e he => ⟨kept_applied.subset he, (kinds e he).resolve_left List.not_mem_nil⟩, empty⟩
    unfold stepLimit at hlow hhigh
    omega

end Sys2Proof.Machine

namespace Sys2Proof.Machine

variable {x : Tdu} {s : State}

/-! ## The start of a delivered line (R85 to R87, R94, R97, R167) -/

theorem canStart_of_fixed (h : ∀ o, x.openLine = some o → o.len ≠ none) : x.canStart = true := by
  unfold Tdu.canStart
  split
  next o ho => exact Option.isSome_iff_ne_none.mpr (h o ho)
  next => rfl

theorem canStart_of_open {o : OpenLine} (ho : x.openLine = some o) (hl : o.len = none) : ¬ x.canStart = true := by
  simp [Tdu.canStart, ho, hl]

/-- The new values take effect on the line that opens (R94, R97). -/
theorem commits_due {v : NewVals} {m : Nat} (hv : x.newVals = some v) (hm : x.nextLineRef = some m) (hle : v.line ≤ m) :
    x.commits = some v := by
  rw [Tdu.commits, hv, hm]
  exact if_pos hle

theorem commits_waiting (h : ∀ v m, x.newVals = some v → x.nextLineRef = some m → m < v.line) : x.commits = none := by
  unfold Tdu.commits
  split
  next v m hv hm => exact if_neg (Nat.not_le.mpr (h v m hv hm))
  next => rfl

theorem commit_of_commits {v : NewVals} (h : x.commits = some v) :
    x.commit = { x with hoff := v.hoff, ppl := v.ppl, newVals := none } := by
  rw [Tdu.commit, h]

theorem commit_of_none (h : x.commits = none) : x.commit = x := by
  rw [Tdu.commit, h]

theorem commit_eq (x : Tdu) : ∃ hoff ppl vals, x.commit = { x with hoff := hoff, ppl := ppl, newVals := vals } := by
  unfold Tdu.commit
  split <;> exact ⟨_, _, _, rfl⟩

/-- The line that opens: the first that waits, or one with no length yet. -/
theorem openNextLine_eq (x : Tdu) : ∃ o lines ref start,
    x.openNextLine = { x with openLine := some o, fixedLines := lines, nextRef := ref, nextStart := start } ∧
    o.start = x.nextStart ∧ o.ppl = x.ppl ∧ o.pixel = 0 ∧ o.ref = x.nextLineRef ∧
    (∀ f fs, x.fixedLines = f :: fs → o.ref = f.ref ∧ o.len = some f.len) ∧
    (x.fixedLines = [] → o.ref = some x.nextRef ∧ o.len = none) := by
  unfold Tdu.openNextLine Tdu.nextLineRef
  cases h : x.fixedLines with
  | nil => exact ⟨_, _, _, _, rfl, rfl, rfl, rfl, rfl, nofun, fun _ => ⟨rfl, rfl⟩⟩
  | cons l rest =>
    refine ⟨_, _, _, _, rfl, rfl, rfl, rfl, rfl, fun f fs hf => ?_, nofun⟩
    cases hf
    exact ⟨rfl, rfl⟩

/-- What the start of a delivered line changes of the unit. -/
theorem startLine_eq (x : Tdu) : ∃ o lines ref start, x.startLine = { x.commit with
      openLine := some o, fixedLines := lines, nextRef := ref, nextStart := start, vsyncLeft := x.vsyncLeft - 1
      hsync := true } ∧
    o.start = x.nextStart ∧ o.ppl = x.commit.ppl ∧ o.pixel = 0 ∧ o.ref = x.nextLineRef ∧
    (∀ f fs, x.fixedLines = f :: fs → o.ref = f.ref ∧ o.len = some f.len) ∧
    (x.fixedLines = [] → o.ref = some x.nextRef ∧ o.len = none) := by
  obtain ⟨hoff, ppl, vals, hc⟩ := commit_eq x
  obtain ⟨o, lines, ref, start, hopen, hs, hp, hpix, href, hcons, hnil⟩ := openNextLine_eq x.commit
  refine ⟨o, lines, ref, start, ?_, ?_, hp, hpix, ?_, ?_, ?_⟩
  · unfold Tdu.startLine Tdu.halfLine
    rw [hopen, hc]
  · rw [hs, hc]
  · rw [href, hc]
    rfl
  · rw [hc] at hcons
    exact hcons
  · rw [hc] at hnil
    exact hnil

theorem setDelay_same (k : Ky) : k.setDelay k.keyDelay = k := if_pos rfl

theorem setDelay_new {k : Ky} {n : Nat} (h : n ≠ k.keyDelay) :
    k.setDelay n = { k with keyDelay := n, delay := List.replicate n false, key := false } := if_neg h

/-- A new key delay changes the delay line and KEY alone. -/
theorem takeKeyDelay_eq (k : Option Nat) (d : Desk) : ∃ n delay key,
    d.takeKeyDelay k = { d with ky := { d.ky with keyDelay := n, delay := delay, key := key } } := by
  unfold Desk.takeKeyDelay
  split
  · unfold Ky.setDelay
    split <;> exact ⟨_, _, _, rfl⟩
  · exact ⟨_, _, _, rfl⟩

theorem head_of_ready {sb : Sb} {l : LineList} {rest : List LineList}
    (h : sb.ready = l :: rest ∨ (sb.ready = [] ∧ rest = [] ∧ l = LineList.empty)) :
    sb.head = l ∧ sb.ready.tail = rest := by
  unfold Sb.head
  rcases h with h | ⟨h, hr, hl⟩
  · rw [h]
    exact ⟨rfl, rfl⟩
  · rw [h, hr, hl]
    exact ⟨rfl, rfl⟩

theorem mayKey_iff (st : RefSt) : st.mayKey = true ↔ st = .locked ∨ st = .hold ∨ st = .probe := by
  cases st <;> simp [RefSt.mayKey]

theorem atLine_eq_clear_iff (f : StopFlag) : f.atLine = .clear ↔ f = .clear := by
  cases f <;> simp [StopFlag.atLine]

theorem atLine_ne_nextLine (f : StopFlag) : f.atLine ≠ .nextLine := by
  cases f <;> simp [StopFlag.atLine]

theorem startLine_tdu (s : State) : s.startLine.time.tdu = s.time.tdu.startLine := rfl

theorem startLine_desk (s : State) : s.startLine.desk =
    (s.desk.takeKeyDelay (s.time.tdu.commits.bind NewVals.keyDelay)).keyerLine s.time.ref.st
      (s.time.tdu.startLine.slipAtStart s.sys) := rfl

/-- The values in force where new ones take effect. -/
theorem startLine_due {v : NewVals} {m : Nat} (hv : s.time.tdu.newVals = some v) (hm : s.time.tdu.nextLineRef = some m)
    (hle : v.line ≤ m) :
    s.startLine.time.tdu.hoff = v.hoff ∧ s.startLine.time.tdu.ppl = v.ppl ∧ s.startLine.time.tdu.newVals = none ∧
    (∀ k, v.keyDelay = some k → k ≠ s.desk.ky.keyDelay → s.startLine.desk.ky.keyDelay = k ∧
      s.startLine.desk.ky.delay = List.replicate k false ∧ s.startLine.desk.ky.key = false) ∧
    (v.keyDelay = none ∨ v.keyDelay = some s.desk.ky.keyDelay → s.startLine.desk.ky.keyDelay = s.desk.ky.keyDelay ∧
      s.startLine.desk.ky.delay = s.desk.ky.delay ∧ s.startLine.desk.ky.key = s.desk.ky.key) := by
  have due := commits_due hv hm hle
  obtain ⟨o, lines, ref, start, hstart, -⟩ := startLine_eq s.time.tdu
  rw [startLine_tdu, startLine_desk, hstart, commit_of_commits due, due]
  refine ⟨rfl, rfl, rfl, fun k hk hne => ?_, fun hsame => ?_⟩
  · rw [Option.bind_some, hk]
    unfold Desk.keyerLine Desk.takeKeyDelay
    dsimp only
    rw [setDelay_new hne]
    exact ⟨rfl, rfl, rfl⟩
  · rw [Option.bind_some]
    unfold Desk.keyerLine Desk.takeKeyDelay
    rcases hsame with hk | hk <;> rw [hk]
    · exact ⟨rfl, rfl, rfl⟩
    · dsimp only
      rw [setDelay_same]
      exact ⟨rfl, rfl, rfl⟩

/-- The values in force where none take effect. -/
theorem startLine_waiting (h : ∀ v m, s.time.tdu.newVals = some v → s.time.tdu.nextLineRef = some m → m < v.line) :
    s.startLine.time.tdu.hoff = s.time.tdu.hoff ∧ s.startLine.time.tdu.ppl = s.time.tdu.ppl ∧
    s.startLine.time.tdu.newVals = s.time.tdu.newVals ∧ s.startLine.desk.ky.keyDelay = s.desk.ky.keyDelay ∧
    s.startLine.desk.ky.delay = s.desk.ky.delay ∧ s.startLine.desk.ky.key = s.desk.ky.key := by
  have waiting := commits_waiting h
  obtain ⟨o, lines, ref, start, hstart, -⟩ := startLine_eq s.time.tdu
  rw [startLine_tdu, startLine_desk, hstart, commit_of_none waiting, waiting]
  exact ⟨rfl, rfl, rfl, rfl, rfl, rfl⟩

/-- The Keyer at the start of a line (R164, R167, R168). -/
theorem startLine_keyer {l : LineList} {rest : List LineList}
    (h : s.desk.sb.ready = l :: rest ∨ (s.desk.sb.ready = [] ∧ rest = [] ∧ l = LineList.empty)) :
    s.startLine.desk.ky.line = l ∧ s.startLine.desk.sb = { s.desk.sb with ready := rest } ∧
    (s.startLine.desk.ky.permitted = true ↔
      (s.time.ref.st = .locked ∨ s.time.ref.st = .hold ∨ s.time.ref.st = .probe) ∧ l.slip = false ∧
      s.time.tdu.slipField = false ∧
      (s.startLine.time.tdu.toGive = some .first → (s.startLine.time.tdu.give s.sys).slipField = false) ∧
      s.desk.pt.joinQuiet = 0 ∧ l.D.natAbs ≤ 8192 * 256 ∧ l.keyable = true) ∧
    (s.startLine.desk.ky.stop = .clear ↔ s.desk.ky.stop = .clear) ∧ s.startLine.desk.ky.stop ≠ .nextLine := by
  obtain ⟨hhead, htail⟩ := head_of_ready h
  obtain ⟨n, delay, key, hk⟩ := takeKeyDelay_eq (s.time.tdu.commits.bind NewVals.keyDelay) s.desk
  have slip : s.time.tdu.startLine.slipField = s.time.tdu.slipField := by
    obtain ⟨o, lines, ref, start, hstart, -⟩ := startLine_eq s.time.tdu
    obtain ⟨hoff, ppl, vals, hc⟩ := commit_eq s.time.tdu
    rw [hstart, hc]
  rw [startLine_desk, hk]
  refine ⟨hhead, congrArg (fun r => { s.desk.sb with ready := r }) htail, ?_, atLine_eq_clear_iff _, atLine_ne_nextLine _⟩
  unfold Desk.keyerLine
  dsimp only
  rw [hhead, linePermitted_iff, mayKey_iff, Tdu.slipAtStart_eq_false_iff, slip, startLine_tdu]
  tauto

/-- Settles O19. -/
theorem deliveredLineStartOpensTheLine : Obligations.DeliveredLineStartOpensTheLine := by
  unfold Obligations.DeliveredLineStartOpensTheLine
  intro s h
  have starts : exec .deliveredLineStart s = .next (if s.time.tdu.canStart then s.startLine else s) := next_running h _
  refine ⟨fun o ho hl => ?_, fun l rest hfixed hready => ?_⟩
  · rw [starts, if_neg (canStart_of_open ho hl)]
  · refine ⟨s.startLine, by rw [starts, if_pos (canStart_of_fixed hfixed)], ?_⟩
    obtain ⟨o, lines, ref, start, hstart, hs, hp, hpix, href, hcons, hnil⟩ := startLine_eq s.time.tdu
    obtain ⟨hoff, ppl, vals, hc⟩ := commit_eq s.time.tdu
    obtain ⟨n, delay, key, hk⟩ := takeKeyDelay_eq (s.time.tdu.commits.bind NewVals.keyDelay) s.desk
    obtain ⟨hline, hsb, hpermit, hclear, hnext⟩ := startLine_keyer hready
    have desk : s.startLine.desk.cbi = s.desk.cbi ∧ s.startLine.desk.pt = s.desk.pt ∧ s.startLine.desk.ce = s.desk.ce ∧
        s.startLine.desk.hp = s.desk.hp := by
      rw [startLine_desk, hk]
      exact ⟨rfl, rfl, rfl, rfl⟩
    have unit : s.startLine.time.tdu.hsync = true ∧ s.startLine.time.tdu.vsyncLeft = s.time.tdu.vsyncLeft - 1 ∧
        s.startLine.time.tdu.openLine = some o ∧ o.ppl = s.startLine.time.tdu.ppl ∧
        s.startLine.time.tdu.D = s.time.tdu.D ∧ s.startLine.time.tdu.queue = s.time.tdu.queue ∧
        s.startLine.time.tdu.vsync = s.time.tdu.vsync := by
      rw [startLine_tdu, hstart, hp, hc]
      exact ⟨rfl, rfl, rfl, rfl, rfl, rfl, rfl⟩
    obtain ⟨hhsync, hleft, hopen, hppl, hD, hqueue, hvsync⟩ := unit
    refine ⟨hhsync, hleft, ⟨o, hopen, hs, hppl, hpix, hcons, hnil, fun v m hv hm hle => ?_, fun hwait => ?_⟩, hline, hsb,
      hpermit, hclear, hnext, hD, hqueue, hvsync, rfl, rfl, rfl, rfl, desk⟩
    · exact startLine_due hv (href ▸ hm) hle
    · exact startLine_waiting fun v m hv hm => hwait v m hv (href ▸ hm)

end Sys2Proof.Machine

namespace Sys2Proof.Machine

variable {x : Tdu} {s : State}

/-! ## Delivered boundaries (R88 to R90) -/

theorem exec_deliveredBoundaryGiven (h : s.resetHeld = false) : exec .deliveredBoundaryGiven s =
    .next (s.withTime { s.time with tdu := s.time.tdu.give s.sys }) := next_running h _

/-- A boundary found early is given first (log 73). -/
theorem give_early {o : OpenLine} {p : Parity} (ho : x.openLine = some o) (he : x.early = some p) (sys : System) :
    x.give sys = { x with
      vsync := true, vsyncLeft := vsyncHalfLines sys, delParity := p, slipField := true, early := none } := by
  have gives : x.toGive = some p := by simp [Tdu.toGive, ho, he]
  simp [Tdu.give, gives, he, Tdu.giveField]

/-- A boundary that is owed is given on its line (R89). -/
theorem give_owed {o : OpenLine} {w : Plan} (ho : x.openLine = some o) (he : x.early = none) (hw : x.owed = some w)
    (hr : o.ref = some w.line) (sys : System) : x.give sys = { x with
      vsync := true, vsyncLeft := vsyncHalfLines sys, delParity := w.parity, slipField := w.stepped, owed := none } := by
  have gives : x.toGive = some w.parity := by simp [Tdu.toGive, Tdu.reached, ho, he, hw, hr]
  simp [Tdu.give, gives, he, hw, Tdu.giveField]

/-- The planned boundary is given on its line (R88). -/
theorem give_planned {o : OpenLine} (ho : x.openLine = some o) (he : x.early = none) (hw : x.owed = none)
    (hg : x.plan.given = false) (hr : o.ref = some x.plan.line) (sys : System) : x.give sys = { x with
      vsync := true, vsyncLeft := vsyncHalfLines sys, delParity := x.plan.parity, slipField := x.plan.stepped
      plan := { x.plan with given := true } } := by
  have gives : x.toGive = some x.plan.parity := by simp [Tdu.toGive, Tdu.atLine, ho, he, hw, hg, hr]
  simp [Tdu.give, gives, he, hw, Tdu.giveField]

theorem give_nothing {o : OpenLine} (ho : x.openLine = some o) (he : x.early = none) (hw : x.owed = none)
    (hg : x.plan.given = true) (sys : System) : x.give sys = x := by
  have gives : x.toGive = none := by simp [Tdu.toGive, ho, he, hw, hg]
  simp [Tdu.give, gives]

theorem agrees_iff {line0 : Nat} {parity : Parity} (p : Plan) :
    p.agrees line0 parity = true ↔ p.line = line0 ∧ p.parity = parity := by
  simp [Plan.agrees]

theorem nextPlan_eq (sys : System) (line0 : Nat) (parity : Parity) : nextPlan sys line0 parity =
    ⟨line0 + nominalCount sys parity, if parity = .first then .second else .first, false, false⟩ := by
  cases parity <;> rfl

/-- Settles O20. -/
theorem deliveredPulsesAndBoundaries : Obligations.DeliveredPulsesAndBoundaries := by
  unfold Obligations.DeliveredPulsesAndBoundaries
  refine ⟨fun s h => ⟨next_running h _, next_running h _⟩, fun o s => ?_, fun sys n line0 parity mark x => ?_,
    fun tk s => rfl⟩
  · dsimp only
    intro h ho
    rw [exec_deliveredBoundaryGiven h]
    refine ⟨fun he hw hg hr => ?_, fun w he hw hr => ?_, fun p he => ?_, fun he hw hg => ?_⟩
    · rw [give_planned ho he hw hg hr]
      rfl
    · rw [give_owed ho he hw hr]
      rfl
    · rw [give_early ho he]
      rfl
    · rw [give_nothing ho he hw hg]
      rfl
  · intro t next kept agrees
    have hnext : nextPlan sys line0 parity = next := nextPlan_eq sys line0 parity
    have replans : x.replan n next = { x with plan := next, applyAt := kept } := rfl
    have boundary : t = if x.plan.agrees line0 parity then
        if x.plan.given then { x.replan n next with slipField := x.slipField || mark }
        else { x.replan n next with owed := some { x.plan with stepped := x.plan.stepped || mark } }
      else if x.plan.given then { x.replan n next with delParity := parity, slipField := true }
      else { x with early := some parity, applyNext := true, plan := next } := hnext ▸ rfl
    rw [boundary, replans]
    refine ⟨fun ha hg => ?_, fun ha hg => ?_, fun ha hg => ?_, fun ha hg => ?_⟩
    · rw [if_pos ((agrees_iff _).mpr ha), if_pos hg]
    · rw [if_pos ((agrees_iff _).mpr ha), if_neg (by simp [hg])]
    · rw [if_neg (mt (agrees_iff _).mp ha), if_pos hg]
    · rw [if_neg (mt (agrees_iff _).mp ha), if_neg (by simp [hg])]

/-! ## Pixel clock edges (R86, R170, R171) -/

theorem stepPixel_eq {o : OpenLine} (ho : x.openLine = some o) : x.stepPixel = { x with
    openLine := some { o with
      pixel := o.pixel + 1
      edge := o.edgeTick
      period := if o.pixel = 0 then none else some (tsDiff o.edgeTick o.edge) }
    vsyncLeft := if o.pixel = o.ppl / 2 then x.vsyncLeft - 1 else x.vsyncLeft } := by
  unfold Tdu.stepPixel
  rw [ho]
  dsimp only
  by_cases hh : o.pixel = o.ppl / 2
  · rw [if_pos hh, if_pos hh]
    rfl
  · rw [if_neg hh, if_neg hh]
    rfl

theorem pixelEdge_eq {o : OpenLine} (ho : s.time.tdu.openLine = some o) (transp : Bool) : s.pixelEdge transp =
    if o.pixel < o.ppl then { s with
      time := { s.time with tdu := s.time.tdu.stepPixel }
      desk := { s.desk with ky := s.desk.ky.shift (s.desk.decision transp o.pixel) } } else s := by
  rw [State.pixelEdge, ho] <;> rfl

/-- Every decision in the delay line but the oldest waits one edge longer. -/
theorem key_foldl_shift (later : List Bool) (dec : Bool) : ∀ (ahead behind : List Bool) (k : Ky),
    k.delay = ahead ++ dec :: behind → later.length = ahead.length + 1 → (later.foldl (fun x b => x.shift b) k).key = dec := by
  induction later with
  | nil => intro ahead behind k _ hlen; cases hlen
  | cons b later ih =>
    intro ahead behind k hk hlen
    rw [List.length_cons, Nat.add_right_cancel_iff] at hlen
    cases ahead with
    | nil =>
      rw [List.length_nil, List.length_eq_zero_iff] at hlen
      rw [hlen, List.foldl_cons, List.foldl_nil, Ky.shift, hk]
      rfl
    | cons a ahead =>
      rw [List.foldl_cons]
      refine ih ahead (behind ++ [b]) (k.shift b) ?_ hlen
      rw [Ky.shift, hk]
      exact List.append_assoc ..

theorem tsDiff_add_ofInt (a : Ts) {c : Int} (h : c.natAbs < 524288) : tsDiff (a + BitVec.ofInt 20 c) a = c := by
  have cancel : a + BitVec.ofInt 20 c - a = BitVec.ofInt 20 c := by
    rw [BitVec.add_comm, BitVec.add_sub_cancel]
  rw [tsDiff, cancel, BitVec.toInt_ofInt, Int.bmod_def]
  omega

/-- Rounding a quotient in other terms. -/
theorem roundR_mul (a : Int) {b m : Nat} (hm : 0 < m) : roundR (a * m) (b * m) = roundR a b := by
  unfold roundR
  have hm' : (0 : Int) < m := by exact_mod_cast hm
  rw [show 2 * (a * m) + ((b * m : Nat) : Int) = (2 * a + b) * m by push_cast; ring,
    show (2 : Int) * ((b * m : Nat) : Int) = 2 * b * m by push_cast; ring, Int.mul_ediv_mul_of_pos_left _ _ hm']

/-- The pixel's decision as the statement of O21 writes it. -/
theorem decision_eq (d : Desk) (transp : Bool) (pixel : Int) : d.decision transp pixel =
    (d.ky.permitted && !(d.ky.stop == .acting) && !d.cbi.muted && d.hp.configured && d.pt.joinQuiet == 0 &&
      d.ky.line.spans.any (fun w => decide (w.left ≤ pixel) && decide (pixel ≤ w.right) &&
        (w.kind == .fill || !transp))) := by
  have stopped : (!d.keyingStopped) = (!(d.ky.stop == .acting) && !d.cbi.muted && d.hp.configured) := by
    simp [Desk.keyingStopped, Bool.not_or]
  unfold Desk.decision Span.keys Span.holds
  rw [stopped]
  simp only [Bool.and_assoc]

/-- The exact place of an edge of a line whose length is not yet fixed. -/
theorem placeTick_of_open {o : OpenLine} (hl : o.len = none) (hi : o.baseIx = 0) (hn : o.baseNum = 0) (hp : 0 < o.ppl) :
    o.placeTick =
      BitVec.ofInt 20 (roundR ((o.start.toNat : Int) * o.ppl + (o.pixel : Int) * o.prov) (256 * o.ppl)) := by
  rw [← roundR_mul _ hp]
  unfold OpenLine.placeTick
  rw [hl, hi, hn]
  simp only [Nat.sub_zero, Option.getD_none, Nat.cast_zero, sub_zero, add_zero]
  congr 2
  ring

/-- The edge that ends a line of fixed length lies at the line's end. -/
theorem placeTick_of_end {o : OpenLine} {len : Int} (hl : o.len = some len) (hi : o.baseIx < o.ppl) (hp : o.pixel = o.ppl) :
    o.placeTick = BitVec.ofInt 20 (roundR ((o.start.toNat : Int) + len) 256) := by
  have den : ((o.ppl - o.baseIx : Nat) : Int) = o.ppl - o.baseIx := by omega
  rw [← roundR_mul (m := o.ppl * (o.ppl - o.baseIx)) _ (Nat.mul_pos (by omega) (by omega)), ← Nat.mul_assoc]
  unfold OpenLine.placeTick
  rw [hl, hp]
  dsimp only [Option.getD_some]
  congr 2
  push_cast
  rw [den]
  ring

/-- Settles O21. -/
theorem pixelClockEdgeKeysOnePixel : Obligations.PixelClockEdgeKeysOnePixel := by
  unfold Obligations.PixelClockEdgeKeysOnePixel
  refine ⟨fun transp o s => ?_, fun k dec later hlen => ?_, fun o p hp hsmall => ?_, fun o => ⟨fun hp => ?_,
    placeTick_of_open, fun len => placeTick_of_end⟩⟩
  · dsimp only
    intro h ho
    have edge : exec (.pixelClockEdge transp) s = .next (s.pixelEdge transp) := next_running h _
    rw [edge, pixelEdge_eq ho, stepPixel_eq ho, decision_eq]
    refine ⟨fun hlt hk => ?_, fun old rest hlt hk => ?_, fun hge => ?_⟩
    · rw [if_pos hlt, Ky.shift, hk]
    · rw [if_pos hlt, Ky.shift, hk]
    · rw [if_neg (Nat.not_lt.mpr hge)]
  · cases hd : k.delay with
    | nil =>
      rw [hd, List.length_nil, List.length_eq_zero_iff] at hlen
      rw [hlen, List.foldl_nil, Ky.shift, hd]
    | cons old rest =>
      refine key_foldl_shift later dec rest [] _ ?_ (by rw [hlen, hd]; rfl)
      rw [Ky.shift, hd]
  · have edge : o.edgeTick = o.edge + BitVec.ofInt 20 (clampInt (p - 1) (p + 1) (tsDiff o.placeTick o.edge)) := by
      rw [OpenLine.edgeTick, hp]
    have low : p - 1 ≤ clampInt (p - 1) (p + 1) (tsDiff o.placeTick o.edge) := clampInt_ge _
    have high : clampInt (p - 1) (p + 1) (tsDiff o.placeTick o.edge) ≤ p + 1 := clampInt_le (by omega) _
    rw [edge]
    refine ⟨?_, fun hnear => ?_⟩
    · rw [tsDiff_add_ofInt _ (by omega)]
      omega
    · rw [clampInt_of_mem (by omega) (by omega), tsDiff, BitVec.ofInt_toInt]
      rw [BitVec.add_comm, BitVec.sub_add_cancel]
  · rw [OpenLine.edgeTick, hp]

end Sys2Proof.Machine

namespace Sys2Proof.Machine

variable {d : Desk} {c : Cbi} {s : State}

/-! ## The trigger -/

/-- Settles O22. -/
theorem triggerEdgeIsHeldOrCounted : Obligations.TriggerEdgeIsHeldOrCounted := by
  unfold Obligations.TriggerEdgeIsHeldOrCounted
  intro s h
  have edge : exec .trigFallingEdge s = .next (s.withDesk { s.desk with ce := s.desk.ce.triggerEdge }) := next_running h _
  rw [edge]
  constructor
  all_goals
    intro ht
    simp [Ce.triggerEdge, ht, satInc]

/-! ## The frame chosen (R112, R121) -/

theorem Desk.chosen_of_cannotSend (h : d.cbi.muted = true ∨ d.cbi.line = .fault) : d.chosen = none := if_pos h

theorem Desk.chosen_of_clear (hm : d.cbi.muted = false) (hl : d.cbi.line ≠ .fault) (hc : d.cbi.clearAtHead = true) :
    d.chosen = some (some .clear) := by
  simp [Desk.chosen, hm, hl, hc]

theorem Desk.chosen_of_unconfigured (hc : d.cbi.clearAtHead = false) (hf : d.hp.configured = false) : d.chosen = none := by
  simp [Desk.chosen, hc, hf]

theorem Desk.chosen_of_beacon (hm : d.cbi.muted = false) (hl : d.cbi.line ≠ .fault) (hc : d.cbi.clearAtHead = false)
    (hf : d.hp.configured = true) (hb : d.cbi.beaconDue = true) : d.chosen = some none := by
  simp [Desk.chosen, hm, hl, hc, hf, hb]

theorem Desk.chosen_of_queue (hm : d.cbi.muted = false) (hl : d.cbi.line ≠ .fault) (hf : d.hp.configured = true)
    (hb : d.cbi.beaconDue = false) {e : TxEntry} {rest : List TxEntry} (hq : d.cbi.txq = e :: rest) :
    d.chosen = some (some e.what) := by
  by_cases he : e.what = .clear <;> simp [Desk.chosen, Cbi.clearAtHead, hm, hl, hf, hb, hq, he]

theorem Desk.chosen_of_nothing (hb : d.cbi.beaconDue = false) (hq : d.cbi.txq = []) : d.chosen = none := by
  simp [Desk.chosen, Cbi.clearAtHead, hb, hq]

theorem clearAtHead_iff : c.clearAtHead = true ↔ ∃ e rest, c.txq = e :: rest ∧ e.what = .clear := by
  unfold Cbi.clearAtHead
  cases c.txq <;> simp

theorem clearAtHead_of_nil (hq : c.txq = []) : c.clearAtHead = false := by
  rw [Cbi.clearAtHead, hq]

/-- What a station that is not in FAULT has to send. -/
theorem Desk.chosen_isSome_iff (hl : d.cbi.line ≠ .fault) : d.chosen.isSome = true ↔ d.cbi.muted = false ∧
    (d.cbi.clearAtHead = true ∨ (d.hp.configured = true ∧ (d.cbi.beaconDue = true ∨ d.cbi.txq ≠ []))) := by
  cases hm : d.cbi.muted
  case true => simp [Desk.chosen_of_cannotSend (Or.inl hm)]
  case false =>
    cases hc : d.cbi.clearAtHead
    case true => simp [Desk.chosen_of_clear hm hl hc]
    case false =>
      cases hf : d.hp.configured
      case false => simp [Desk.chosen_of_unconfigured hc hf]
      case true =>
        cases hb : d.cbi.beaconDue
        case true => simp [Desk.chosen_of_beacon hm hl hc hf hb]
        case false =>
          cases hq : d.cbi.txq with
          | nil => simp [Desk.chosen_of_nothing hb hq]
          | cons e rest => simp [Desk.chosen_of_queue hm hl hf hb hq]

/-- In IDLE with no cell held the line is pulled for a frame that is chosen. -/
theorem clbPulled_of_idle (hl : s.desk.cbi.line = .idle) (hd : s.desk.cbi.wire.drive = 0) :
    s.clbPulled = s.desk.chosen.isSome := by
  simp [State.clbPulled, Desk.pulls, hl, hd]

theorem clbPulled_iff (hl : s.desk.cbi.line = .idle) (hd : s.desk.cbi.wire.drive = 0) : s.clbPulled = true ↔
    s.desk.cbi.muted = false ∧ ((∃ e rest, s.desk.cbi.txq = e :: rest ∧ e.what = .clear) ∨
      (s.desk.hp.configured = true ∧ (s.desk.cbi.beaconDue = true ∨ s.desk.cbi.txq ≠ []))) := by
  have hf : s.desk.cbi.line ≠ .fault := by
    rw [hl]
    decide
  rw [clbPulled_of_idle hl hd, Desk.chosen_isSome_iff hf, clearAtHead_iff]

/-! ## BUS_IDLE -/

theorem exec_busIdle (h : s.resetHeld = false) (hw : s.desk.cbi.line = .wait) :
    exec .busIdle s = .next (s.withDesk (s.desk.withCbi Cbi.enterIdle)) := by
  have idle : exec .busIdle s = .next (s.withDesk s.desk.becomeIdle) := next_running h _
  rw [idle, Desk.becomeIdle, if_pos hw]

theorem exec_busIdle_ignored (h : s.resetHeld = false) (hw : s.desk.cbi.line ≠ .wait) : exec .busIdle s = .next s := by
  have idle : exec .busIdle s = .next (s.withDesk s.desk.becomeIdle) := next_running h _
  rw [idle, Desk.becomeIdle, if_neg hw]
  rfl

theorem enterIdle_of_nil (hq : c.txq = []) :
    c.enterIdle = { c with line := .idle, burst := 0, wire := { c.wire with drive := 0 } } := by
  rw [Cbi.enterIdle, hq]
  rfl

theorem enterIdle_of_cons {e : TxEntry} {rest : List TxEntry} (hq : c.txq = e :: rest) :
    c.enterIdle = { c with line := .idle, wire := { c.wire with drive := 0 } } := by
  rw [Cbi.enterIdle, hq]
  rfl

/-! ## BUS_FIRST_FALL -/

/-- The wire at the first fall of a frame in which the station drives at least `low` more SCLK. -/
def Wire.begun (w : Wire) (low : Nat) : Wire :=
  { w with bits := [], tail := 0, sinceFall := 0, inCell := 0, sampled := false, drive := max w.drive low }

theorem exec_busFirstFall (h : s.resetHeld = false) :
    exec .busFirstFall s = .next (s.withDesk (s.desk.firstFall s.busView)) := next_running h _

theorem firstFall_ignored {v : BusView} (hl : d.cbi.line ≠ .idle) : d.firstFall v = d := if_neg hl

/-- The first bit that is sent is the rank bit: 0, and so a long cell, at first rank. -/
theorem cellDrive_rankBit {stn : Station} {a : Attempt} (hl : c.line = .contending) (ha : c.attempt = some a)
    (hb : c.wire.bits = []) (ht : c.wire.tail = 0) : c.cellDrive stn = if a.firstRank then 24 else 8 := by
  have bit : c.nextBit stn = some (!a.firstRank) := by
    simp [Cbi.nextBit, Cbi.inEndCells, hl, ha, hb, ht, frameBits, accessCode]
  rw [Cbi.cellDrive, bit]
  cases a.firstRank <;> rfl

/-- A station that receives a frame from its first fall holds no cell of it. -/
theorem cellDrive_receiving {stn : Station} (hl : c.line = .receiving) (ha : c.attempt = none) (ho : c.objected = false)
    (hb : c.wire.bits = []) : c.cellDrive stn = 0 := by
  simp [Cbi.cellDrive, Cbi.nextBit, Cbi.objects, hl, ha, ho, hb]

theorem firstFall_receives {v : BusView} (hl : d.cbi.line = .idle) (hc : d.chosen = none) :
    d.firstFall v = { d with cbi := { d.cbi with
      line := .receiving, attempt := none, objected := false, wire := d.cbi.wire.begun 0 } } := by
  have chosen : (d.withCbi (fun c => { c with wire := c.wire.startFrame })).chosen = none := hc
  rw [Desk.firstFall, if_pos hl, Desk.joinContest, chosen]
  dsimp only [Desk.withCbi, Cbi.joinCell]
  rw [cellDrive_receiving rfl rfl rfl rfl]
  rfl

/-- The attempt that contends from a first fall, and its first cell. -/
theorem firstFall_contends {v : BusView} {w : Option TxWhat} (hl : d.cbi.line = .idle) (hc : d.chosen = some w) :
    d.firstFall v = { d with cbi := { d.cbi with
      line := .contending, attempt := some (d.attemptOf v w), objected := false
      txq := if w.isSome then contendHead d.cbi.txq else d.cbi.txq
      burst := if (d.attemptOf v w).firstRank then 0 else d.cbi.burst
      wire := d.cbi.wire.begun (if (d.attemptOf v w).firstRank then 23 else 7) } } := by
  have chosen : (d.withCbi (fun c => { c with wire := c.wire.startFrame })).chosen = some w := hc
  rw [Desk.firstFall, if_pos hl, Desk.joinContest, chosen]
  have attempt : (d.withCbi (fun c => { c with wire := c.wire.startFrame })).attemptOf v w = d.attemptOf v w := by
    cases w with
    | none => rfl
    | some what => cases what <;> rfl
  dsimp only [Desk.contend]
  rw [attempt]
  dsimp only [Desk.withCbi, Cbi.joinCell]
  rw [cellDrive_rankBit (a := d.attemptOf v w) rfl rfl rfl rfl]
  cases (d.attemptOf v w).firstRank <;> rfl

/-- The first fall with the head of the queue chosen. -/
theorem firstFall_head {v : BusView} {e : TxEntry} {rest : List TxEntry} (hl : d.cbi.line = .idle)
    (hq : d.cbi.txq = e :: rest) (hc : d.chosen = some (some e.what)) :
    d.firstFall v = { d with cbi := { d.cbi with
      line := .contending, attempt := some (d.attemptOf v (some e.what)), objected := false
      txq := { e with stage := .contending } :: rest
      burst := if (d.attemptOf v (some e.what)).firstRank then 0 else d.cbi.burst
      wire := d.cbi.wire.begun (if (d.attemptOf v (some e.what)).firstRank then 23 else 7) } } := by
  rw [firstFall_contends hl hc, Option.isSome_some, if_pos rfl, hq]
  rfl

/-- The attempt of a frame of the queue other than a CLEAR. -/
theorem attemptOf_queued {v : BusView} {what : TxWhat} (hw : what ≠ .clear) : d.attemptOf v (some what) =
    ⟨decide (0 < d.cbi.allowance), !decide (0 < d.cbi.allowance) && decide (0 < d.cbi.burst), d.contentsOf v what⟩ := by
  have first : TxWhat.alwaysFirst (some what) = false := by
    simp [TxWhat.alwaysFirst, hw]
  rw [Desk.attemptOf, first, Bool.false_or]

/-- Settles O23. -/
theorem idleBusStartsTheContest : Obligations.IdleBusStartsTheContest := by
  unfold Obligations.IdleBusStartsTheContest
  refine ⟨fun s => ?_, fun s => fun hl hd => clbPulled_iff hl hd, fun s => ?_⟩
  · intro c free h
    refine ⟨fun hl hq hb => ?_, fun hl hq hb hm hf => ?_, fun e rest hl hq hm hf => ?_, exec_busIdle_ignored h⟩
    · rw [exec_busIdle h hl, Desk.withCbi, enterIdle_of_nil hq]
    · refine ⟨?_, (clbPulled_iff rfl rfl).mpr ⟨hm, Or.inr ⟨hf, Or.inl hb⟩⟩⟩
      rw [exec_busIdle h hl, Desk.withCbi, enterIdle_of_nil hq]
    · refine ⟨?_, (clbPulled_iff rfl rfl).mpr ⟨hm, Or.inr ⟨hf, Or.inr ?_⟩⟩⟩
      · rw [exec_busIdle h hl, Desk.withCbi, enterIdle_of_cons hq]
      · exact fun hn => List.cons_ne_nil e rest (hq.symm.trans hn)
  · intro c h begun carries
    have notFault (hl : c.line = .idle) : c.line ≠ .fault := by
      rw [hl]
      decide
    rw [exec_busFirstFall h]
    refine ⟨fun hl => ?_, fun hl hq hb => ?_, fun hl hq hb hm hf => ?_, fun e rest sent hl hq hs hb hm hf => ?_,
      fun e rest hl hq he hm => ?_⟩
    · rw [firstFall_ignored hl]
      rfl
    · rw [firstFall_receives hl (Desk.chosen_of_nothing hb hq)]
      rfl
    · rw [firstFall_contends hl (Desk.chosen_of_beacon hm (notFault hl) (clearAtHead_of_nil hq) hf hb)]
      rfl
    · have notClear : e.what ≠ .clear := by
        intro he
        rw [he] at hs
        exact hs
      have contents : s.desk.contentsOf s.busView e.what = sent := by
        match hw : e.what with
        | .claim i =>
          rw [hw] at hs
          exact hs.symm
        | .resend i =>
          rw [hw] at hs
          obtain ⟨q, hq, rfl⟩ := hs
          rw [Desk.contentsOf, hq]
          rfl
        | .withdraw i =>
          rw [hw] at hs
          exact hs.symm
        | .recall n i =>
          rw [hw] at hs
          exact hs.symm
        | .clear => exact absurd hw notClear
      rw [firstFall_head hl hq (Desk.chosen_of_queue hm (notFault hl) hf hb hq), attemptOf_queued notClear, contents]
      simp only [decide_eq_true_eq]
      rfl
    · have chosen := Desk.chosen_of_clear hm (notFault hl) (clearAtHead_iff.mpr ⟨e, rest, hq, he⟩)
      rw [← he] at chosen
      rw [firstFall_head hl hq chosen, he]
      rfl

end Sys2Proof.Machine

namespace Sys2Proof.Machine

/-! ## The rest of the bus interface

The work of the Cue Engine at a field boundary offers frames: of the bus interface it changes the queue and its pass-lock. -/

/-- Two bus interfaces that differ in the queue and its pass-lock at most. -/
def Cbi.Beside (c c' : Cbi) : Prop := c' = { c with txq := c'.txq, passLock := c'.passLock }

namespace Cbi.Beside

section
variable {c c' c'' : Cbi} {i : Slot} {owner : TxOwner}

theorem refl (c : Cbi) : c.Beside c := rfl

theorem trans (h : c.Beside c') (h' : c'.Beside c'') : c.Beside c'' := by
  unfold Cbi.Beside at *
  rw [h', h]

theorem of_eq (h : c' = c) : c.Beside c' := h ▸ refl c

theorem settle (es : List TxEntry) : c.Beside { c with txq := es }.settleLock := by
  unfold Cbi.settleLock
  split <;> rfl

theorem enqueueWithdraw : c.Beside (c.enqueueWithdraw i owner) := by
  unfold Cbi.enqueueWithdraw
  split <;> rfl

end

section
variable {d e : Desk} {fc : FieldCount} {i : Slot} {c : ChainNo}

theorem after (h : e.cbi.Beside c') (he : e.cbi = d.cbi) : d.cbi.Beside c' := he ▸ h

theorem fold {α : Type} (f : Desk → α → Desk) (hf : ∀ (x : Desk) a, x.cbi.Beside (f x a).cbi) (l : List α) :
    d.cbi.Beside (l.foldl f d).cbi := by
  induction l generalizing d with
  | nil => exact refl _
  | cons a l ih => exact (hf d a).trans ih

theorem tryStart : d.cbi.Beside (d.tryStart fc i).cbi := by
  unfold Desk.tryStart Desk.tryClaim
  dsimp only
  split
  · split
    · exact of_eq cbi_regionFull
    · split
      · exact refl _
      · unfold Desk.offerClaim
        split <;> exact refl _
  · exact refl _

theorem offerWithdraw : d.cbi.Beside (d.offerWithdraw i).cbi := by
  unfold Desk.offerWithdraw
  dsimp only
  split
  · exact enqueueWithdraw
  · exact refl _

theorem retry : d.cbi.Beside (d.retry fc).cbi :=
  (fold _ (fun _ _ => offerWithdraw) allSlots).trans (fold _ (fun _ _ => tryStart) allSlots)

theorem tryArmed : d.cbi.Beside (d.tryArmed fc c).cbi := by
  unfold Desk.tryArmed
  split
  · exact tryStart
  · exact refl _

theorem stepEnd (x : EndedCue) : d.cbi.Beside (d.stepEnd fc x).cbi := by
  unfold Desk.stepEnd Desk.beginEnd
  rw [cbi_checkChainOf]
  dsimp only
  split
  · exact offerWithdraw.after (by simp)
  · exact of_eq (by simp)

theorem boundaryEndings : d.cbi.Beside (d.boundaryEndings fc).cbi := by
  unfold Desk.boundaryEndings
  dsimp only
  rw [cbi_fold (Desk.stepSucceed fc) (fun _ e => cbi_stepSucceed e)]
  refine (fold (Desk.stepEnd fc) (fun _ => stepEnd) _).after ?_
  rw [cbi_fold Desk.countDown (fun _ _ => cbi_countDown), cbi_stepTrigger]

theorem stepPreroll : d.cbi.Beside (d.stepPreroll fc i).cbi := by
  unfold Desk.stepPreroll
  dsimp only
  split
  · split
    · exact tryArmed.after (cbi_succeed false)
    · exact refl _
  · exact refl _

theorem boundaryStarts (ripe : List Slot) : d.cbi.Beside (d.boundaryStarts fc ripe).cbi := by
  unfold Desk.boundaryStarts
  dsimp only
  refine trans (c' := _) ?_ (fold (Desk.stepPreroll fc) (fun _ _ => stepPreroll) allSlots)
  rw [cbi_fold (Desk.stepOnAir fc ripe) (fun _ _ => cbi_stepOnAir ripe)]
  exact retry.after (cbi_fold (fun x i => x.testStart fc i) (fun _ _ => cbi_testStart) allSlots)

theorem fieldBoundary (sys : System) (stn : Station) (p : Parity) (line : Nat) :
    (d.cbiBoundary sys p line).cbi.Beside (d.fieldBoundary sys stn fc p line).cbi := by
  unfold Desk.fieldBoundary
  rw [cbi_releaseStop, cbi_snapshot, cbi_ptBoundary]
  exact boundaryEndings.trans (boundaryStarts _)

end

end Cbi.Beside

variable {d : Desk} {c : Cbi} {s : State} {fc : FieldCount} {e : TxEntry} {rest : List TxEntry}

/-! ## The access code lost (R106) -/

theorem exec_arbitrationLost (h : s.resetHeld = false) :
    exec .arbitrationLost s = .next (s.withDesk (s.desk.loseAccess s.fc)) := next_running h _

theorem loseAccess_ignored (hl : d.cbi.line ≠ .contending) : d.loseAccess fc = d := if_neg hl

theorem loseAccess_eq (hl : d.cbi.line = .contending) : d.loseAccess fc = (d.withCbi Cbi.stopDriving).loseEntry fc :=
  if_pos hl

/-- A beacon, or a frame that has already left, loses alone. -/
theorem loseAccess_of_allWait (hl : d.cbi.line = .contending) (hw : ∀ x ∈ d.cbi.txq, x.stage = .waiting) :
    d.loseAccess fc = d.withCbi Cbi.stopDriving := by
  rw [loseAccess_eq hl]
  exact releaseEntry_of_allWait (d := d.withCbi Cbi.stopDriving) hw _

/-- The frame that lost waits again. -/
theorem loseAccess_of_head (hl : d.cbi.line = .contending) (hq : d.cbi.txq = e :: rest) (he : e.stage = .contending)
    (hw : ∀ x ∈ rest, x.stage = .waiting) (hr : e.removeAsked = false) (hd : e.doomed = false) (hs : e.silent = false) :
    d.loseAccess fc =
      d.withCbi (fun c => { c.stopDriving with txq := { e with stage := .waiting } :: rest }) := by
  rw [loseAccess_eq hl, Desk.loseEntry]
  refine releaseEntry_stays (d := d.withCbi Cbi.stopDriving) hq ?_ hw ?_
  · rw [he]
    decide
  · rw [hr, hd, hs]
    rfl

/-! ## The access code won (R106, R109, R110) -/

theorem exec_arbitrationWon (h : s.resetHeld = false) :
    exec .arbitrationWon s = .next (s.withDesk (s.desk.winAccess s.fc)) := next_running h _

/-- The head in flight. -/
theorem winAccess_of_head {a : Attempt} (hl : d.cbi.line = .contending) (ha : d.cbi.attempt = some a)
    (hq : d.cbi.txq = e :: rest) (he : e.stage = .contending) (hw : ∀ x ∈ rest, x.stage = .waiting) :
    d.winAccess fc = (d.withCbi (fun c => { c with
      line := .sending, txq := { e with stage := .inFlight, removeAsked := false } :: rest })).charge fc a := by
  have stage : e.stage ≠ .waiting := by
    rw [he]
    decide
  unfold Desk.winAccess
  rw [if_pos hl, ha]
  dsimp only [Desk.withCbi]
  rw [modActive_of_head hq stage hw]

theorem winAccess_of_nil {a : Attempt} (hl : d.cbi.line = .contending) (ha : d.cbi.attempt = some a)
    (hq : d.cbi.txq = []) : d.winAccess fc = (d.withCbi (fun c => { c with line := .sending })).charge fc a := by
  unfold Desk.winAccess
  rw [if_pos hl, ha]
  dsimp only [Desk.withCbi, Cbi.modActive]
  rw [hq, List.map_nil, ← hq]

/-- The frames that the allowance and the bursts count: CLAIM, WITHDRAW and RECALL. -/
def FrameContents.counted (f : FrameContents) : Prop :=
  (∃ q resend, f = .claim q resend) ∨ (∃ i, f = .withdraw i) ∨ ∃ target i, f = .recall target i

theorem charge_counted {a : Attempt} (hc : a.contents.counted) : d.charge fc a =
    if a.firstRank then d.debit fc
    else d.withCbi (fun c => { c with burst := if a.continuing then c.burst - 1 else 3 }) := by
  obtain ⟨q, resend, hc⟩ | ⟨i, hc⟩ | ⟨n, i, hc⟩ := hc
  all_goals rw [Desk.charge, hc]

theorem debit_of_more (h : 1 < d.cbi.allowance) :
    d.debit fc = d.withCbi (fun c => { c with allowance := d.cbi.allowance - 1 }) :=
  if_neg (fun hz => absurd hz.1 (Nat.sub_ne_zero_of_lt h))

theorem debit_of_last (h : d.cbi.allowance = 1) (hp : d.cbi.spentPosted = false) :
    d.debit fc = (d.withCbi (fun c => { c with allowance := 0, spentPosted := true })).post fc
      (.allowanceSpent fc d.cbi.txq.length) := by
  unfold Desk.debit
  dsimp only
  rw [h, if_pos ⟨rfl, hp⟩]
  rfl

theorem debit_of_posted (h : d.cbi.allowance = 1) (hp : d.cbi.spentPosted = true) :
    d.debit fc = d.withCbi (fun c => { c with allowance := 0 }) := by
  unfold Desk.debit
  dsimp only
  rw [h, if_neg (fun hz => Bool.false_ne_true (hz.2.symm.trans hp))]

/-! ## The beacon-due flag (R109 to R111) -/

theorem maySend_iff : d.maySend = true ↔ d.hp.configured = true ∧ d.cbi.muted = false ∧ d.cbi.line ≠ .fault := by
  simp [Desk.maySend, and_assoc]

theorem mayBeDue_iff : d.mayBeDue = true ↔
    (d.hp.configured = true ∧ d.cbi.muted = false ∧ d.cbi.line ≠ .fault) ∧ d.cbi.beaconSent = false ∧
      d.cbi.beaconDue = false := by
  simp [Desk.mayBeDue, ← maySend_iff, and_assoc]

theorem setDue_of_may (h : d.mayBeDue = true) :
    d.setDue = d.withCbi (fun c => { c with beaconDue := true, beaconAttempts := 0 }) := if_pos h

theorem setDue_of_mayNot (h : ¬ d.mayBeDue = true) : d.setDue = d := if_neg h

theorem inBeaconWindow_iff {sys : System} {p : Parity} {line : Nat} :
    inBeaconWindow sys p line = true ↔ 10 ≤ line ∧ line ≤ nominalCount sys p - 10 := by
  rw [inBeaconWindow, Bool.and_eq_true, decide_eq_true_iff, decide_eq_true_iff, beaconWindowEnd]

/-- The bus interface of a field that has just begun, before the window is looked at. -/
def Cbi.newField (c : Cbi) : Cbi :=
  { c with allowance := 4, spentPosted := false, burst := 0, beaconSent := false, beaconDue := false }

theorem cbiBoundary_eq (sys : System) (p : Parity) (line : Nat) (d : Desk) :
    d.cbiBoundary sys p line = (d.withCbi Cbi.newField).setDueInWindow sys p line := rfl

theorem cbiBoundary_due {sys : System} {p : Parity} {line : Nat}
    (hm : d.hp.configured = true ∧ d.cbi.muted = false ∧ d.cbi.line ≠ .fault)
    (hw : 10 ≤ line ∧ line ≤ nominalCount sys p - 10) : d.cbiBoundary sys p line =
      d.withCbi (fun c => { c.newField with beaconDue := true, beaconAttempts := 0 }) := by
  rw [cbiBoundary_eq, Desk.setDueInWindow, if_pos (inBeaconWindow_iff.mpr hw)]
  exact setDue_of_may (d := d.withCbi Cbi.newField) (mayBeDue_iff.mpr ⟨hm, rfl, rfl⟩)

theorem cbiBoundary_waits {sys : System} {p : Parity} {line : Nat}
    (h : ¬ ((d.hp.configured = true ∧ d.cbi.muted = false ∧ d.cbi.line ≠ .fault) ∧
      10 ≤ line ∧ line ≤ nominalCount sys p - 10)) : d.cbiBoundary sys p line = d.withCbi Cbi.newField := by
  rw [cbiBoundary_eq, Desk.setDueInWindow]
  split
  next hw =>
    refine setDue_of_mayNot (d := d.withCbi Cbi.newField) fun hm => h ⟨?_, inBeaconWindow_iff.mp hw⟩
    obtain ⟨hmay, -, -⟩ := mayBeDue_iff.mp hm
    exact hmay
  next => rfl

/-- The window closes after line 10. -/
theorem windowEnd_ne_ten (sys : System) (p : Parity) : nominalCount sys p - 10 + 1 ≠ 10 := by
  cases sys <;> cases p <;> decide

theorem cbiLine_open (sys : System) (p : Parity) (d : Desk) : d.cbiLine sys p 10 = d.setDue := if_pos rfl

theorem cbiLine_close (sys : System) (p : Parity) (d : Desk) : d.cbiLine sys p (nominalCount sys p - 10 + 1) =
    d.withCbi (fun c => { c with beaconDue := false }) :=
  (if_neg (windowEnd_ne_ten sys p)).trans (if_pos rfl)

theorem cbiLine_other {sys : System} {p : Parity} {line : Nat} (h : line ≠ 10) (hl : line ≠ nominalCount sys p - 10 + 1) :
    d.cbiLine sys p line = d := (if_neg h).trans (if_neg hl)

/-- What a line boundary makes of the bus interface depends on it and on the configuration. -/
theorem cbi_cbiLine_congr {d d' : Desk} (hc : d'.cbi = d.cbi) (hf : d'.hp.configured = d.hp.configured) (sys : System)
    (p : Parity) (line : Nat) : (d'.cbiLine sys p line).cbi = (d.cbiLine sys p line).cbi := by
  have may : d'.mayBeDue = d.mayBeDue := by
    unfold Desk.mayBeDue Desk.maySend
    rw [hc, hf]
  unfold Desk.cbiLine Desk.setDue
  rw [may]
  split
  · split
    · rw [withCbi_cbi, withCbi_cbi, hc]
    · exact hc
  · split
    · rw [withCbi_cbi, withCbi_cbi, hc]
    · exact hc

theorem Desk.Leaves.configured {d e : Desk} (h : d.Leaves e) : e.hp.configured = d.hp.configured := by
  rw [h.hp]

/-- The reports and notices of a closed line leave the bus interface and the configuration. -/
theorem desk_handOver_closeLine (time : Ts) (step : Int) (s : State) :
    ((s.closeLine time).1.handOver step).1.desk.cbi = s.desk.cbi ∧
    ((s.closeLine time).1.handOver step).1.desk.hp.configured = s.desk.hp.configured := by
  unfold State.closeLine State.handOver
  dsimp only [State.onTime]
  generalize s.time.closeLine s.sys s.straps.tape time = closed
  generalize Tdu.handOver .. = h
  constructor
  · rw [cbi_postAll, cbi_itemsLeft, cbi_postAll, cbi_postAll]
  · refine ((?_ : Desk.Work false s.desk _).leaves).configured
    exact (((Desk.Work.postAll _).trans (Desk.Work.postAll _)).trans (Desk.Work.itemsLeft _)).trans (Desk.Work.postAll _)

theorem desk_lineWork_cbi (hcoast : s.time.ft.coastsNow s.sys s.straps.tape = false) (time : Ts) :
    (s.lineWork time).desk.cbi = (s.desk.cbiLine s.sys s.time.ft.parity (s.time.ft.counter + 1)).cbi := by
  obtain ⟨hc, hf⟩ := desk_handOver_closeLine time (s.closeLine time).2.step s
  obtain ⟨b, x, d, heq⟩ := handOver_closeLine_eq time (s.closeLine time).2.step s
  rw [lineWork_of_not_coasting hcoast, ← cbi_cbiLine_congr hc hf]
  unfold State.buildList State.openLine
  dsimp only [State.onDesk]
  rw [heq]
  rfl

/-- Settles O24. -/
theorem arbitrationAndTheFieldsAllowance : Obligations.ArbitrationAndTheFieldsAllowance := by
  unfold Obligations.ArbitrationAndTheFieldsAllowance
  refine ⟨fun s => ?_, fun a s => ?_, fun sys p line d => ?_, fun sys stn fc p line d => Cbi.Beside.fieldBoundary sys stn p line,
    fun time s h hfree hcoast => ⟨_, exec_lineBoundary h hfree time, desk_lineWork_cbi hcoast time⟩⟩
  · intro c h
    rw [exec_arbitrationLost h]
    refine ⟨fun hl => ?_, fun hl hw => ?_, fun e rest hl hq he hw hr hd hs => ?_⟩
    · rw [loseAccess_ignored hl]
      rfl
    · rw [loseAccess_of_allWait hl hw]
      rfl
    · rw [loseAccess_of_head hl hq he hw hr hd hs]
      rfl
  · intro c h hl ha
    rw [exec_arbitrationWon h]
    refine ⟨fun b hb hq => ?_, fun e rest hq he hw => ?_⟩
    · rw [winAccess_of_nil hl ha hq, Desk.charge, hb]
      rfl
    · rw [winAccess_of_head hl ha hq he hw]
      intro flying counted
      refine ⟨fun hc => ?_, fun hc hf hal => ?_, fun hc hf hal hp => ?_, fun hc hf hal hp => ?_, fun hc hf hcont => ?_,
        fun hc hf hcont => ?_⟩
      · rw [Desk.charge, hc]
        rfl
      · rw [charge_counted hc, if_pos hf]
        exact congrArg (fun d => Host.Outcome.next (s.withDesk d)) (debit_of_more (by exact hal))
      · rw [charge_counted hc, if_pos hf]
        exact congrArg (fun d => Host.Outcome.next (s.withDesk d)) (debit_of_last (by exact hal) (by exact hp))
      · rw [charge_counted hc, if_pos hf]
        exact congrArg (fun d => Host.Outcome.next (s.withDesk d)) (debit_of_posted (by exact hal) (by exact hp))
      · rw [charge_counted hc, hf, hcont]
        rfl
      · rw [charge_counted hc, hf, hcont]
        rfl
  · intro c last may due fresh
    refine ⟨fun hm hlo hhi => cbiBoundary_due hm ⟨hlo, hhi⟩, cbiBoundary_waits, fun hm hs hd => ?_, fun hn => ?_,
      cbiLine_close sys p d, cbiLine_other⟩
    · rw [cbiLine_open, setDue_of_may (mayBeDue_iff.mpr ⟨hm, hs, hd⟩)]
      rfl
    · rw [cbiLine_open]
      refine setDue_of_mayNot fun hm => ?_
      obtain ⟨hmay, hs, hd⟩ := mayBeDue_iff.mp hm
      rcases hn with hn | hn | hn
      · exact hn hmay
      · exact Bool.false_ne_true (hs.symm.trans hn)
      · exact Bool.false_ne_true (hd.symm.trans hn)

end Sys2Proof.Machine

namespace Sys2Proof.Machine

variable {d : Desk} {c : Cbi} {s : State} {fc : FieldCount} {e : TxEntry} {rest : List TxEntry}

/-! ## Slots changed one after the other -/

/-- A sweep that changes each slot by itself. -/
theorem slot_sweep (f : Slot → CueSlot → CueSlot) (i : Slot) {l : List Slot} (hn : l.Nodup) (d : Desk) :
    (l.foldl (fun x j => x.modSlot j (f j)) d).slot i = if i ∈ l then f i (d.slot i) else d.slot i := by
  induction l generalizing d with
  | nil => rfl
  | cons j l ih =>
    obtain ⟨hj, hl⟩ := List.nodup_cons.mp hn
    rw [List.foldl_cons, ih hl, slot_modSlot]
    by_cases h : j = i
    · subst h
      simp [hj]
    · simp [h, Ne.symm h]

/-- A sweep over slots changes nothing else. -/
theorem sweep_eq (f : Slot → CueSlot → CueSlot) (l : List Slot) (d : Desk) :
    ∃ slots, l.foldl (fun x j => x.modSlot j (f j)) d = { d with ce := { d.ce with slots := slots } } := by
  induction l generalizing d with
  | nil => exact ⟨d.ce.slots, rfl⟩
  | cons j l ih =>
    obtain ⟨slots, h⟩ := ih (d.modSlot j (f j))
    exact ⟨slots, h⟩

theorem beaconSent_eq (b : Beacon) (d : Desk) :
    ∃ slots, d.beaconSent b = { d with ce := { d.ce with slots := slots } } := sweep_eq _ _ d

theorem slot_beaconSent (b : Beacon) (i : Slot) (d : Desk) :
    (d.beaconSent b).slot i = CueSlot.takeBeacon b i (d.slot i) := by
  rw [Desk.beaconSent, allSlots, slot_sweep (CueSlot.takeBeacon b) i (List.nodup_finRange 32), if_pos (List.mem_finRange i)]

/-! ## The queue once its flying frame is gone -/

theorem settleLock_of_flying (hf : c.queueFlies = true) : c.settleLock = c := by
  simp [Cbi.settleLock, hf]

theorem settleLock_of_grounded (hf : c.queueFlies = false) :
    c.settleLock = { c with passLock := if c.txq = [] then false else c.passLock } := by
  unfold Cbi.settleLock
  by_cases hq : c.txq = []
  · simp [hf, hq]
  · simp [hq]

/-- A settled lock is settled, and the count of abandoned frames has no part in it. -/
theorem settleLock_countAbandoned (c : Cbi) : c.settleLock.countAbandoned.settleLock = c.settleLock.countAbandoned := by
  cases hf : c.queueFlies with
  | true =>
    rw [settleLock_of_flying hf]
    exact settleLock_of_flying (c := c.countAbandoned) hf
  | false =>
    rw [settleLock_of_grounded hf]
    refine (settleLock_of_grounded (by exact hf)).trans ?_
    unfold Cbi.countAbandoned
    by_cases hq : c.txq = []
    · simp [hq]
    · simp [hq]

theorem fromQueue_of_not_beacon {f : FrameContents} (h : ∀ b, f ≠ .beacon b) : f.fromQueue = true := by
  cases f with
  | beacon b => exact absurd rfl (h b)
  | _ => rfl

theorem queueFlies_of_queued {a : Attempt} (hl : c.line = .sending) (ha : c.attempt = some a)
    (hb : ∀ b, a.contents ≠ .beacon b) : c.queueFlies = true := by
  simp [Cbi.queueFlies, hl, ha, fromQueue_of_not_beacon hb]

theorem queueFlies_of_beacon {a : Attempt} {b : Beacon} (ha : c.attempt = some a) (hb : a.contents = .beacon b) :
    c.queueFlies = false := by
  simp [Cbi.queueFlies, ha, hb, FrameContents.fromQueue]

/-- The end of an own frame that is not of the queue. -/
theorem endOwnFrame_of_grounded (hl : d.cbi.line = .sending) (hf : d.cbi.queueFlies = false) :
    d.endOwnFrame fc = d.withCbi Cbi.leaveFrame := by
  unfold Desk.endOwnFrame
  rw [if_pos hl, hf]
  rfl

/-- The end of an own frame that has left the queue. -/
theorem endOwnFrame_of_gone (hl : d.cbi.line = .sending) (hf : d.cbi.queueFlies = true)
    (hw : ∀ x ∈ d.cbi.txq, x.stage = .waiting) : d.endOwnFrame fc = d.withCbi (fun c =>
      { c.leaveFrame with passLock := if c.txq = [] then false else c.passLock }) := by
  rw [endOwnFrame_of_allWait hl hw, if_pos hf, settleLock_of_grounded (queueFlies_of_no_attempt rfl)]
  rfl

/-- The end of an own frame that waits again. -/
theorem endOwnFrame_of_kept (hl : d.cbi.line = .sending) (hf : d.cbi.queueFlies = true) (hq : d.cbi.txq = e :: rest)
    (he : e.stage = .inFlight) (hw : ∀ x ∈ rest, x.stage = .waiting) (hd : e.doomed = false) (hs : e.silent = false) :
    d.endOwnFrame fc = d.withCbi (fun c => { c.leaveFrame with txq := { e with stage := .waiting } :: rest }) := by
  unfold Desk.endOwnFrame
  rw [if_pos hl, if_pos hf]
  have flying : e.stage ≠ .waiting := by
    rw [he]
    decide
  have stays : (fun x : TxEntry => x.doomed || x.silent) e = false := by
    dsimp only
    rw [hd, hs]
    rfl
  dsimp only [Desk.landEntry]
  rw [releaseEntry_stays (d := d.withCbi Cbi.leaveFrame) hq flying hw stays]
  dsimp only [Desk.withCbi]
  rw [settleLock_of_entry (List.cons_ne_nil _ _)]

/-! ## ATTEMPT_SUCCEEDED (R108) -/

theorem exec_attemptSucceeded (h : s.resetHeld = false) :
    exec .attemptSucceeded s = .next (s.withDesk (s.desk.succeedAttempt s.fc)) := next_running h _

theorem succeedAttempt_of_sending (hl : d.cbi.line = .sending) :
    d.succeedAttempt fc = (d.attemptSent fc).endOwnFrame fc := if_pos hl

theorem succeedAttempt_of_beacon {a : Attempt} {b : Beacon} (hl : d.cbi.line = .sending) (ha : d.cbi.attempt = some a)
    (hb : a.contents = .beacon b) : d.succeedAttempt fc = (d.beaconDone b).withCbi Cbi.leaveFrame := by
  have sent : d.attemptSent fc = d.beaconDone b := by
    rw [Desk.attemptSent, ha]
    dsimp only
    rw [hb]
  have cbi : (d.beaconDone b).cbi = { d.cbi with beaconSent := true, beaconDue := false } := by
    rw [Desk.beaconDone, cbi_beaconSent]
    rfl
  rw [succeedAttempt_of_sending hl, sent]
  refine endOwnFrame_of_grounded ?_ ?_
  · rw [cbi]
    exact hl
  · rw [cbi]
    exact queueFlies_of_beacon (c := { d.cbi with beaconSent := true, beaconDue := false }) ha hb

/-- A frame of the queue that is sent leaves it, and its owner is told. -/
theorem attemptSent_of_head {a : Attempt} (ha : d.cbi.attempt = some a)
    (hb : ∀ b, a.contents ≠ .beacon b) (hq : d.cbi.txq = e :: rest) (he : e.stage = .inFlight) :
    d.attemptSent fc = (d.leaveQueue fc e).tellSent fc e a.contents := by
  have flying : e.stage ≠ .waiting := by
    rw [he]
    decide
  rw [Desk.attemptSent, ha]
  dsimp only
  rw [active_of_head hq flying]
  cases hc : a.contents with
  | beacon b => exact absurd hc (hb b)
  | _ => rfl

/-- A flying frame without a mark leaves the queue and its lock. -/
theorem leaveQueue_of_flying (hf : d.cbi.queueFlies = true) (hq : d.cbi.txq = e :: rest) (he : e.stage = .inFlight)
    (hw : ∀ x ∈ rest, x.stage = .waiting) (hm : e.marked = false) :
    d.leaveQueue fc e = d.withCbi (fun c => { c with txq := rest }) := by
  have flying : e.stage ≠ .waiting := by
    rw [he]
    decide
  have settled : ({ d.cbi with txq := rest } : Cbi).settleLock = { d.cbi with txq := rest } := settleLock_of_flying (by exact hf)
  rw [leaveQueue_of_head hq flying hw hm, settled]
  rfl

theorem tells_of_peerTable (h : e.owner = .peerTable) : e.tells = false := by
  rw [TxEntry.tells, h]
  rfl

theorem tellSent_silent (h : e.tells = false) (f : FrameContents) : d.tellSent fc e f = d := by
  unfold Desk.tellSent
  simp only [h, Bool.false_eq_true, if_false]

theorem tellAbandoned_silent (h : e.tells = false) : d.tellAbandoned fc e = d := by
  unfold Desk.tellAbandoned
  simp only [h, Bool.false_eq_true, if_false]

/-- A frame of the Peer Table is sent. -/
theorem succeedAttempt_of_peerTable {a : Attempt} (hl : d.cbi.line = .sending) (ha : d.cbi.attempt = some a)
    (hb : ∀ b, a.contents ≠ .beacon b) (hq : d.cbi.txq = e :: rest) (he : e.stage = .inFlight)
    (hw : ∀ x ∈ rest, x.stage = .waiting) (ho : e.owner = .peerTable) (hm : e.marked = false) :
    d.succeedAttempt fc = d.withCbi (fun c => { c.leaveFrame with
      txq := rest, passLock := if rest = [] then false else c.passLock }) := by
  have flies := queueFlies_of_queued hl ha hb
  rw [succeedAttempt_of_sending hl, attemptSent_of_head ha hb hq he, leaveQueue_of_flying flies hq he hw hm,
    tellSent_silent (tells_of_peerTable ho)]
  exact endOwnFrame_of_gone (d := d.withCbi (fun c => { c with txq := rest })) hl flies hw

/-! ## ATTEMPT_FAILED (R108) -/

theorem exec_attemptFailed (h : s.resetHeld = false) (collision : Bool) :
    exec (.attemptFailed collision) s = .next (s.withDesk (s.desk.failAttempt s.fc collision)) := next_running h _

/-- The bus interface of a station whose attempt has failed, and that drives nothing more. -/
def Cbi.afterFailure (collision : Bool) (c : Cbi) : Cbi :=
  { c with
    line := if collision then .receiving else .wait
    attempt := none
    objected := false
    wire := { c.wire with drive := 0 } }

theorem beaconFailed_again (hd : c.beaconDue = true) (hn : c.beaconAttempts < 3) :
    c.beaconFailed = { c with beaconAttempts := c.beaconAttempts + 1 } := by
  rw [Cbi.beaconFailed, if_pos hd, if_neg (Nat.not_le.mpr (Nat.succ_lt_succ hn))]

theorem beaconFailed_last (hd : c.beaconDue = true) (hn : c.beaconAttempts = 3) :
    c.beaconFailed = { c with beaconDue := false, beaconAttempts := 4, abandoned := c.abandoned.inc } := by
  rw [Cbi.beaconFailed, if_pos hd, hn]
  rfl

theorem countFailure_of_beacon {a : Attempt} {b : Beacon} (hb : a.contents = .beacon b) :
    d.countFailure fc (some a) = d.withCbi Cbi.beaconFailed := by
  rw [Desk.countFailure]
  rw [hb]

theorem countFailure_of_queued {a : Attempt} (hb : ∀ b, a.contents ≠ .beacon b) :
    d.countFailure fc (some a) = (d.failEntry fc).withCbi Cbi.settleLock := by
  rw [Desk.countFailure]
  cases hc : a.contents with
  | beacon b => exact absurd hc (hb b)
  | _ => rfl

/-- What a failed beacon attempt changes in the interface does not touch the line. -/
theorem beaconFailed_frame (c : Cbi) : ∃ due n lost,
    c.beaconFailed = { c with beaconDue := due, beaconAttempts := n, abandoned := lost } ∧
    ∀ line attempt objected wire,
      ({ c with line := line, attempt := attempt, objected := objected, wire := wire } : Cbi).beaconFailed =
        { c.beaconFailed with line := line, attempt := attempt, objected := objected, wire := wire } := by
  unfold Cbi.beaconFailed
  dsimp only
  split
  · split
    · exact ⟨_, _, _, rfl, fun _ _ _ _ => rfl⟩
    · exact ⟨_, _, _, rfl, fun _ _ _ _ => rfl⟩
  · exact ⟨_, _, _, rfl, fun _ _ _ _ => rfl⟩

/-- A beacon fails by a collision or by an objection: the same count. -/
theorem failAttempt_of_beacon {a : Attempt} {b : Beacon} (hl : d.cbi.line = .sending) (ha : d.cbi.attempt = some a)
    (hb : a.contents = .beacon b) (collision : Bool) :
    d.failAttempt fc collision = d.withCbi (fun c => c.beaconFailed.afterFailure collision) := by
  obtain ⟨due, n, lost, hfail, hframe⟩ := beaconFailed_frame d.cbi
  rw [Desk.failAttempt, if_pos hl]
  cases collision with
  | true =>
    rw [if_pos rfl, Desk.collide, ha, countFailure_of_beacon hb]
    dsimp only [Desk.withCbi, Cbi.stopDriving]
    rw [hframe, hfail]
    rfl
  | false =>
    rw [if_neg Bool.false_ne_true, Desk.attemptObjected, ha, countFailure_of_beacon hb]
    have cbi : ((d.withCbi (fun c => { c with objected := false })).withCbi Cbi.beaconFailed).cbi =
        { d.cbi.beaconFailed with objected := false } := hframe d.cbi.line d.cbi.attempt false d.cbi.wire |>.trans (by rw [hfail])
    rw [endOwnFrame_of_grounded]
    · dsimp only [Desk.withCbi] at cbi ⊢
      rw [cbi, hfail]
      rfl
    · rw [cbi, hfail]
      exact hl
    · rw [cbi, hfail]
      exact queueFlies_of_beacon ha hb

theorem failEntry_again (hq : d.cbi.txq = e :: rest) (he : e.stage = .inFlight) (hw : ∀ x ∈ rest, x.stage = .waiting)
    (hs : e.silent = false) (hd : e.doomed = false) (hn : e.attempts < 3) :
    d.failEntry fc = d.withCbi (fun c => { c with txq := { e with
      stage := if d.cbi.queueFlies then .inFlight else .waiting, attempts := e.attempts + 1 } :: rest }) := by
  have flying : e.stage ≠ .waiting := by
    rw [he]
    decide
  unfold Desk.failEntry
  rw [active_of_head hq flying]
  dsimp only
  rw [if_neg (by rw [hs, hd]; exact Bool.false_ne_true), if_neg (Nat.not_le.mpr (Nat.succ_lt_succ hn))]
  dsimp only [Desk.withCbi]
  rw [modActive_of_head hq flying hw, he]

/-- The 4th failed attempt of a frame of the Peer Table. -/
theorem failEntry_abandons (hq : d.cbi.txq = e :: rest) (he : e.stage = .inFlight) (hw : ∀ x ∈ rest, x.stage = .waiting)
    (hs : e.silent = false) (hd : e.doomed = false) (hn : e.attempts = 3) (hm : e.marked = false) :
    d.failEntry fc = (d.withCbi (fun c => { c with txq := rest }.settleLock.countAbandoned)).tellAbandoned fc e := by
  have flying : e.stage ≠ .waiting := by
    rw [he]
    decide
  unfold Desk.failEntry
  rw [active_of_head hq flying]
  dsimp only
  rw [if_neg (by rw [hs, hd]; exact Bool.false_ne_true), if_pos (by rw [hn]), leaveQueue_of_head hq flying hw hm]
  rfl

/-- A frame of the queue fails and is kept. -/
theorem failAttempt_again {a : Attempt} (hl : d.cbi.line = .sending) (ha : d.cbi.attempt = some a)
    (hb : ∀ b, a.contents ≠ .beacon b) (hq : d.cbi.txq = e :: rest) (he : e.stage = .inFlight)
    (hw : ∀ x ∈ rest, x.stage = .waiting) (hs : e.silent = false) (hd : e.doomed = false) (hn : e.attempts < 3)
    (collision : Bool) : d.failAttempt fc collision = d.withCbi (fun c => { c.afterFailure collision with
      txq := { e with stage := .waiting, attempts := e.attempts + 1 } :: rest }) := by
  have flies := queueFlies_of_queued hl ha hb
  rw [Desk.failAttempt, if_pos hl]
  cases collision with
  | true =>
    have grounded : (d.withCbi Cbi.stopDriving).cbi.queueFlies = false := queueFlies_of_no_attempt rfl
    rw [if_pos rfl, Desk.collide, ha, countFailure_of_queued hb,
      failEntry_again (d := d.withCbi Cbi.stopDriving) hq he hw hs hd hn, grounded]
    dsimp only [Desk.withCbi]
    rw [settleLock_of_entry (List.cons_ne_nil _ _)]
    rfl
  | false =>
    have flying : (d.withCbi (fun c => { c with objected := false })).cbi.queueFlies = true := flies
    rw [if_neg Bool.false_ne_true, Desk.attemptObjected, ha, countFailure_of_queued hb,
      failEntry_again (d := d.withCbi (fun c => { c with objected := false })) hq he hw hs hd hn, flying]
    have settled : (((d.withCbi (fun c => { c with objected := false })).withCbi (fun c => { c with
        txq := { e with stage := .inFlight, attempts := e.attempts + 1 } :: rest })).withCbi Cbi.settleLock) =
        d.withCbi (fun c => { c with
          objected := false, txq := { e with stage := .inFlight, attempts := e.attempts + 1 } :: rest }) := by
      dsimp only [Desk.withCbi]
      rw [settleLock_of_entry (List.cons_ne_nil _ _)]
    rw [if_pos rfl, settled]
    exact endOwnFrame_of_kept (d := d.withCbi (fun c => { c with
      objected := false, txq := { e with stage := .inFlight, attempts := e.attempts + 1 } :: rest })) hl flies rfl rfl hw hd hs

/-- A frame of the Peer Table is abandoned. -/
theorem failAttempt_abandons {a : Attempt} (hl : d.cbi.line = .sending) (ha : d.cbi.attempt = some a)
    (hb : ∀ b, a.contents ≠ .beacon b) (hq : d.cbi.txq = e :: rest) (he : e.stage = .inFlight)
    (hw : ∀ x ∈ rest, x.stage = .waiting) (hs : e.silent = false) (hd : e.doomed = false) (hn : e.attempts = 3)
    (ho : e.owner = .peerTable) (hm : e.marked = false) (collision : Bool) :
    d.failAttempt fc collision = d.withCbi (fun c => { c.afterFailure collision with
      txq := rest, passLock := if rest = [] then false else c.passLock, abandoned := c.abandoned.inc }) := by
  have flies := queueFlies_of_queued hl ha hb
  rw [Desk.failAttempt, if_pos hl]
  cases collision with
  | true =>
    rw [if_pos rfl, Desk.collide, ha, countFailure_of_queued hb,
      failEntry_abandons (d := d.withCbi Cbi.stopDriving) hq he hw hs hd hn hm, tellAbandoned_silent (tells_of_peerTable ho)]
    dsimp only [Desk.withCbi]
    rw [settleLock_countAbandoned, settleLock_of_grounded (queueFlies_of_no_attempt rfl)]
    rfl
  | false =>
    rw [if_neg Bool.false_ne_true, Desk.attemptObjected, ha, countFailure_of_queued hb,
      failEntry_abandons (d := d.withCbi (fun c => { c with objected := false })) hq he hw hs hd hn hm,
      tellAbandoned_silent (tells_of_peerTable ho)]
    dsimp only [Desk.withCbi]
    rw [settleLock_countAbandoned, settleLock_of_flying (by exact flies)]
    exact endOwnFrame_of_gone (d := d.withCbi (fun c => { c with
      objected := false, txq := rest, abandoned := c.abandoned.inc })) hl flies hw

/-- Settles O25. -/
theorem attemptsSucceedOrFail : Obligations.AttemptsSucceedOrFail := by
  unfold Obligations.AttemptsSucceedOrFail
  refine ⟨fun a s => ?_, fun collision a s => ?_⟩
  · intro c h hl ha
    refine ⟨fun b hb => ?_, fun e rest hb hq he hw ho hm => ?_⟩
    · refine ⟨_, exec_attemptSucceeded h, ?_⟩
      rw [succeedAttempt_of_beacon hl ha hb, Desk.beaconDone]
      obtain ⟨slots, heq⟩ := beaconSent_eq b (s.desk.withCbi (fun c => { c with beaconSent := true, beaconDue := false }))
      have slot (i : Slot) := slot_beaconSent b i (s.desk.withCbi (fun c => { c with beaconSent := true, beaconDue := false }))
      rw [heq] at slot ⊢
      exact ⟨rfl, rfl, rfl, rfl, rfl, rfl, rfl, slot⟩
    · rw [exec_attemptSucceeded h, succeedAttempt_of_peerTable hl ha hb hq he hw ho hm]
      rfl
  · intro c ended lost h hl ha
    rw [exec_attemptFailed h]
    refine ⟨fun b hb hd hn => ?_, fun b hb hd hn => ?_, fun e rest hb hq he hw hs hd => ⟨fun hn => ?_, fun hn ho hm => ?_⟩⟩
    · rw [failAttempt_of_beacon hl ha hb]
      dsimp only [Desk.withCbi]
      rw [beaconFailed_again hd hn]
      rfl
    · rw [failAttempt_of_beacon hl ha hb]
      dsimp only [Desk.withCbi]
      rw [beaconFailed_last hd hn]
      rfl
    · rw [failAttempt_again hl ha hb hq he hw hs hd hn]
      rfl
    · rw [failAttempt_abandons hl ha hb hq he hw hs hd hn ho hm]
      rfl

end Sys2Proof.Machine

namespace Sys2Proof.Machine

variable {d : Desk} {c : Cbi} {s : State} {fc : FieldCount}

/-! ## Errors of a received frame (R107, R116) -/

theorem exec_frameError (h : s.resetHeld = false) (err : FrameFault) :
    exec (.frameError err) s = .next (s.withDesk (s.desk.withCbi (Cbi.findError err))) := next_running h _

theorem exec_frameTruncated (h : s.resetHeld = false) :
    exec .frameTruncated s = .next (s.withDesk (s.desk.withCbi Cbi.truncate)) := next_running h _

theorem exec_frameObjected (h : s.resetHeld = false) :
    exec .frameObjected s = .next (s.withDesk (s.desk.withCbi Cbi.seeObjection)) := next_running h _

theorem findError_checkError (hl : c.line = .receiving) (ho : c.objected = false) :
    c.findError .checkError = { c with badCheck := c.badCheck.inc, line := .wait } := if_pos ⟨hl, ho⟩

theorem findError_invalidKind (hl : c.line = .receiving) (ho : c.objected = false) :
    c.findError .invalidKind = { c with badCheck := c.badCheck.inc, objected := true } := if_pos ⟨hl, ho⟩

theorem findError_wrongLength (hl : c.line = .receiving) (ho : c.objected = false) :
    c.findError .wrongLength = { c with badCheck := c.badCheck.inc, objected := true } := if_pos ⟨hl, ho⟩

theorem truncate_sound (hl : c.line = .receiving) (ho : c.objected = false) :
    c.truncate = { c with line := .wait, truncated := c.truncated.inc } := by
  rw [Cbi.truncate, if_pos hl, if_neg (by rw [ho]; exact Bool.false_ne_true)]

theorem truncate_objected (hl : c.line = .receiving) (ho : c.objected = true) :
    c.truncate = { c with line := .wait, objected := false } := by
  rw [Cbi.truncate, if_pos hl, if_pos ho]

theorem seeObjection_sound (hl : c.line = .receiving) (ho : c.objected = false) :
    c.seeObjection = { c with line := .wait } := if_pos ⟨hl, ho⟩

/-! ## The line stuck low (R117) -/

theorem exec_busFaultEnter (h : s.resetHeld = false) :
    exec .busFaultEnter s = .next (s.withDesk (s.desk.enterFault s.fc)) := next_running h _

theorem exec_busFaultCleared (h : s.resetHeld = false) : exec .busFaultCleared s =
    .next (s.withDesk (s.desk.leaveFault s.sys s.fc s.time.ft.parity s.time.ft.counter)) := next_running h _

/-- A station with no frame in the air has none to cut short. -/
theorem cutShort_of_no_frame (hc : d.cbi.line ≠ .contending) (hs : d.cbi.line ≠ .sending) : d.cutShort fc = d := by
  have ended : d.endIfDecided fc = d := by
    unfold Desk.endIfDecided Desk.endOwnFrame
    rw [if_neg hs]
    exact ite_self d
  have failed : d.failAttempt fc true = d := if_neg hs
  rw [Desk.cutShort, loseAccess_ignored hc, ended, failed]

/-- The bus interface in FAULT. -/
def Cbi.faulted (c : Cbi) : Cbi :=
  { c with
    line := .fault, beaconDue := false, objected := false, attempt := none, wire := { c.wire with drive := 0, tail := 0 } }

theorem enterFault_of_no_frame (hf : d.cbi.line ≠ .fault) (hc : d.cbi.line ≠ .contending) (hs : d.cbi.line ≠ .sending) :
    d.enterFault fc = (d.withCbi Cbi.faulted).post fc (.busFault false fc) := by
  rw [Desk.enterFault, if_neg hf, cutShort_of_no_frame hc hs]
  rfl

theorem enterFault_ignored (hf : d.cbi.line = .fault) : d.enterFault fc = d := if_pos hf

variable {sys : System} {p : Parity} {line : Nat}

theorem leaveFault_ignored (hf : d.cbi.line ≠ .fault) : d.leaveFault sys fc p line = d := if_neg hf

theorem leaveFault_eq (hf : d.cbi.line = .fault) : d.leaveFault sys fc p line =
    ((d.withCbi Cbi.enterIdle).post fc (.busFault true fc)).setDueInWindow sys p line := if_pos hf

theorem setDueInWindow_early (h : line < 10) : d.setDueInWindow sys p line = d :=
  if_neg fun hw => Nat.not_le.mpr h (inBeaconWindow_iff.mp hw).1

theorem setDueInWindow_due (hw : 10 ≤ line ∧ line ≤ nominalCount sys p - 10) (hm : d.mayBeDue = true) :
    d.setDueInWindow sys p line = d.withCbi (fun c => { c with beaconDue := true, beaconAttempts := 0 }) := by
  rw [Desk.setDueInWindow, if_pos (inBeaconWindow_iff.mpr hw), setDue_of_may hm]

/-- Settles O27. -/
theorem errorsAndFaultsOfTheLine : Obligations.ErrorsAndFaultsOfTheLine := by
  unfold Obligations.ErrorsAndFaultsOfTheLine
  refine ⟨fun s => ?_, fun s => ?_⟩
  · intro c bad cut on h hl
    refine ⟨fun ho => ⟨?_, ?_, ?_, ?_, ?_⟩, fun ho => ?_⟩
    · rw [exec_frameError h, Desk.withCbi, findError_checkError hl ho]
      rfl
    · rw [exec_frameError h, Desk.withCbi, findError_invalidKind hl ho]
      rfl
    · rw [exec_frameError h, Desk.withCbi, findError_wrongLength hl ho]
      rfl
    · rw [exec_frameTruncated h, Desk.withCbi, truncate_sound hl ho]
      rfl
    · rw [exec_frameObjected h, Desk.withCbi, seeObjection_sound hl ho]
    · rw [exec_frameTruncated h, Desk.withCbi, truncate_objected hl ho]
  · intro c h
    rw [exec_busFaultEnter h, exec_busFaultCleared h]
    refine ⟨fun hf hc hs => ?_, fun hf => ?_, fun hf => ?_, fun hf hq hb hn => ?_, fun hf hq hb hs hm hc hlo hhi => ?_⟩
    · rw [enterFault_of_no_frame hf hc hs]
      rfl
    · rw [enterFault_ignored hf]
      rfl
    · rw [leaveFault_ignored hf]
      rfl
    · rw [leaveFault_eq hf, setDueInWindow_early hn, Desk.withCbi, enterIdle_of_nil hq]
      rfl
    · refine ⟨?_, (clbPulled_iff rfl rfl).mpr ⟨hm, Or.inr ⟨hc, Or.inl rfl⟩⟩⟩
      have idle : s.desk.withCbi Cbi.enterIdle = { s.desk with cbi := { c with
          line := .idle, burst := 0, wire := { c.wire with drive := 0 } } } := by
        rw [Desk.withCbi, enterIdle_of_nil hq]
      rw [leaveFault_eq hf, idle, setDueInWindow_due ⟨hlo, hhi⟩]
      · rfl
      · exact mayBeDue_iff.mpr ⟨⟨hc, hm, nofun⟩, hs, hb⟩

end Sys2Proof.Machine

namespace Sys2Proof.Machine

section
variable {s : State} {d : Desk} {fc : FieldCount} {stn n : Station} {pt : Pt} {i : Slot} {c : Claim}

/-! ## A frame of a peer is accepted (R107) -/

theorem accept_of_peer (hl : d.cbi.line = .receiving) (ho : d.cbi.objected = false) (hn : n ≠ stn) (kind : Nat)
    (f : Desk → Desk) : d.accept fc stn n kind f = f (d.withCbi Cbi.endFrame) := by
  have accepts : d.cbi.canAccept = true := by
    simp [Cbi.canAccept, hl, ho]
  rw [Desk.accept, if_pos accepts, if_neg hn]

/-- What a frame of a peer does to the claim half, once the frame has ended. -/
theorem accept_of_hears (h : s.hears n) (kind : Nat) (f : Desk → Desk) :
    s.desk.accept s.fc s.straps.stn n kind f = f (s.desk.withCbi Cbi.endFrame) := by
  obtain ⟨-, hl, ho, hn⟩ := h
  exact accept_of_peer hl ho hn kind f

theorem exec_claimReceived (h : s.hears n) (payload : BitVec 72) : exec (.claimReceived n payload) s =
    .next (s.heard (s.desk.pt.takeClaim n (decodeClaim payload).1 (decodeClaim payload).2)) := by
  have taken : exec (.claimReceived n payload) s = .next (s.withDesk (s.desk.accept s.fc s.straps.stn n 2
    (Desk.withPt (Pt.takeClaim n (decodeClaim payload).1 (decodeClaim payload).2)))) := next_running h.1 _
  rw [taken, accept_of_hears h]
  rfl

theorem exec_withdrawReceived (h : s.hears n) (payload : BitVec 8) : exec (.withdrawReceived n payload) s =
    .next (s.heard (s.desk.pt.takeWithdraw n (decodeWithdraw payload))) := by
  have taken : exec (.withdrawReceived n payload) s = .next (s.withDesk (s.desk.accept s.fc s.straps.stn n 3
    (Desk.withPt (Pt.takeWithdraw n (decodeWithdraw payload))))) := next_running h.1 _
  rw [taken, accept_of_hears h]
  rfl

/-! ## Sets of ids -/

theorem IdSet.has_insert (x : IdSet) (i j : Slot) :
    IdSet.has (IdSet.insert x i) j = (IdSet.has x j || decide (i = j)) := by
  simp [IdSet.has, IdSet.insert, Fin.ext_iff, eq_comm]

theorem IdSet.has_erase (x : IdSet) (i j : Slot) :
    IdSet.has (IdSet.erase x i) j = (IdSet.has x j && !decide (i = j)) := by
  simp [IdSet.has, IdSet.erase, Fin.ext_iff, eq_comm]

/-! ## Single entries (R125, R127) -/

theorem stores_iff : pt.stores n i = true ↔ ∃ e ∈ pt.store, e.station = n ∧ e.claim.id = i := by
  simp [Pt.stores, StoreEntry.isOf_iff]

theorem stores_eq_false_iff : pt.stores n i = false ↔ ∀ e ∈ pt.store, ¬ (e.station = n ∧ e.claim.id = i) := by
  rw [Bool.eq_false_iff, Ne, stores_iff]
  push Not
  rfl

/-- Without such an entry its removal changes nothing. -/
theorem removeEntry_of_not_stored (h : ∀ e ∈ pt.store, ¬ (e.station = n ∧ e.claim.id = i)) :
    (pt.removeEntry n i).store = pt.store := by
  refine List.filter_eq_self.mpr fun e he => ?_
  rw [Bool.not_eq_true', Bool.eq_false_iff, Ne, StoreEntry.isOf_iff]
  exact h e he

/-- No claim changes a presence. -/
theorem presence_drop (m : Station) : ((pt.drop n i).peer m).presence = (pt.peer m).presence := by
  unfold Pt.drop
  by_cases h : n = m
  · rw [h, peer_modPeer_self]
  · rw [peer_modPeer_ne h]

theorem presence_storeClaim (m : Station) : ((pt.storeClaim n c).peer m).presence = (pt.peer m).presence := by
  unfold Pt.storeClaim Pt.undrop
  by_cases h : n = m
  · rw [h, peer_modPeer_self]
    rfl
  · rw [peer_modPeer_ne h]
    rfl

theorem presence_takeClaim (resend : Bool) (m : Station) :
    ((pt.takeClaim n c resend).peer m).presence = (pt.peer m).presence := by
  unfold Pt.takeClaim
  split
  · exact presence_drop m
  · split
    · rfl
    · unfold Pt.placeClaim
      split
      · exact presence_storeClaim m
      · split
        · exact presence_storeClaim m
        · unfold Pt.contend
          split
          · exact presence_storeClaim m
          · split
            · rw [presence_storeClaim, presence_drop]
              rfl
            · exact presence_drop m

/-- Settles O30. -/
theorem withdrawRemovesTheEntry : Obligations.WithdrawRemovesTheEntry := by
  unfold Obligations.WithdrawRemovesTheEntry
  intro n payload s i p h
  refine ⟨exec_withdrawReceived h payload, fun hnone => ⟨_, exec_withdrawReceived h payload, ?_⟩,
    fun claim => ⟨_, exec_claimReceived h claim, presence_takeClaim _ n⟩⟩
  exact removeEntry_of_not_stored (pt := s.desk.pt) hnone

/-! ## A claim is stored (R125) -/

/-- The order of the store tells stations and ids apart. -/
theorem order_eq_iff {a b : StoreEntry} : a.order = b.order ↔ a.station = b.station ∧ a.claim.id = b.claim.id := by
  have ha := a.claim.id.isLt
  have hb := b.claim.id.isLt
  unfold StoreEntry.order
  rw [Fin.ext_iff, Fin.ext_iff]
  omega

theorem mem_insertEntry_self (x : StoreEntry) (es : List StoreEntry) : x ∈ insertEntry x es := by
  induction es with
  | nil => exact List.mem_singleton_self x
  | cons a rest ih =>
    unfold insertEntry
    split_ifs
    · exact List.mem_cons_self
    · exact List.mem_cons_self
    · exact List.mem_cons_of_mem a ih

/-- Only an entry of the same station and id is replaced. -/
theorem mem_insertEntry_of_order_ne {e x : StoreEntry} {es : List StoreEntry} (h : e.order ≠ x.order) (he : e ∈ es) :
    e ∈ insertEntry x es := by
  induction es with
  | nil => cases he
  | cons a rest ih =>
    unfold insertEntry
    split_ifs with h1 h2
    · exact List.mem_cons_of_mem x he
    · rcases List.mem_cons.mp he with rfl | he
      · exact absurd h2.symm h
      · exact List.mem_cons_of_mem x he
    · rcases List.mem_cons.mp he with rfl | he
      · exact List.mem_cons_self
      · exact List.mem_cons_of_mem a (ih he)

theorem mem_storeClaim_of_other {e : StoreEntry} (h : ¬ (e.station = n ∧ e.claim.id = c.id)) :
    e ∈ (pt.storeClaim n c).store ↔ e ∈ pt.store := by
  rw [store_storeClaim]
  constructor
  · intro he
    rcases mem_insertEntry he with rfl | he
    · exact absurd ⟨rfl, rfl⟩ h
    · exact he
  · exact mem_insertEntry_of_order_ne (fun ho => h (order_eq_iff.mp ho))

/-- In a store in order there is one entry of a station and id. -/
theorem eq_of_order_eq {es : List StoreEntry} (h : es.Pairwise (fun a b => a.order < b.order)) {a b : StoreEntry}
    (ha : a ∈ es) (hb : b ∈ es) (hs : a.station = b.station) (hi : a.claim.id = b.claim.id) : a = b := by
  have distinct : (es.map StoreEntry.order).Nodup := (List.pairwise_map.mpr h).imp Nat.ne_of_lt
  exact List.inj_on_of_nodup_map distinct ha hb (order_eq_iff.mpr ⟨hs, hi⟩)

theorem markFor_iff : pt.markFor n c = true ↔
    ∃ e ∈ pt.store, e.station = n ∧ e.claim.id = c.id ∧ e.claim.e = c.e ∧ e.applied = true := by
  simp only [Pt.markFor, List.any_eq_true, Bool.and_eq_true, StoreEntry.isOf_iff, beq_iff_eq]
  constructor
  · rintro ⟨e, he, ⟨⟨hn, hi⟩, ha⟩, hE⟩
    exact ⟨e, he, hn, hi, hE, ha⟩
  · rintro ⟨e, he, hn, hi, hE, ha⟩
    exact ⟨e, he, ⟨⟨hn, hi⟩, ha⟩, hE⟩

theorem markFor_of_not_stored (h : pt.stores n c.id = false) : pt.markFor n c = false := by
  rw [Bool.eq_false_iff, Ne, markFor_iff]
  rintro ⟨e, he, hn, hi, -⟩
  exact stores_eq_false_iff.mp h e he ⟨hn, hi⟩

theorem formed_iff : c.formed = true ↔ c.top ≤ 319 ∧ c.bottom ≤ 319 ∧ c.top ≤ c.bottom ∧ c.left < c.right := by
  simp [Claim.formed, and_assoc]

theorem live_eq (p : Peer) (i : Slot) : IdSet.has p.live i = true ↔ ∃ b, p.last = some b ∧ b.live.getLsbD i.val = true := by
  unfold Peer.live
  cases p.last with
  | none => simp [IdSet.has]
  | some b => simp [IdSet.has]

theorem takeClaim_formed {resend : Bool} (hf : c.formed = true)
    (hr : resend = true → IdSet.has (pt.peer n).live c.id = true) : pt.takeClaim n c resend = pt.placeClaim n c := by
  unfold Pt.takeClaim
  rw [hf]
  cases resend with
  | false => rfl
  | true =>
    rw [hr rfl]
    rfl

theorem takeClaim_unformed {resend : Bool} (hf : ¬ c.formed = true) :
    pt.takeClaim n c resend = (pt.removeEntry n c.id).drop n c.id := by
  rw [Pt.takeClaim, Bool.eq_false_iff.mpr hf]
  rfl

theorem takeClaim_unknown (hf : c.formed = true) (hr : IdSet.has (pt.peer n).live c.id = false) :
    pt.takeClaim n c true = pt := by
  rw [Pt.takeClaim, hf, hr]
  rfl

theorem placeClaim_of_room (h : pt.store.length < 64 ∨ pt.stores n c.id = true) : pt.placeClaim n c = pt.storeClaim n c := by
  unfold Pt.placeClaim
  split
  · rfl
  next hs =>
    rcases h with h | h
    · rw [if_pos h]
    · exact absurd h hs

theorem placeClaim_of_full (h : pt.store.length = 64) (hs : pt.stores n c.id = false) :
    pt.placeClaim n c = pt.contend n c := by
  rw [Pt.placeClaim, hs, h]
  rfl

/-! ## A full store (R126) -/

theorem ranksAbove_asymm {a b : StoreEntry} (h : a.ranksAbove b = true) : b.ranksAbove a = false := by
  simp only [StoreEntry.ranksAbove, Bool.or_eq_true, Bool.and_eq_true, decide_eq_true_eq, beq_iff_eq, Bool.or_eq_false_iff,
    Bool.and_eq_false_iff, decide_eq_false_iff_not, beq_eq_false_iff_ne, Fin.ext_iff, ne_eq] at h ⊢
  omega

/-- The entry that every other ranks above is the lowest. -/
theorem lowestEntry_of_forall {low : StoreEntry} {es : List StoreEntry} (hm : low ∈ es)
    (h : ∀ e ∈ es, e ≠ low → e.ranksAbove low = true) : lowestEntry es = some low := by
  induction es with
  | nil => cases hm
  | cons a rest ih =>
    unfold lowestEntry
    by_cases hr : low ∈ rest
    · rw [ih hr (fun e he => h e (List.mem_cons_of_mem a he))]
      dsimp only
      by_cases ha : a = low
      · rw [ha, ite_self]
      · rw [if_neg (by rw [ranksAbove_asymm (h a List.mem_cons_self ha)]; exact Bool.false_ne_true)]
    · have ha : low = a := (List.mem_cons.mp hm).resolve_right hr
      subst ha
      split
      · rfl
      next m hlow =>
        have hm := lowestEntry_mem hlow
        rw [if_pos (h m (List.mem_cons_of_mem _ hm) (fun e => hr (e ▸ hm)))]

theorem contend_refused (hfull : pt.store.length = 64)
    (h : ∀ e ∈ pt.store, (⟨n, c, false⟩ : StoreEntry).ranksAbove e = false) : pt.contend n c = pt.drop n c.id := by
  unfold Pt.contend
  split
  next hn =>
    rw [lowestEntry_eq_none hn] at hfull
    cases hfull
  next low hl => rw [if_neg (by rw [h low (lowestEntry_mem hl)]; exact Bool.false_ne_true)]

theorem contend_evicts {low : StoreEntry} (hm : low ∈ pt.store) (h : ∀ e ∈ pt.store, e ≠ low → e.ranksAbove low = true)
    (hr : (⟨n, c, false⟩ : StoreEntry).ranksAbove low = true) : pt.contend n c =
      ((pt.removeEntry low.station low.claim.id).drop low.station low.claim.id).storeClaim n c := by
  rw [Pt.contend, lowestEntry_of_forall hm h]
  exact if_pos hr

theorem mem_removeEntry {e : StoreEntry} :
    e ∈ (pt.removeEntry n i).store ↔ e ∈ pt.store ∧ ¬ (e.station = n ∧ e.claim.id = i) := by
  rw [Pt.removeEntry, List.mem_filter, Bool.not_eq_true', Bool.eq_false_iff, Ne, StoreEntry.isOf_iff]

/-- The store once the lowest entry has made room for a claim that was not stored. -/
theorem mem_evicted {low e : StoreEntry} (hok : pt.storeOk) (hm : low ∈ pt.store) (hs : pt.stores n c.id = false) :
    e ∈ (((pt.removeEntry low.station low.claim.id).drop low.station low.claim.id).storeClaim n c).store ↔
      (e ∈ pt.store ∧ e ≠ low) ∨ e = ⟨n, c, false⟩ := by
  have gone : ∀ x ∈ (pt.removeEntry low.station low.claim.id).store, x ∈ pt.store ∧ x ≠ low := by
    intro x hx
    obtain ⟨hx, hne⟩ := mem_removeEntry.mp hx
    exact ⟨hx, fun hl => hne ⟨hl ▸ rfl, hl ▸ rfl⟩⟩
  have absent : ∀ x ∈ pt.store, x.order ≠ (⟨n, c, false⟩ : StoreEntry).order := fun x hx ho =>
    stores_eq_false_iff.mp hs x hx (order_eq_iff.mp ho)
  have unmarked : ((pt.removeEntry low.station low.claim.id).drop low.station low.claim.id).markFor n c = false := by
    refine markFor_of_not_stored (stores_eq_false_iff.mpr fun x hx => ?_)
    exact stores_eq_false_iff.mp hs x (gone x hx).1
  rw [store_storeClaim, unmarked]
  constructor
  · intro he
    rcases mem_insertEntry he with rfl | he
    · exact Or.inr rfl
    · exact Or.inl (gone e he)
  · rintro (⟨he, hne⟩ | rfl)
    · refine mem_insertEntry_of_order_ne (absent e he) (mem_removeEntry.mpr ⟨he, fun hk => hne ?_⟩)
      exact eq_of_order_eq hok.2 he hm hk.1 hk.2
    · exact mem_insertEntry_self _ _

theorem has_dropped_storeClaim (m : Station) (j : Slot) : IdSet.has ((pt.storeClaim n c).peer m).dropped j =
    (IdSet.has (pt.peer m).dropped j && !(decide (n = m) && decide (c.id = j))) := by
  unfold Pt.storeClaim Pt.undrop
  by_cases h : n = m
  · subst h
    rw [peer_modPeer_self]
    dsimp only
    rw [IdSet.has_erase, decide_eq_true rfl, Bool.true_and]
    rfl
  · rw [peer_modPeer_ne h, decide_eq_false h, Bool.false_and, Bool.not_false, Bool.and_true]
    rfl

theorem has_dropped_drop : IdSet.has ((pt.drop n i).peer n).dropped i = true := by
  rw [Pt.drop, peer_modPeer_self]
  dsimp only
  rw [IdSet.has_insert, decide_eq_true rfl, Bool.or_true]

/-- Settles O29. -/
theorem claimIsStoredOrDropped : Obligations.ClaimIsStoredOrDropped := by
  unfold Obligations.ClaimIsStoredOrDropped
  refine ⟨fun n payload s => ?_, fun n c pt hok hfull hs => ⟨fun hr => ?_, fun low hm hl hr => ?_⟩⟩
  · intro c p formed h
    refine ⟨fun hf hr hroom => ?_, fun hf => ?_, fun hf hr hl => ?_⟩
    · have stored : exec (.claimReceived n payload) s = .next (s.heard (s.desk.pt.storeClaim n c)) := by
        rw [exec_claimReceived h, takeClaim_formed (formed_iff.mpr hf) (fun h2 => (live_eq _ _).mpr (hr h2)),
          placeClaim_of_room hroom]
      refine ⟨_, stored, ⟨s.desk.pt.markFor n c, mem_insertEntry_self _ _, markFor_iff, fun hok e he hn hi => ?_⟩,
        fun e he => mem_storeClaim_of_other he, ?_, fun m hm => ?_, rfl, rfl, rfl, rfl⟩
      · have sorted : (s.desk.pt.storeClaim n c).store.Pairwise (fun a b => a.order < b.order) := sorted_insertEntry hok.2
        exact eq_of_order_eq sorted he (mem_insertEntry_self _ _) hn hi
      · exact peer_modPeer_self n _ _
      · exact peer_modPeer_ne (Ne.symm hm) _ _
    · rw [exec_claimReceived h, takeClaim_unformed (fun h2 => hf (formed_iff.mp h2))]
      rfl
    · have unknown : IdSet.has p.live c.id = false := by
        rw [Bool.eq_false_iff, Ne, live_eq]
        rintro ⟨b, hb, hbit⟩
        exact Bool.false_ne_true ((hl b hb).symm.trans hbit)
      rw [exec_claimReceived h, hr, takeClaim_unknown (formed_iff.mpr hf) unknown]
  · rw [placeClaim_of_full hfull hs, contend_refused hfull hr]
  · rw [placeClaim_of_full hfull hs, contend_evicts hm hl hr]
    refine ⟨fun e => mem_evicted hok hm hs, ?_, ?_⟩
    · have other : ¬ (low.station = n ∧ low.claim.id = c.id) := stores_eq_false_iff.mp hs low hm
      rw [has_dropped_storeClaim, has_dropped_drop, Bool.true_and, Bool.not_eq_true', Bool.and_eq_false_iff,
        decide_eq_false_iff_not, decide_eq_false_iff_not]
      by_contra hboth
      push Not at hboth
      exact other ⟨hboth.1.symm, hboth.2.symm⟩
    · rw [has_dropped_storeClaim, decide_eq_true rfl, decide_eq_true rfl]
      exact Bool.and_false _

end

end Sys2Proof.Machine

namespace Sys2Proof.Machine

section
variable {s : State} {d : Desk} {c : Cbi} {fc : FieldCount} {stn n target : Station} {i : Slot}

/-! ## A RECALL is answered (R113, R130) -/

theorem exec_recallReceived (h : s.hears n) (payload : BitVec 16) : exec (.recallReceived n payload) s =
    .next (s.withDesk ((s.desk.withCbi Cbi.endFrame).takeRecall s.straps.stn (decodeRecall payload).1
      (decodeRecall payload).2)) := by
  have taken : exec (.recallReceived n payload) s = .next (s.withDesk (s.desk.accept s.fc s.straps.stn n 4
    (Desk.takeRecall s.straps.stn (decodeRecall payload).1 (decodeRecall payload).2))) := next_running h.1 _
  rw [taken, accept_of_hears h]

theorem takeRecall_ignored
    (h : target ≠ stn ∨ d.hp.configured = false ∨ d.cbi.muted = true ∨ d.cbi.answersAlready i = true) :
    d.takeRecall stn target i = d := if_pos h

/-- A RECALL that is answered: by a resend of a live id, by a WITHDRAW of another. -/
theorem takeRecall_answers (ht : target = stn) (hc : d.hp.configured = true) (hm : d.cbi.muted = false)
    (ha : d.cbi.answersAlready i = false) : d.takeRecall stn target i =
      d.withCbi (Cbi.offer (if (d.slot i).inLiveSet then .resend i else .withdraw i) .peerTable) := by
  have answered : ¬ (target ≠ stn ∨ d.hp.configured = false ∨ d.cbi.muted = true ∨ d.cbi.answersAlready i = true) := by
    simp [ht, hc, hm, ha]
  rw [Desk.takeRecall, if_neg answered]
  split <;> rfl

variable {what : TxWhat} {owner : TxOwner}

theorem offer_of_full (h : 8 ≤ c.txq.length) (what : TxWhat) (owner : TxOwner) : c.offer what owner = c :=
  if_neg fun hroom => Nat.not_le.mpr (of_decide_eq_true hroom) h

theorem hasRoom_of_lt (h : c.txq.length < 8) : c.hasRoom = true := decide_eq_true h

theorem offer_resend (h : c.txq.length < 8) : c.offer (.resend i) owner = c.enqueue (.resend i) owner :=
  if_pos (hasRoom_of_lt h)

theorem offer_withdraw (h : c.txq.length < 8) : c.offer (.withdraw i) owner = c.enqueueWithdraw i owner :=
  if_pos (hasRoom_of_lt h)

theorem enqueueWithdraw_behind (h : c.passLock = true ∨ ∃ e ∈ c.txq, e.what.concerns i = true) :
    c.enqueueWithdraw i owner = { c with txq := c.txq ++ [TxEntry.fresh (.withdraw i) owner] } := by
  refine enqueueWithdraw_of_not_passes fun hp => ?_
  obtain ⟨hlock, hfree⟩ := withdrawPasses_iff.mp hp
  rcases h with h | ⟨e, he, hc⟩
  · exact Bool.false_ne_true (hlock.symm.trans h)
  · exact Bool.false_ne_true ((hfree e he).symm.trans hc)

/-- Settles O31. -/
theorem recallIsAnswered : Obligations.RecallIsAnswered := by
  unfold Obligations.RecallIsAnswered
  intro n payload s target i c answered h
  have received : exec (.recallReceived n payload) s =
      .next (s.withDesk ((s.desk.withCbi Cbi.endFrame).takeRecall s.straps.stn target i)) := exec_recallReceived h payload
  rw [received]
  refine ⟨fun hno => ?_, fun ht hc hm ha => ?_⟩
  · rw [takeRecall_ignored (d := s.desk.withCbi Cbi.endFrame) hno]
    rfl
  · rw [takeRecall_answers (d := s.desk.withCbi Cbi.endFrame) ht hc hm ha, slot_withCbi]
    dsimp only [Desk.withCbi]
    refine ⟨fun hfull => ?_, fun hroom hlive => ?_, fun hroom hlive hbehind => ?_,
      fun front rest hroom hlive hlock hnone hq hfront hrest => ?_⟩
    · rw [offer_of_full (c := s.desk.cbi.endFrame) hfull]
      rfl
    · rw [if_pos hlive, offer_resend (c := s.desk.cbi.endFrame) hroom]
      rfl
    · rw [hlive, if_neg Bool.false_ne_true, offer_withdraw (c := s.desk.cbi.endFrame) hroom,
        enqueueWithdraw_behind (c := s.desk.cbi.endFrame) hbehind]
      rfl
    · have queue : s.desk.cbi.endFrame.txq = front ++ rest := hq
      rw [hlive, if_neg Bool.false_ne_true, offer_withdraw (c := s.desk.cbi.endFrame) hroom,
        enqueueWithdraw_of_passes (c := s.desk.cbi.endFrame) (withdrawPasses_iff.mpr ⟨hlock, hnone⟩), queue,
        passAhead_append _ _ _ (fun e he => heldFirst_iff.mpr (hfront e he))
          (fun e he => heldFirst_eq_false_iff.mpr (hrest e he))]
      rfl

end

end Sys2Proof.Machine

namespace Sys2Proof.Machine

section
variable {s : State} {d : Desk} {fc : FieldCount} {n m : Station} {i : Slot} {b : Beacon}

/-! ## The RECALLs of a beacon (R129) -/

/-- An id of the sender is missing, and no RECALL for it has gone in this field. -/
def Desk.lacks (d : Desk) (n : Station) (i : Slot) : Bool := d.pt.missing n i && !IdSet.has (d.pt.peer n).recalled i

/-- The ids that are asked for, of those given. -/
def Desk.asked (d : Desk) (n : Station) (l : List Slot) : List Slot :=
  if d.hp.configured = true ∧ d.cbi.muted = false then
    (l.filter (d.lacks n)).take (min (4 - d.pt.recalls) (8 - d.cbi.txq.length))
  else []

/-- The Peer Table once these ids have been asked for. -/
def Pt.noteRecalls (n : Station) (ids : List Slot) (pt : Pt) : Pt :=
  { pt.modPeer n (fun p => { p with recalled := ids.foldl IdSet.insert p.recalled }) with recalls := pt.recalls + ids.length }

/-- The claim half once these ids have been asked for. -/
def Desk.recallAll (n : Station) (ids : List Slot) (d : Desk) : Desk :=
  { d with
    cbi := { d.cbi with txq := d.cbi.txq ++ ids.map (fun i => TxEntry.fresh (.recall n i) .peerTable) }
    pt := d.pt.noteRecalls n ids }

theorem modPeer_modPeer (f g : Peer → Peer) (pt : Pt) : (pt.modPeer n f).modPeer n g = pt.modPeer n (g ∘ f) := by
  unfold Pt.modPeer Pt.setPeer
  dsimp only
  rw [Vector.set_set]
  congr 1
  exact congrArg (fun x => pt.peers.set n.val (g x)) (peer_modPeer_self n f pt)

theorem modPeer_id (pt : Pt) : pt.modPeer n (fun p => p) = pt := by
  unfold Pt.modPeer Pt.setPeer Pt.peer
  rw [Vector.set_getElem_self]

theorem noteRecalls_append (l l' : List Slot) (pt : Pt) :
    (pt.noteRecalls n l).noteRecalls n l' = pt.noteRecalls n (l ++ l') := by
  simp [Pt.noteRecalls, Pt.modPeer, Pt.setPeer, Pt.peer, Nat.add_assoc]

theorem recallAll_nil : d.recallAll n [] = d := by
  unfold Desk.recallAll
  rw [List.map_nil, List.append_nil]
  exact congrArg (fun pt => { d with pt := pt }) (modPeer_id d.pt)

theorem recallAll_append (l l' : List Slot) : (d.recallAll n l).recallAll n l' = d.recallAll n (l ++ l') := by
  simp only [Desk.recallAll, noteRecalls_append, List.map_append, List.append_assoc]

theorem offerRecall_eq (n : Station) (i : Slot) (d : Desk) :
    d.offerRecall n i = d.recallAll n (if d.mayRecall n i then [i] else []) := by
  unfold Desk.offerRecall
  split
  · rfl
  · exact recallAll_nil.symm

theorem peer_recallAll_self (l : List Slot) : (d.recallAll n l).pt.peer n =
    { d.pt.peer n with recalled := l.foldl IdSet.insert (d.pt.peer n).recalled } :=
  peer_modPeer_self n (fun p => { p with recalled := l.foldl IdSet.insert p.recalled }) d.pt

theorem peer_recallAll_ne (h : m ≠ n) (l : List Slot) : (d.recallAll n l).pt.peer m = d.pt.peer m :=
  peer_modPeer_ne (Ne.symm h) (fun p => { p with recalled := l.foldl IdSet.insert p.recalled }) d.pt

theorem has_foldl_insert (l : List Slot) (x : IdSet) (j : Slot) :
    IdSet.has (l.foldl IdSet.insert x) j = true ↔ IdSet.has x j = true ∨ j ∈ l := by
  induction l generalizing x with
  | nil => simp
  | cons a l ih =>
    rw [List.foldl_cons, ih, IdSet.has_insert, Bool.or_eq_true, decide_eq_true_iff, List.mem_cons, or_assoc, eq_comm (a := a)]

/-- A RECALL for one id leaves what another lacks. -/
theorem lacks_recallAll {j : Slot} {l : List Slot} (h : j ∉ l) : (d.recallAll n l).lacks n j = d.lacks n j := by
  have recalled : IdSet.has ((d.recallAll n l).pt.peer n).recalled j = IdSet.has (d.pt.peer n).recalled j := by
    rw [peer_recallAll_self]
    exact Bool.eq_iff_iff.mpr ((has_foldl_insert l _ j).trans (or_iff_left h))
  have missing : (d.recallAll n l).pt.missing n j = d.pt.missing n j := by
    unfold Pt.missing
    rw [peer_recallAll_self]
    rfl
  rw [Desk.lacks, missing, recalled, Desk.lacks]

theorem mayRecall_iff : d.mayRecall n i = true ↔ (d.hp.configured = true ∧ d.cbi.muted = false) ∧ d.lacks n i = true ∧
    d.pt.recalls < 4 ∧ d.cbi.txq.length < 8 := by
  unfold Desk.mayRecall Desk.lacks Cbi.hasRoom
  simp only [Bool.and_eq_true, decide_eq_true_eq, Bool.not_eq_true']
  constructor
  · rintro ⟨⟨⟨⟨⟨hm, hc⟩, hmu⟩, hr⟩, h4⟩, h8⟩
    exact ⟨⟨hc, hmu⟩, ⟨hm, hr⟩, h4, h8⟩
  · rintro ⟨⟨hc, hmu⟩, ⟨hm, hr⟩, h4, h8⟩
    exact ⟨⟨⟨⟨⟨hm, hc⟩, hmu⟩, hr⟩, h4⟩, h8⟩

/-- The first id of those to ask for, and the rest. -/
theorem asked_cons {l : List Slot} (hi : i ∉ l) : d.asked n (i :: l) =
    (if d.mayRecall n i then [i] else []) ++ (d.recallAll n (if d.mayRecall n i then [i] else [])).asked n l := by
  by_cases hsend : d.hp.configured = true ∧ d.cbi.muted = false
  case neg =>
    have may : ¬ d.mayRecall n i = true := fun h => hsend (mayRecall_iff.mp h).1
    rw [if_neg may, recallAll_nil, List.nil_append, Desk.asked, Desk.asked, if_neg hsend, if_neg hsend]
  case pos =>
    by_cases hmay : d.mayRecall n i = true
    case pos =>
      obtain ⟨-, hlack, h4, h8⟩ := mayRecall_iff.mp hmay
      have rest : l.filter ((d.recallAll n [i]).lacks n) = l.filter (d.lacks n) :=
        List.filter_congr fun j hj => lacks_recallAll fun hji => hi (List.mem_singleton.mp hji ▸ hj)
      have count : min (4 - d.pt.recalls) (8 - d.cbi.txq.length) =
          min (4 - (d.recallAll n [i]).pt.recalls) (8 - (d.recallAll n [i]).cbi.txq.length) + 1 := by
        have hr : (d.recallAll n [i]).pt.recalls = d.pt.recalls + 1 := rfl
        have hq : (d.recallAll n [i]).cbi.txq.length = d.cbi.txq.length + 1 := List.length_append
        omega
      rw [if_pos hmay, Desk.asked, if_pos hsend, List.filter_cons_of_pos hlack, count, List.take_succ_cons, Desk.asked,
        if_pos (show (d.recallAll n [i]).hp.configured = true ∧ (d.recallAll n [i]).cbi.muted = false from hsend), rest]
      rfl
    case neg =>
      rw [if_neg hmay, recallAll_nil, List.nil_append, Desk.asked, Desk.asked, if_pos hsend, if_pos hsend]
      by_cases hlack : d.lacks n i = true
      · have none : min (4 - d.pt.recalls) (8 - d.cbi.txq.length) = 0 := by
          by_contra hn
          exact hmay (mayRecall_iff.mpr ⟨hsend, hlack, by omega, by omega⟩)
        rw [none, List.take_zero, List.take_zero]
      · rw [List.filter_cons_of_neg hlack]

/-- The ids are asked for one after the other. -/
theorem foldl_offerRecall {l : List Slot} (hl : l.Nodup) (d : Desk) :
    l.foldl (Desk.offerRecall n) d = d.recallAll n (d.asked n l) := by
  induction l generalizing d with
  | nil =>
    have none : d.asked n [] = [] := by
      unfold Desk.asked
      split <;> simp
    rw [none, recallAll_nil, List.foldl_nil]
  | cons i l ih =>
    obtain ⟨hi, hl⟩ := List.nodup_cons.mp hl
    rw [List.foldl_cons, ih hl, asked_cons hi, offerRecall_eq, recallAll_append]

/-! ## A beacon (R123, R128) -/

/-- The sender's record once the beacon is kept. -/
def Peer.keep (b : Beacon) (p : Peer) : Peer :=
  { p.hear with last := some b, dropped := p.dropped &&& b.live }

/-- The Peer Table once the beacon is kept, before the RECALLs. -/
def Pt.keep (n : Station) (b : Beacon) (pt : Pt) : Pt :=
  { pt.modPeer n (Peer.keep b) with store := pt.store.filter (fun e => e.station != n || IdSet.has b.live e.claim.id) }

theorem reconcile_hear (pt : Pt) :
    ((pt.modPeer n Peer.hear).modPeer n (fun p => { p with last := some b })).reconcile n b.live = pt.keep n b := by
  unfold Pt.reconcile
  have peers := modPeer_modPeer (n := n) Peer.hear (fun p => { p with last := some b }) pt
  have peers' := modPeer_modPeer (n := n) ((fun p => { p with last := some b }) ∘ Peer.hear)
    (fun p => { p with dropped := p.dropped &&& b.live }) pt
  rw [← peers] at peers'
  exact congrArg (fun x : Pt => { x with store := pt.store.filter (fun e => e.station != n || IdSet.has b.live e.claim.id) })
    peers'

theorem peer_keep_self (pt : Pt) : (pt.keep n b).peer n = (pt.peer n).keep b := peer_modPeer_self n _ pt

theorem peer_keep_ne (h : m ≠ n) (pt : Pt) : (pt.keep n b).peer m = pt.peer m := peer_modPeer_ne (Ne.symm h) _ pt

theorem nodup_allSlots : allSlots.Nodup := List.nodup_finRange 32

/-- The claim half once the beacon is kept and the change of presence is reported. -/
def Desk.keep (n : Station) (b : Beacon) (reports : List QReport) (d : Desk) : Desk :=
  { d with pt := d.pt.keep n b, hp := { d.hp with reports := reports } }

/-- A good beacon at the Peer Table: the report of the presence, the record kept, the RECALLs. -/
theorem takeBeacon_eq (d : Desk) : ∃ reports,
    d.takeBeacon fc n b = (d.keep n b reports).recallAll n ((d.keep n b reports).asked n allSlots) := by
  have heard : ∃ reports, (d.withPt (Pt.modPeer n Peer.hear)).peerReport fc n (d.pt.peer n).presence =
      { d with pt := d.pt.modPeer n Peer.hear, hp := { d.hp with reports := reports } } := by
    unfold Desk.peerReport
    dsimp only
    split
    · exact ⟨d.hp.reports, rfl⟩
    · exact ⟨_, rfl⟩
  obtain ⟨reports, heard⟩ := heard
  refine ⟨reports, ?_⟩
  unfold Desk.takeBeacon
  dsimp only
  rw [heard, foldl_offerRecall nodup_allSlots]
  dsimp only [Desk.withPt]
  rw [reconcile_hear]
  rfl

/-- Of the ids in the beacon's live set those are missing that are neither stored nor dropped. -/
theorem missing_keep (pt : Pt) : (pt.keep n b).missing n i =
    (b.live.getLsbD i.val && !pt.stores n i && !(pt.peer n).dropped.getLsbD i.val) := by
  have stores (hl : b.live.getLsbD i.val = true) : (pt.keep n b).stores n i = pt.stores n i := by
    refine Bool.eq_iff_iff.mpr (stores_iff.trans (Iff.trans ?_ stores_iff.symm))
    constructor
    · rintro ⟨e, he, hn, hi⟩
      exact ⟨e, (List.mem_filter.mp he).1, hn, hi⟩
    · rintro ⟨e, he, hn, rfl⟩
      refine ⟨e, List.mem_filter.mpr ⟨he, ?_⟩, hn, rfl⟩
      rw [IdSet.has, hl, Bool.or_true]
  unfold Pt.missing
  rw [peer_keep_self]
  have live : IdSet.has (Peer.live ((pt.peer n).keep b)) i = b.live.getLsbD i.val := rfl
  have dropped : IdSet.has ((pt.peer n).keep b).dropped i = ((pt.peer n).dropped.getLsbD i.val && b.live.getLsbD i.val) :=
    BitVec.getLsbD_and
  rw [live, dropped]
  cases hl : b.live.getLsbD i.val with
  | false => rfl
  | true => rw [stores hl, Bool.and_true]

theorem presence_keep (p : Peer) : (p.keep b).presence = presenceAfter p.presence p.seen := rfl

/-! ## A beacon received (R79, R107) -/

/-- A state code of 5, 6 or 7 is no beacon. -/
theorem decodeBeacon_of_reserved {payload : BitVec 64} (h : 5 ≤ (payload.extractLsb' 61 3).toNat) :
    decodeBeacon payload = none := by
  have code : refStOfCode (payloadField payload 3 3).toNat = none := by
    change refStOfCode (payload.extractLsb' 61 3).toNat = none
    generalize (payload.extractLsb' 61 3).toNat = k at h
    match k with
    | 0 | 1 | 2 | 3 | 4 => omega
    | k + 5 => rfl
  rw [decodeBeacon, code]

theorem exec_beaconReceived_bad (h : s.hears n) {payload : BitVec 64} (hb : decodeBeacon payload = none) :
    exec (.beaconReceived n payload) s = .next (s.heard s.desk.pt) := by
  have taken : exec (.beaconReceived n payload) s = .next (s.beaconIn n payload) := next_running h.1 _
  rw [taken, State.beaconIn, hb]
  dsimp only [State.onDesk]
  rw [accept_of_hears h]
  rfl

theorem exec_beaconReceived_good (h : s.hears n) {payload : BitVec 64} (hb : decodeBeacon payload = some b) :
    exec (.beaconReceived n payload) s = .next ((s.withDesk ((s.desk.withCbi Cbi.endFrame).takeBeacon s.fc n b)).onTime
      (fun t => { t with ft := t.ft.gather n b })) := by
  have taken : exec (.beaconReceived n payload) s = .next (s.beaconIn n payload) := next_running h.1 _
  obtain ⟨-, hl, ho, hn⟩ := id h
  have accepts : s.desk.cbi.canAccept = true := by
    simp [Cbi.canAccept, hl, ho]
  rw [taken, State.beaconIn, hb]
  dsimp only [State.onDesk]
  rw [accept_of_hears h, if_pos ⟨accepts, hn⟩]
  rfl

/-- What the tracker makes of a good beacon of a LOCKED peer. -/
theorem gather_of_locked (hst : b.st = .locked) (x : Ft) : x.gather n b =
    let k := (b.fc - x.fc).toNat
    { x with
      tally := x.tally.set n.val (some b.parity)
      cand := if x.fs = .locked ∧ b.fieldLocked = true ∧ 1 ≤ k ∧ k ≤ 32767 ∧ (∀ c, x.cand = some c → c.k < k)
        then some ⟨k, n⟩ else x.cand } := by
  have counted : x.gatherCount n b = { x with
      cand := if x.fs = .locked ∧ b.fieldLocked = true ∧ 1 ≤ (b.fc - x.fc).toNat ∧ (b.fc - x.fc).toNat ≤ 32767 ∧
          (∀ c, x.cand = some c → c.k < (b.fc - x.fc).toNat)
        then some ⟨(b.fc - x.fc).toNat, n⟩ else x.cand } := by
    unfold Ft.gatherCount
    dsimp only
    generalize (b.fc - x.fc).toNat = k
    by_cases ahead : x.fs = .locked ∧ b.fieldLocked = true ∧ 1 ≤ k ∧ k ≤ 32767
    · obtain ⟨hfs, hl, h1, hk⟩ := ahead
      rw [if_pos ⟨hfs, hst, hl, h1, hk⟩]
      cases hc : x.cand with
      | none => simp [hfs, hl, h1, hk]
      | some c =>
        by_cases hlt : c.k < k
        · simp [hfs, hl, h1, hk, hlt]
        · have near : ¬ (x.fs = .locked ∧ b.fieldLocked = true ∧ 1 ≤ k ∧ k ≤ 32767 ∧
              ∀ c' : CountCand, some c = some c' → c'.k < k) := fun h => hlt (h.2.2.2.2 c rfl)
          rw [if_neg near]
          refine (if_neg hlt).trans ?_
          rw [← hc]
    · rw [if_neg fun h => ahead ⟨h.1, h.2.2.1, h.2.2.2⟩, if_neg fun h => ahead ⟨h.1, h.2.1, h.2.2.1, h.2.2.2.1⟩]
  rw [Ft.gather, Ft.gatherParity, if_pos hst, counted]

/-- Settles O28. -/
theorem beaconUpdatesItsSender : Obligations.BeaconUpdatesItsSender := by
  unfold Obligations.BeaconUpdatesItsSender
  refine ⟨fun n payload s h => ⟨fun hcode => exec_beaconReceived_bad h (decodeBeacon_of_reserved hcode), fun b hb => ?_⟩,
    fun n payload b s h hb hst => ⟨_, exec_beaconReceived_good h hb, gather_of_locked hst _⟩⟩
  refine ⟨_, exec_beaconReceived_good h hb, ?_⟩
  obtain ⟨reports, heq⟩ := takeBeacon_eq (fc := s.fc) (n := n) (b := b) (s.desk.withCbi Cbi.endFrame)
  intro p p' lacking asked
  generalize hk : (s.desk.withCbi Cbi.endFrame).keep n b reports = known at heq
  have lacks (i : Slot) : known.lacks n i = (b.live.getLsbD i.val && !s.desk.pt.stores n i && !p.dropped.getLsbD i.val &&
      !p.recalled.getLsbD i.val) := by
    rw [← hk, Desk.lacks, Desk.keep, missing_keep, peer_keep_self]
    rfl
  have ids : known.asked n allSlots = asked := by
    rw [Desk.asked, funext lacks, ← hk]
    rfl
  rw [ids] at heq
  have self : p' = { (p.keep b) with recalled := asked.foldl IdSet.insert p.recalled } := by
    change (((s.desk.withCbi Cbi.endFrame).takeBeacon s.fc n b).pt.peer n) = _
    rw [heq, peer_recallAll_self, ← hk, Desk.keep, peer_keep_self]
    rfl
  have others (m : Station) (hm : m ≠ n) :
      ((s.desk.withCbi Cbi.endFrame).takeBeacon s.fc n b).pt.peer m = s.desk.pt.peer m := by
    rw [heq, peer_recallAll_ne hm, ← hk]
    exact peer_keep_ne hm _
  have store (e : StoreEntry) : e ∈ ((s.desk.withCbi Cbi.endFrame).takeBeacon s.fc n b).pt.store ↔
      e ∈ s.desk.pt.store ∧ (e.station = n → b.live.getLsbD e.claim.id.val = true) := by
    rw [heq, ← hk]
    refine List.mem_filter.trans (and_congr_right fun _ => ?_)
    rw [Bool.or_eq_true, bne_iff_ne, ← imp_iff_not_or]
    rfl
  have rest : ((s.desk.withCbi Cbi.endFrame).takeBeacon s.fc n b).ce = s.desk.ce ∧
      ((s.desk.withCbi Cbi.endFrame).takeBeacon s.fc n b).sb = s.desk.sb ∧
      ((s.desk.withCbi Cbi.endFrame).takeBeacon s.fc n b).ky = s.desk.ky := by
    rw [heq, ← hk]
    exact ⟨rfl, rfl, rfl⟩
  refine ⟨?_, ?_, fun i => ?_, by rw [self]; rfl, by rw [self]; rfl, by rw [self]; rfl, by rw [self]; rfl,
    fun hp => ?_, fun hp => ?_, fun hp => ?_, store, others, rest.1, rest.2.1, rest.2.2, rfl, rfl⟩
  · change ((s.desk.withCbi Cbi.endFrame).takeBeacon s.fc n b).cbi = _
    rw [heq, ← hk]
    rfl
  · change ((s.desk.withCbi Cbi.endFrame).takeBeacon s.fc n b).pt.recalls = _
    rw [heq, ← hk]
    rfl
  · rw [self]
    exact has_foldl_insert asked p.recalled i
  · rw [self]
    dsimp only
    rw [presence_keep, hp]
    rfl
  · rw [self]
    dsimp only
    rw [presence_keep, hp]
    rfl
  · rw [self]
    dsimp only
    rw [presence_keep]
    rcases hp with hp | hp
    all_goals
      rw [hp]
      rfl

end

end Sys2Proof.Machine

namespace Sys2Proof.Machine

/-! ## Cues that leave the air for good -/

/-- The cue is neither SCHEDULED nor ON_AIR. -/
def CueSlot.Grounded (x : CueSlot) : Prop := x.st ≠ .scheduled ∧ x.st ≠ .onAir

/-- An ENDING cue has its WITHDRAW queued. -/
def CueSlot.Offered (x : CueSlot) : Prop := x.st = .ending → x.wdQueued = true

section
variable {d e : Desk} {fc : FieldCount} {i j : Slot} {c : ChainNo}

theorem Desk.Work.grounded (h : Desk.Work false d e) (hi : (d.slot i).Grounded) : (e.slot i).Grounded := by
  obtain ⟨hs, ha⟩ := hi
  refine ⟨fun hst => ?_, fun hst => ?_⟩
  · exact hs ((h.airborne i (Or.inl hst)).1.symm.trans hst)
  · exact ha ((h.airborne i (Or.inr hst)).1.symm.trans hst)

theorem not_grounded_iff {x : CueSlot} : ¬ x.Grounded ↔ x.st = .scheduled ∨ x.st = .onAir := by
  unfold CueSlot.Grounded
  rw [not_and_or, not_not, not_not]

/-- The chain of a cue that stays on air is not over. -/
theorem Desk.Work.busy (h : Desk.Work false d e) (hi : ¬ (e.slot i).Grounded) (hc : (e.slot i).chain = some c)
    (hb : (d.chain c).st ≠ .idle) : (e.chain c).st ≠ .idle := by
  induction h with
  | @trans d m e _ hm ih ih' =>
    refine ih' hi hc (ih (fun hg => hi (hm.grounded hg)) ?_ hb)
    rw [← (hm.airborne i (not_grounded_iff.mp hi)).2.1]
    exact hc
  | @chain d b f hf =>
    rw [chain_modChain]
    split
    next hbc =>
      subst hbc
      rwa [hf]
    next => exact hb
  | @abort d b _ =>
    rw [chain_modChain]
    split
    · exact nofun
    · exact hb
  | @settle d b _ hlive =>
    rw [chain_modChain]
    split
    next hbc =>
      subst hbc
      have live : (d.slot i).st.live = true := by
        rcases not_grounded_iff.mp hi with hst | hst
        · exact congrArg CueSt.live hst
        · exact congrArg CueSt.live hst
      have counted : i ∈ allSlots.filter (fun j => (d.ce.slot j).st.live && (d.ce.slot j).chain == some b) := by
        refine List.mem_filter.mpr ⟨List.mem_finRange i, ?_⟩
        rw [Bool.and_eq_true, beq_iff_eq]
        exact ⟨live, hc⟩
      rw [List.length_eq_zero_iff.mp hlive] at counted
      cases counted
    next => exact hb
  | _ => exact hb

/-- In a sweep whose steps each keep what another has made, each makes its own. -/
theorem foldl_makes {α β : Type} {R : α → β → Prop} {f : β → α → β} (hmake : ∀ x a, R a (f x a))
    (hkeep : ∀ x a b, R a x → R a (f x b)) {l : List α} {a : α} (ha : a ∈ l) (x : β) : R a (l.foldl f x) := by
  obtain ⟨front, rest, rfl⟩ := List.append_of_mem ha
  rw [List.foldl_append, List.foldl_cons]
  generalize hx : f (front.foldl f x) a = y
  have made : R a y := hx ▸ hmake _ a
  clear hx ha
  induction rest generalizing y with
  | nil => exact made
  | cons b rest ih => exact ih _ (hkeep y a b made)

theorem grounded_ended : ((d.ended fc i).slot i).Grounded := by
  unfold Desk.ended
  refine (Desk.Work.wake).grounded ?_
  split
  · rw [slot_freeSlot, if_pos rfl]
    exact ⟨nofun, nofun⟩
  · rw [Desk.unloadRun, slot_modSlot_self]
    exact ⟨nofun, nofun⟩

theorem grounded_beginEnd : ((d.beginEnd fc i).slot i).Grounded := by
  unfold Desk.beginEnd
  dsimp only
  split
  · refine (Desk.Work.offerWithdraw).grounded ?_
    rw [slot_modSlot_self]
    exact ⟨nofun, nofun⟩
  · exact grounded_ended

/-- Whatever its state, an aborted cue is off the air at once when a CLEAR is honoured. -/
theorem grounded_abortCue : ((d.abortCue fc true i).slot i).Grounded := by
  by_cases hg : (d.slot i).Grounded
  · exact (Desk.Work.abortCue true).grounded hg
  · have ends : d.abortCue fc true i = d.beginEnd fc i := by
      rcases not_grounded_iff.mp hg with hst | hst
      all_goals
        rw [Desk.abortCue, hst]
        rfl
    rw [ends]
    exact grounded_beginEnd

theorem grounded_stopCue : ((d.stopCue fc i).slot i).Grounded := by
  by_cases hg : (d.slot i).Grounded
  · exact (Desk.Work.stopCue).grounded hg
  · have ends : d.stopCue fc i = (d.endForChain i).ended fc i := by
      rcases not_grounded_iff.mp hg with hst | hst
      all_goals rw [Desk.stopCue, hst]
    rw [ends]
    exact grounded_ended

theorem grounded_stopCues (i : Slot) : ((d.stopCues fc).slot i).Grounded :=
  foldl_makes (R := fun i x => (Desk.slot x i).Grounded) (fun _ _ => grounded_stopCue)
    (fun _ _ _ h => (Desk.Work.stopCue).grounded h) (List.mem_finRange i) _

/-- A chain that is aborted at once has no cue on air. -/
theorem grounded_abortWith (hb : (d.chain c).st ≠ .idle) (hc : (d.slot i).chain = some c) :
    ((d.abortWith fc true c).slot i).Grounded := by
  unfold Desk.abortWith
  rw [if_neg hb]
  have member : i ∈ allSlots.filter ((d.modChain c Chain.abort).inChain c) := by
    refine List.mem_filter.mpr ⟨List.mem_finRange i, ?_⟩
    rw [Desk.inChain, slot_modChain, hc]
    exact beq_self_eq_true _
  refine (Desk.Work.checkChain).grounded ?_
  exact foldl_makes (R := fun i x => (Desk.slot x i).Grounded) (fun _ _ => grounded_abortCue)
    (fun _ _ _ h => (Desk.Work.abortCue true).grounded h) member _

theorem work_abortWiths (l : List ChainNo) (d : Desk) : Desk.Work false d (l.foldl (Desk.abortWith fc true) d) :=
  Desk.Work.fold _ (fun _ _ => Desk.Work.abortWith true) l d

/-- An honoured CLEAR takes every cue of a chain that is not IDLE off the air. -/
theorem grounded_abortAllAtOnce (hc : (d.slot i).chain = some c) (hb : (d.chain c).st ≠ .idle) :
    ((d.abortAllAtOnce fc).slot i).Grounded := by
  unfold Desk.abortAllAtOnce
  refine (Desk.Work.retryIfReleased d).grounded ?_
  have member : c ∈ allChains := List.mem_finRange c
  obtain ⟨front, rest, hl⟩ := List.append_of_mem member
  rw [hl, List.foldl_append, List.foldl_cons]
  refine (work_abortWiths rest _).grounded ?_
  have before : Desk.Work false d (front.foldl (Desk.abortWith fc true) d.abortChains) :=
    (Desk.Work.abortChains).trans (work_abortWiths front _)
  by_cases hg : ((front.foldl (Desk.abortWith fc true) d.abortChains).slot i).Grounded
  · exact (Desk.Work.abortWith true).grounded hg
  · have chain := (before.airborne i (not_grounded_iff.mp hg)).2.1.trans hc
    exact grounded_abortWith (before.busy hg chain hb) chain

end

/-! ## The queue under an abort -/

namespace Cbi.Beside

variable {d : Desk} {fc : FieldCount} {i : Slot} {c : ChainNo}

theorem retryIfReleased (before : Desk) : d.cbi.Beside (d.retryIfReleased fc before).cbi := by
  unfold Desk.retryIfReleased
  split
  · exact retry
  · exact refl _

theorem beginEnd : d.cbi.Beside (d.beginEnd fc i).cbi := by
  unfold Desk.beginEnd
  dsimp only
  split
  · exact offerWithdraw.after (by simp)
  · exact of_eq (by simp)

theorem endClaiming (a : Bool) : d.cbi.Beside (d.endClaiming fc a i).cbi := by
  unfold Desk.endClaiming
  dsimp only
  split
  · split
    · rw [cbi_claimGone, cbi_itemLeft]
      exact settle _
    · split <;> exact refl _
  · exact refl _

theorem abortCue (b : Bool) : d.cbi.Beside (d.abortCue fc b i).cbi := by
  unfold Desk.abortCue
  split
  · exact tryStart.after (by simp)
  · split
    · exact beginEnd
    · exact refl _
  · split
    · exact beginEnd
    · exact refl _
  · exact endClaiming true
  all_goals exact refl _

theorem abortWith (b : Bool) : d.cbi.Beside (d.abortWith fc b c).cbi := by
  unfold Desk.abortWith
  dsimp only
  split
  · exact refl _
  · rw [cbi_checkChain]
    exact (fold (Desk.abortCue fc b) (fun _ _ => abortCue b) _).after rfl

theorem abortAllAtOnce : d.cbi.Beside (d.abortAllAtOnce fc).cbi :=
  ((fold (Desk.abortWith fc true) (fun _ _ => abortWith true) allChains).after cbi_abortChains).trans (retryIfReleased d)

end Cbi.Beside

/-! ## CLEAR_RECEIVED (R134, R151) -/

section
variable {s : State} {d : Desk} {fc : FieldCount} {n : Station}

theorem exec_clearReceived (h : s.hears n) : exec (.clearReceived n) s =
    .next (s.withDesk ((s.desk.withCbi Cbi.endFrame).takeClear s.fc n)) := by
  have taken : exec (.clearReceived n) s = .next (s.withDesk (s.desk.accept s.fc s.straps.stn n 5
    (Desk.takeClear s.fc n))) := next_running h.1 _
  rw [taken, accept_of_hears h]

theorem takeClear_ignored (h : d.pt.accept.getLsbD n.val = false) :
    d.takeClear fc n = d.post fc (.clearSeen n false fc) :=
  if_neg fun ha => Bool.false_ne_true (h.symm.trans ha)

theorem takeClear_honoured (h : d.pt.accept.getLsbD n.val = true) : d.takeClear fc n =
    (((d.abortAllAtOnce fc).stopKeyerNextLine).withPt (Pt.forget n)).post fc (.clearSeen n true fc) := if_pos h

theorem peer_forget (pt : Pt) : (pt.forget n).peer n =
    { pt.peer n with dropped := 0, last := (pt.peer n).last.map (fun b => { b with live := 0, top := none }) } :=
  peer_modPeer_self n _ _

theorem live_forget (pt : Pt) : ((pt.forget n).peer n).live = 0 := by
  rw [peer_forget, Peer.live]
  cases (pt.peer n).last <;> rfl

theorem mem_forget {pt : Pt} {e : StoreEntry} : e ∈ (pt.forget n).store ↔ e ∈ pt.store ∧ e.station ≠ n := by
  refine List.mem_filter.trans (and_congr_right fun _ => ?_)
  exact bne_iff_ne

/-- Settles O32. -/
theorem clearIsHonouredOrIgnored : Obligations.ClearIsHonouredOrIgnored := by
  unfold Obligations.ClearIsHonouredOrIgnored
  intro n s h
  refine ⟨fun ha => ?_, fun ha => ⟨_, exec_clearReceived h, ?_⟩⟩
  · rw [exec_clearReceived h, takeClear_ignored (d := s.desk.withCbi Cbi.endFrame) ha]
    rfl
  · rw [takeClear_honoured (d := s.desk.withCbi Cbi.endFrame) ha]
    have work : Desk.Work false s.desk ((s.desk.withCbi Cbi.endFrame).abortAllAtOnce s.fc) :=
      (Desk.Work.withCbi _ _).trans Desk.Work.abortAllAtOnce
    have beside : (s.desk.withCbi Cbi.endFrame).cbi.Beside ((s.desk.withCbi Cbi.endFrame).abortAllAtOnce s.fc).cbi :=
      Cbi.Beside.abortAllAtOnce
    have pt : ((s.desk.withCbi Cbi.endFrame).abortAllAtOnce s.fc).pt = s.desk.pt := work.leaves.pt
    refine ⟨?_, ?_, ?_, fun e => ?_, ?_, ?_, ?_, fun i c hc hb => ?_, rfl⟩
    · exact (congrArg Cbi.line beside).trans rfl
    · change (if _ then StopFlag.acting else StopFlag.nextLine) ≠ _
      split <;> exact nofun
    · exact (congrArg Ky.key work.leaves.ky :)
    · rw [← pt]
      exact mem_forget
    · exact congrArg Peer.dropped (peer_forget _)
    · exact live_forget _
    · rw [← pt]
      exact (congrArg Peer.presence (peer_forget (n := n) _) :)
    · exact grounded_abortAllAtOnce (d := s.desk.withCbi Cbi.endFrame) hc hb

end

end Sys2Proof.Machine

namespace Sys2Proof.Machine

/-! ## Nothing waits for a withdraw

After every cue is stopped an ENDING one has its WITHDRAW queued, and no chain runs: at such a moment there is nothing to try
again. -/

section
variable {d : Desk} {fc : FieldCount} {i j : Slot} {c : ChainNo}

theorem CueSlot.offered_of_ne {x : CueSlot} (h : x.st ≠ .ending) : x.Offered := fun he => absurd he h

theorem offered_modSlot {f : CueSlot → CueSlot} (hf : (d.slot i).Offered → (f (d.slot i)).Offered)
    (h : (d.slot j).Offered) : ((d.modSlot i f).slot j).Offered := by
  rw [slot_modSlot]
  split
  next hij => exact hf (hij ▸ h)
  next => exact h

theorem offered_fold {α : Type} {f : Desk → α → Desk} (hf : ∀ (x : Desk) a, (x.slot j).Offered → ((f x a).slot j).Offered)
    (l : List α) (h : (d.slot j).Offered) : ((l.foldl f d).slot j).Offered := by
  induction l generalizing d with
  | nil => exact h
  | cons a l ih => exact ih (hf d a h)

theorem offered_itemLeft (m : Bool) (h : (d.slot j).Offered) : ((d.itemLeft fc m).slot j).Offered := by
  unfold Desk.itemLeft
  split
  · split <;> exact h
  · exact h

theorem offered_testStart (h : (d.slot j).Offered) : ((d.testStart fc i).slot j).Offered := by
  unfold Desk.testStart
  dsimp only
  split
  · exact offered_modSlot (fun hx => hx) h
  · exact h

theorem offered_arm (p : Option Slot) (b : Bool) (h : (d.slot j).Offered) : ((d.arm fc c i p b).slot j).Offered := by
  refine offered_testStart ?_
  rw [slot_modChain]
  exact offered_modSlot (fun _ => CueSlot.offered_of_ne nofun) h

theorem offered_armSuccessor (p : Slot) (next : Option Slot) (b : Bool) (h : (d.slot j).Offered) :
    ((d.armSuccessor fc c p next b).slot j).Offered := by
  unfold Desk.armSuccessor
  split
  · exact h
  · split
    · exact offered_arm _ _ h
    · exact h
    · exact h

theorem offered_succeedNow (h : (d.slot j).Offered) : ((d.succeedNow fc i).slot j).Offered := by
  unfold Desk.succeedNow Desk.succeed
  dsimp only
  split
  · split
    · exact h
    · split
      · split
        · exact h
        · exact offered_armSuccessor _ _ _ (offered_modSlot (fun hx => hx) h)
      · exact h
  · exact h

theorem offered_wake (h : (d.slot j).Offered) : ((d.wake fc i).slot j).Offered := by
  refine offered_fold (fun x c hx => ?_) allChains h
  unfold Desk.wakeChain
  split
  · split
    · split
      · exact offered_arm _ _ hx
      · rw [slot_checkChain, slot_modChain]
        exact hx
      · exact hx
    · exact hx
  · exact hx

theorem offered_endForChain (h : (d.slot j).Offered) : ((d.endForChain i).slot j).Offered := by
  obtain ⟨b, hb⟩ := slot_endForChain_marked (d := d) (i := j) (j := i)
  rw [hb]
  exact h

theorem offered_gone (h : (d.slot j).Offered) :
    ((if (d.slot i).cue.autoFree then d.freeSlot i else d.unloadRun i).slot j).Offered := by
  split
  · rw [slot_freeSlot]
    split
    · exact CueSlot.offered_of_ne nofun
    · exact h
  · exact offered_modSlot (fun _ => CueSlot.offered_of_ne nofun) h

/-- The slot that ends, once its end is told. -/
theorem ended_eq (d : Desk) : d.ended fc i =
    (let told := if (d.slot i).cue.notifyEnd then d.cueReport fc i .ended else d
     (if (told.slot i).cue.autoFree then told.freeSlot i else told.unloadRun i)).wake fc i := by
  unfold Desk.ended
  dsimp only
  cases (d.slot i).cue.notifyEnd <;> rfl

theorem offered_ended (h : (d.slot j).Offered) : ((d.ended fc i).slot j).Offered := by
  rw [ended_eq]
  refine offered_wake (offered_gone ?_)
  split <;> exact h

theorem offered_ended_self : ((d.ended fc i).slot i).Offered := by
  unfold Desk.ended
  refine offered_wake (CueSlot.offered_of_ne ?_)
  split
  · rw [slot_freeSlot, if_pos rfl]
    exact nofun
  · rw [Desk.unloadRun, slot_modSlot_self]
    exact nofun

theorem offered_frameDiscarded (w : TxWhat) (h : (d.slot j).Offered) : ((d.frameDiscarded fc w).slot j).Offered := by
  unfold Desk.frameDiscarded Desk.claimGone Desk.withdrawDone Desk.endNow
  split
  · split
    · rw [slot_checkChainOf]
      exact offered_ended (offered_succeedNow (offered_endForChain h))
    · exact h
  · split
    · rw [slot_checkChainOf]
      exact offered_ended h
    · exact h
  all_goals exact h

theorem offered_tellDiscards (es : List TxEntry) (h : (d.slot j).Offered) : ((d.tellDiscards fc es).slot j).Offered := by
  refine offered_fold (fun x e hx => ?_) es h
  dsimp only
  split
  · exact offered_frameDiscarded _ (offered_itemLeft _ hx)
  · exact offered_itemLeft _ hx

theorem offered_stopCue (h : (d.slot j).Offered) : ((d.stopCue fc i).slot j).Offered := by
  unfold Desk.stopCue
  split
  · exact offered_modSlot (fun _ => CueSlot.offered_of_ne nofun) h
  · exact offered_ended (offered_endForChain h)
  · exact offered_ended (offered_endForChain h)
  · exact offered_modSlot (fun hx => hx) h
  · split
    · exact h
    · exact offered_ended h
  · exact h
  · exact h

theorem offered_stopCue_self : ((d.stopCue fc i).slot i).Offered := by
  by_cases he : (d.slot i).st = .ending
  · rw [Desk.stopCue, he]
    dsimp only
    split
    next hq => exact fun _ => hq
    next => exact offered_ended_self
  · exact offered_stopCue (CueSlot.offered_of_ne he)

theorem offered_stopCues (i : Slot) : ((d.stopCues fc).slot i).Offered :=
  foldl_makes (R := fun i x => (Desk.slot x i).Offered) (fun _ _ => offered_stopCue_self) (fun _ _ _ h => offered_stopCue h)
    (List.mem_finRange i) _

/-- With every withdraw offered and no chain running nothing is tried again. -/
theorem retry_quiet (hw : ∀ i, (d.slot i).Offered) (hc : ∀ c, (d.chain c).st ≠ .running) : d.retry fc = d := by
  have withdraws (i : Slot) : d.offerWithdraw i = d := by
    refine if_neg fun h => ?_
    obtain ⟨hst, hq, -⟩ := h
    exact Bool.false_ne_true (hq.symm.trans (hw i hst))
  have starts (i : Slot) : d.tryStart fc i = d := by
    refine if_neg fun h => ?_
    obtain ⟨-, -, -, hruns⟩ := h
    unfold Desk.runsSlot at hruns
    split at hruns
    · exact hc _ (beq_iff_eq.mp hruns)
    · cases hruns
  rw [Desk.retry, List.foldl_fixed' (f := fun (x : Desk) i => x.offerWithdraw i) withdraws,
    List.foldl_fixed' (f := fun (x : Desk) i => x.tryStart fc i) starts]

/-! ## Every cue stopped (R118, R150, R151) -/

/-- Every cue stopped and the Keyer with them, the queue changed by `g`, and the owners of the discarded frames told. -/
def Desk.stopAll (fc : FieldCount) (g : Cbi → Cbi) (es : List TxEntry) (d : Desk) : Desk :=
  (((((d.stopCues fc).stopKeyerNow.withCbi g).tellDiscards fc es).checkChains fc).retryIfReleased fc d)

theorem clearAll_eq (d : Desk) : d.clearAll fc =
    d.stopAll fc Cbi.enqueueClear (d.stopCues fc).stopKeyerNow.cbi.waitingEntries := rfl

theorem muteCues_eq (d : Desk) : d.muteCues fc =
    d.stopAll fc (fun c => { c with txq := [], passLock := false }) (d.stopCues fc).stopKeyerNow.cbi.txq := rfl

/-- The desk before the moment of trying again. -/
def Desk.silenced (fc : FieldCount) (g : Cbi → Cbi) (es : List TxEntry) (d : Desk) : Desk :=
  ((((d.stopCues fc).stopKeyerNow.withCbi g).tellDiscards fc es).checkChains fc)

variable {g : Cbi → Cbi} {es : List TxEntry}

theorem work_silenced (air : Bool) : Desk.Work air (d.stopCues fc).stopKeyerNow (d.silenced fc g es) :=
  ((Desk.Work.withCbi g _).trans (Desk.Work.tellDiscards es)).trans Desk.Work.checkChains

theorem chain_stopKeyerNow : d.stopKeyerNow.chain c = d.chain c := rfl

theorem slot_stopKeyerNow : d.stopKeyerNow.slot i = d.slot i := rfl

/-- A chain after the stop is aborted or over. -/
theorem stopped_abortChains (c : ChainNo) : (d.abortChains.chain c).st = .idle ∨ (d.abortChains.chain c).st = .aborting := by
  refine foldl_makes (R := fun (c : ChainNo) (x : Desk) => (x.chain c).st = .idle ∨ (x.chain c).st = .aborting)
    (fun x a => ?_) (fun x a b h => ?_) (List.mem_finRange c) d
  · split
    next h => exact Or.inl h
    next => exact Or.inr (by rw [chain_modChain, if_pos rfl]; rfl)
  · split
    next => exact h
    next hb => exact (Desk.Work.abort (air := false) hb).stopped a h

theorem stopped_silenced (c : ChainNo) :
    ((d.silenced fc g es).chain c).st = .idle ∨ ((d.silenced fc g es).chain c).st = .aborting := by
  refine (work_silenced false).stopped c ?_
  rw [chain_stopKeyerNow]
  have stops : Desk.Work false d.abortChains (d.stopCues fc) :=
    Desk.Work.fold _ (fun _ _ => Desk.Work.stopCue) allSlots _
  exact stops.stopped c (stopped_abortChains c)

theorem offered_silenced (i : Slot) : ((d.silenced fc g es).slot i).Offered := by
  have told : ((((d.stopCues fc).stopKeyerNow.withCbi g).tellDiscards fc es).slot i).Offered :=
    offered_tellDiscards es (by rw [slot_withCbi, slot_stopKeyerNow]; exact offered_stopCues i)
  have looked (x : Desk) (c : ChainNo) (hx : (x.slot i).Offered) : ((x.checkChain fc c).slot i).Offered := by
    rw [slot_checkChain]
    exact hx
  unfold Desk.silenced Desk.checkChains
  exact offered_fold looked allChains told

/-- At the end of a stop nothing is tried again. -/
theorem stopAll_eq_silenced : d.stopAll fc g es = d.silenced fc g es := by
  change (d.silenced fc g es).retryIfReleased fc d = _
  unfold Desk.retryIfReleased
  split
  · refine retry_quiet offered_silenced fun c hrun => ?_
    rcases stopped_silenced (d := d) (fc := fc) (g := g) (es := es) c with h | h
    all_goals
      rw [h] at hrun
      cases hrun
  · rfl

theorem cbi_stopAll : (d.stopAll fc g es).cbi = g d.cbi := by
  rw [stopAll_eq_silenced, Desk.silenced, cbi_checkChains, cbi_tellDiscards, withCbi_cbi, cbi_stopKeyerNow, cbi_stopCues]

theorem leaves_stopAll : (d.stopCues fc).stopKeyerNow.Leaves (d.stopAll fc g es) := by
  rw [stopAll_eq_silenced]
  exact (work_silenced false).leaves

theorem leaves_stopCues : d.Leaves (d.stopCues fc) := (Desk.Work.stopCues (air := false)).leaves

theorem ky_stopAll : (d.stopAll fc g es).ky = { d.ky.silence with stop := .acting } := by
  rw [leaves_stopAll.ky]
  change { (d.stopCues fc).ky.silence with stop := .acting } = _
  rw [leaves_stopCues.ky]

theorem pt_stopKeyerNow : d.stopKeyerNow.pt = d.pt := rfl

theorem sb_stopKeyerNow : d.stopKeyerNow.sb = d.sb := rfl

theorem pt_stopAll : (d.stopAll fc g es).pt = d.pt := by
  rw [leaves_stopAll.pt, pt_stopKeyerNow, leaves_stopCues.pt]

theorem sb_stopAll : (d.stopAll fc g es).sb = d.sb := by
  rw [leaves_stopAll.sb, sb_stopKeyerNow, leaves_stopCues.sb]

theorem stopped_stopAll (c : ChainNo) :
    ((d.stopAll fc g es).chain c).st = .idle ∨ ((d.stopAll fc g es).chain c).st = .aborting := by
  rw [stopAll_eq_silenced]
  exact stopped_silenced c

theorem grounded_stopAll (i : Slot) : ((d.stopAll fc g es).slot i).Grounded := by
  rw [stopAll_eq_silenced]
  refine (work_silenced false).grounded ?_
  rw [slot_stopKeyerNow]
  exact grounded_stopCues i

/-- With every cue off the air the live set is empty. -/
theorem liveSet_of_grounded (h : ∀ i, (d.slot i).Grounded) : d.ce.liveSet = 0 := by
  refine IdSet.ofPred_of_none fun i => ?_
  obtain ⟨hs, ha⟩ := h i
  change ((d.slot i).cue.announce && ((d.slot i).st == .scheduled || (d.slot i).st == .onAir)) = false
  rw [beq_eq_false_iff_ne.mpr hs, beq_eq_false_iff_ne.mpr ha]
  exact Bool.and_false _

end

section
variable {s : State} {c : Cbi}

/-- Of the frames before a CLEAR none waits behind it (R114). -/
theorem waiting_enqueueClear {e : TxEntry} (he : e ∈ c.enqueueClear.txq) (hw : e.stage = .waiting) : e.what = .clear := by
  rcases List.mem_cons.mp he with rfl | he
  · rfl
  · rw [Cbi.purge, settleLock_txq] at he
    obtain ⟨x, hx, rfl⟩ := List.mem_map.mp he
    have stays := (List.mem_filter.mp hx).2
    exact absurd hw (bne_iff_ne.mp stays)

theorem exec_clearAll (h : s.taken) : exec .clearAll s = .next (s.withDesk (s.desk.clearAll s.fc)) := by
  exact congrArg Host.Outcome.next (State.request_taken h (by decide) _)

/-- Settles O46. -/
theorem clearAllStopsEverything : Obligations.ClearAllStopsEverything := by
  unfold Obligations.ClearAllStopsEverything
  intro s h
  refine ⟨_, exec_clearAll h, ?_⟩
  rw [clearAll_eq]
  have ky := ky_stopAll (d := s.desk) (fc := s.fc) (g := Cbi.enqueueClear)
    (es := (s.desk.stopCues s.fc).stopKeyerNow.cbi.waitingEntries)
  have cbi := cbi_stopAll (d := s.desk) (fc := s.fc) (g := Cbi.enqueueClear)
    (es := (s.desk.stopCues s.fc).stopKeyerNow.cbi.waitingEntries)
  refine ⟨?_, fun e he hw => ?_, congrArg Ky.key ky, fun b hb => ?_, congrArg Ky.stop ky, grounded_stopAll,
    liveSet_of_grounded grounded_stopAll, fun c => (stopped_stopAll c).symm, rfl, pt_stopAll, sb_stopAll⟩
  · exact congrArg (fun x => x.txq.head?) cbi
  · refine waiting_enqueueClear (c := s.desk.cbi) ?_ hw
    rw [← cbi]
    exact he
  · have delay := congrArg Ky.delay ky
    change b ∈ (Desk.stopAll _ _ _ _).ky.delay at hb
    rw [delay] at hb
    obtain ⟨x, -, rfl⟩ := List.mem_map.mp hb
    rfl

/-! ## A frame with the own number (R118, R151) -/

theorem mute_eq {d : Desk} (fc : FieldCount) (kind : Nat) (h : d.cbi.muted = false) : d.mute fc kind =
    (((d.withCbi (fun c => { c with muted := true, beaconDue := false })).post fc (.muted fc kind)).muteCues fc) :=
  if_neg fun hm => Bool.false_ne_true (h.symm.trans hm)

/-- What muting makes of the claim half. -/
theorem muted_mute {d : Desk} (fc : FieldCount) (kind : Nat) (h : d.cbi.muted = false) :
    (d.mute fc kind).cbi = { d.cbi with muted := true, beaconDue := false, txq := [], passLock := false } ∧
    (d.mute fc kind).ky = { d.ky.silence with stop := .acting } ∧ (d.mute fc kind).pt = d.pt ∧
    ∀ c, ((d.mute fc kind).chain c).st = .idle ∨ ((d.mute fc kind).chain c).st = .aborting := by
  rw [mute_eq fc kind h, muteCues_eq]
  exact ⟨cbi_stopAll, ky_stopAll, pt_stopAll, stopped_stopAll⟩

theorem accept_own {d : Desk} (fc : FieldCount) (stn : Station) (kind : Nat) (f : Desk → Desk) (hl : d.cbi.line = .receiving)
    (ho : d.cbi.objected = false) : d.accept fc stn stn kind f = (d.withCbi Cbi.endFrame).mute fc kind := by
  have accepts : d.cbi.canAccept = true := by
    simp [Cbi.canAccept, hl, ho]
  rw [Desk.accept, if_pos accepts, if_pos rfl]

/-- A good frame of any kind with the own number. -/
theorem exec_own {i : Instr} (h : s.resetHeld = false) (hl : s.desk.cbi.line = .receiving) (ho : s.desk.cbi.objected = false)
    (hi : (∃ p, i = .beaconReceived s.straps.stn p) ∨ (∃ p, i = .claimReceived s.straps.stn p) ∨
      (∃ p, i = .withdrawReceived s.straps.stn p) ∨ (∃ p, i = .recallReceived s.straps.stn p) ∨
      i = .clearReceived s.straps.stn) :
    ∃ kind, exec i s = .next (s.withDesk ((s.desk.withCbi Cbi.endFrame).mute s.fc kind)) := by
  have own (kind : Nat) (f : Desk → Desk) := accept_own s.fc s.straps.stn kind f hl ho
  rcases hi with ⟨p, rfl⟩ | ⟨p, rfl⟩ | ⟨p, rfl⟩ | ⟨p, rfl⟩ | rfl
  · refine ⟨1, ?_⟩
    have taken : exec (.beaconReceived s.straps.stn p) s = .next (s.beaconIn s.straps.stn p) := next_running h _
    rw [taken, State.beaconIn]
    dsimp only [State.onDesk]
    split
    · rw [own, if_neg fun hne => hne.2 rfl]
      rfl
    · rw [own]
      rfl
  · have taken : exec (.claimReceived s.straps.stn p) s = .next (s.withDesk (s.desk.accept s.fc s.straps.stn s.straps.stn 2
      (Desk.withPt (Pt.takeClaim s.straps.stn (decodeClaim p).1 (decodeClaim p).2)))) := next_running h _
    exact ⟨2, by rw [taken, own]⟩
  · have taken : exec (.withdrawReceived s.straps.stn p) s = .next (s.withDesk (s.desk.accept s.fc s.straps.stn
      s.straps.stn 3 (Desk.withPt (Pt.takeWithdraw s.straps.stn (decodeWithdraw p))))) := next_running h _
    exact ⟨3, by rw [taken, own]⟩
  · have taken : exec (.recallReceived s.straps.stn p) s = .next (s.withDesk (s.desk.accept s.fc s.straps.stn
      s.straps.stn 4 (Desk.takeRecall s.straps.stn (decodeRecall p).1 (decodeRecall p).2))) := next_running h _
    exact ⟨4, by rw [taken, own]⟩
  · have taken : exec (.clearReceived s.straps.stn) s = .next (s.withDesk (s.desk.accept s.fc s.straps.stn s.straps.stn 5
      (Desk.takeClear s.fc s.straps.stn))) := next_running h _
    exact ⟨5, by rw [taken, own]⟩

/-- Settles O33. -/
theorem ownNumberMutes : Obligations.OwnNumberMutes := by
  unfold Obligations.OwnNumberMutes
  intro i s h hl ho hm hi
  obtain ⟨kind, hexec⟩ := exec_own h hl ho hi
  obtain ⟨cbi, ky, pt, chains⟩ := muted_mute (d := s.desk.withCbi Cbi.endFrame) s.fc kind hm
  refine ⟨_, hexec, congrArg Cbi.muted cbi, congrArg Cbi.txq cbi, congrArg Cbi.beaconDue cbi, congrArg Cbi.line cbi,
    congrArg Ky.key ky, ?_, pt, rfl, chains⟩
  change (_ || (Desk.mute _ _ _).cbi.muted || _) = true
  rw [congrArg Cbi.muted cbi, Bool.or_true, Bool.true_or]

end

end Sys2Proof.Machine

namespace Sys2Proof.Machine

/-! ## The report queue (R180, R182) -/

section
variable {fc : FieldCount} {r : Report} {qs before after : List QReport} {q : QReport}

theorem queued_iff : queued r qs = true ↔ ∃ q ∈ qs, q.report.key = r.key := by
  simp [queued]

theorem queued_of_none (h : ∀ x ∈ qs, x.report.key ≠ r.key) : ¬ queued r qs = true := by
  rw [queued_iff]
  rintro ⟨q, hq, hk⟩
  exact h q hq hk

/-- One record of a list changed. -/
theorem map_change {α : Type} {p : α → Bool} (f : α → α) {before after : List α} {x : α} (hx : p x = true)
    (h : ∀ y ∈ before ++ after, ¬ p y = true) :
    (before ++ x :: after).map (fun y => if p y then f y else y) = before ++ f x :: after := by
  have same (l : List α) (hl : ∀ y ∈ l, ¬ p y = true) : l.map (fun y => if p y then f y else y) = l :=
    (List.map_congr_left fun y hy => if_neg (hl y hy)).trans (List.map_id' l)
  rw [List.map_append, List.map_cons, same before fun y hy => h y (List.mem_append_left _ hy),
    same after fun y hy => h y (List.mem_append_right _ hy), if_pos hx]

/-- A report of a kind and subject that is queued takes that record's place. -/
theorem postReport_again (hk : q.report.key = r.key) (ho : ∀ x ∈ before ++ after, x.report.key ≠ r.key) :
    postReport fc r (before ++ q :: after) = before ++ q.again1 r :: after := by
  have there : queued r (before ++ q :: after) = true :=
    queued_iff.mpr ⟨q, List.mem_append_right _ List.mem_cons_self, hk⟩
  rw [postReport, if_pos there, coalesce]
  exact map_change (p := fun x : QReport => x.report.key == r.key) (fun x => x.again1 r) (beq_iff_eq.mpr hk)
    fun x hx hb => ho x hx (beq_iff_eq.mp hb)

theorem again1_of_not_status (hr : ∀ f, r ≠ .status f) : q.again1 r = ⟨r, min 255 (q.again + 1)⟩ := by
  have merged : q.report.mergeInto r = r := by
    cases r with
    | status f => exact absurd rfl (hr f)
    | _ => cases q.report <;> rfl
  rw [QReport.again1, merged]
  rfl

/-- A new report finds room. -/
theorem postReport_new (hn : ∀ x ∈ qs, x.report.key ≠ r.key) (hl : qs.length < 15) :
    postReport fc r qs = qs ++ [⟨r, 0⟩] := by
  rw [postReport, if_neg (queued_of_none hn), if_pos hl]

theorem postReport_full (hn : ∀ x ∈ qs, x.report.key ≠ r.key) (hl : 15 ≤ qs.length) :
    postReport fc r qs = overflowed r fc qs := by
  rw [postReport, if_neg (queued_of_none hn), if_neg (Nat.not_lt.mpr hl)]

theorem overflowed_new (h : ∀ x ∈ qs, isOverflow x = false) :
    overflowed r fc qs = qs ++ [⟨.overflow r.kind fc, 0⟩] := by
  refine if_neg fun hany => ?_
  obtain ⟨x, hx, ho⟩ := List.any_eq_true.mp hany
  exact Bool.false_ne_true ((h x hx).symm.trans ho)

theorem overflowed_again (hq : isOverflow q = true) (ho : ∀ x ∈ before ++ after, isOverflow x = false) :
    overflowed r fc (before ++ q :: after) = before ++ ⟨.overflow r.kind fc, min 255 (q.again + 1)⟩ :: after := by
  have there : (before ++ q :: after).any isOverflow = true :=
    List.any_eq_true.mpr ⟨q, List.mem_append_right _ List.mem_cons_self, hq⟩
  rw [overflowed, if_pos there]
  exact map_change (p := isOverflow) (fun x => ⟨.overflow r.kind fc, satInc 255 x.again⟩) hq
    fun x hx hb => Bool.false_ne_true ((ho x hx).symm.trans hb)

/-- The queue that finds no room holds the OVERFLOW record. -/
theorem any_overflowed (r : Report) (fc : FieldCount) (qs : List QReport) : (overflowed r fc qs).any isOverflow = true := by
  unfold overflowed
  split
  next h =>
    obtain ⟨x, hx, ho⟩ := List.any_eq_true.mp h
    refine List.any_eq_true.mpr ⟨⟨.overflow r.kind fc, satInc 255 x.again⟩, List.mem_map.mpr ⟨x, hx, if_pos ho⟩, rfl⟩
  next => exact List.any_eq_true.mpr ⟨_, List.mem_append_right _ (List.mem_singleton_self _), rfl⟩

/-- Settles O37. -/
theorem reportsCoalesceOrQueue : Obligations.ReportsCoalesceOrQueue := by
  unfold Obligations.ReportsCoalesceOrQueue
  intro fc r qs
  refine ⟨fun before q after hr hqs hk ho => ?_, fun before f again after new hr hqs ho => ?_, fun hn => ⟨fun hl => ?_,
    fun hl ho => ?_, fun before q after hl hqs hq ho => ?_⟩⟩
  · rw [hqs, postReport_again hk ho, again1_of_not_status hr]
  · subst hr
    rw [hqs]
    exact postReport_again (q := ⟨.status f, again⟩) (r := .status new) rfl ho
  · exact postReport_new hn hl
  · rw [postReport_full hn hl, overflowed_new ho]
  · rw [postReport_full hn hl, hqs, overflowed_again hq ho]

end

/-! ## Requests judged (R176) -/

section
variable {s : State} {k : Byte}

/-- Every request is judged before it acts. -/
theorem exec_request {c : Instr} (h : requestKindOf c = some k) :
    ∃ f, exec c s = .next (s.running (State.request k f)) := by
  cases c
  case configure => cases h; exact ⟨_, rfl⟩
  case reinit => cases h; exact ⟨_, rfl⟩
  case statusQuery => cases h; exact ⟨_, rfl⟩
  case loadCue => cases h; exact ⟨_, rfl⟩
  case freeCue => cases h; exact ⟨_, rfl⟩
  case startChain => cases h; exact ⟨_, rfl⟩
  case pauseChain => cases h; exact ⟨_, rfl⟩
  case resumeChain => cases h; exact ⟨_, rfl⟩
  case abortChain => cases h; exact ⟨_, rfl⟩
  case withdrawCue => cases h; exact ⟨_, rfl⟩
  case shift => cases h; exact ⟨_, rfl⟩
  case recentre => cases h; exact ⟨_, rfl⟩
  case holdSlips => cases h; exact ⟨_, rfl⟩
  case fence => cases h; exact ⟨_, rfl⟩
  case clearAll => cases h; exact ⟨_, rfl⟩
  all_goals cases h

theorem exec_refused {c : Instr} {why : Reason} (h : s.resetHeld = false) (hk : requestKindOf c = some k)
    (hr : s.desk.refusalOf k = some why) : exec c s = .next (s.report (.refused k why s.fc)) := by
  obtain ⟨f, hf⟩ := exec_request (s := s) hk
  rw [hf, next_running h, State.request_of_refused hr]
  rfl

theorem refusalOf_unconfigured {d : Desk} (hc : d.hp.configured = false) (hk : 4 ≤ k.toNat) :
    d.refusalOf k = some .unconfigured := by
  have refused : takenUnconfigured k = false := by
    rw [takenUnconfigured, decide_eq_false (Nat.not_le.mpr hk), Bool.and_false]
  rw [Desk.refusalOf, if_pos ⟨hc, refused⟩]

theorem refusalOf_second_configure {d : Desk} (hc : d.hp.configured = true) : d.refusalOf 1 = some .alreadyConfigured := by
  simp [Desk.refusalOf, hc]

theorem refusalOf_muted {d : Desk} (hc : d.hp.configured = true) (hm : d.cbi.muted = true)
    (hk : (4 ≤ k.toNat ∧ k.toNat ≤ 10) ∨ k = 15) : d.refusalOf k = some .muted := by
  have refused : mutedRefuses k = true := by
    simpa [mutedRefuses] using hk
  have other : ¬ k = 1#8 := by
    rintro rfl
    exact absurd hk (by decide)
  simp [Desk.refusalOf, hc, hm, other, refused]

/-- The requests that any station takes, but CONFIGURE. -/
theorem refusalOf_always {d : Desk} (ht : takenUnconfigured k = true) (hm : mutedRefuses k = false) (hk : k ≠ 1) :
    d.refusalOf k = none := by
  have other : ¬ k = 1#8 := hk
  simp [Desk.refusalOf, ht, hm, other]

theorem refusalOf_configure {d : Desk} (hc : d.hp.configured = false) : d.refusalOf 1 = none := by
  have taken : takenUnconfigured 1#8 = true := by decide
  have muted : mutedRefuses 1#8 = false := by decide
  simp [Desk.refusalOf, hc, taken, muted]

/-- Settles O38. -/
theorem requestsAreRefusedByMode : Obligations.RequestsAreRefusedByMode := by
  unfold Obligations.RequestsAreRefusedByMode
  intro c k s hk h
  refine ⟨fun hc h4 => exec_refused h hk (refusalOf_unconfigured hc h4), fun hc h1 => ?_, fun hc hm hr =>
    exec_refused h hk (refusalOf_muted hc hm hr)⟩
  subst h1
  exact exec_refused h hk (refusalOf_second_configure hc)

/-! ## CONFIGURE, REINIT, STATUS_QUERY (R178 to R180) -/

theorem exec_configure (h : s.resetHeld = false) (hc : s.desk.hp.configured = false) (ppl hoff : BitVec 16) (keyDelay : Byte)
    (accept : StationSet) :
    exec (.configure ppl hoff keyDelay accept) s = .next (s.configure (configVals ppl hoff keyDelay) accept) := by
  have taken : exec (.configure ppl hoff keyDelay accept) s =
      .next (s.request 0x01 (State.configure (configVals ppl hoff keyDelay) accept)) := next_running h _
  rw [taken, State.request_of_passes (refusalOf_configure hc)]

/-- The claim half of a station just configured, before the window is looked at. -/
def Desk.configured (accept : StationSet) (d : Desk) : Desk :=
  { d with hp := { d.hp with configured := true }, pt := { d.pt with accept := accept, joinQuiet := 4 } }

theorem configure_eq (accept : StationSet) (sys : System) (p : Parity) (line : Nat) (d : Desk) :
    d.configure accept sys p line = (d.configured accept).setDueInWindow sys p line := rfl

theorem setDueInWindow_outside {d : Desk} {sys : System} {p : Parity} {line : Nat}
    (h : ¬ (10 ≤ line ∧ line ≤ nominalCount sys p - 10)) : d.setDueInWindow sys p line = d :=
  if_neg fun hw => h (inBeaconWindow_iff.mp hw)

/-- Settles O39. -/
theorem configureTakesItsValues : Obligations.ConfigureTakesItsValues := by
  unfold Obligations.ConfigureTakesItsValues
  intro ppl hoff keyDelay accept s vals line window c on h hc
  rw [exec_configure h hc]
  unfold State.configure State.onTime State.onDesk
  dsimp only
  rw [configure_eq]
  refine ⟨fun hw => ?_, fun hw hm hf hs hd => ?_⟩
  · rw [setDueInWindow_outside hw]
    rfl
  · rw [setDueInWindow_due hw]
    · rfl
    · exact mayBeDue_iff.mpr ⟨⟨rfl, hm, hf⟩, hs, hd⟩

theorem exec_reinit (h : s.resetHeld = false) : exec .reinit s = .next (s.withDesk s.desk.reinit) := by
  have taken : exec .reinit s = .next (s.request 0x02 (State.onDesk Desk.reinit)) := next_running h _
  rw [taken, State.request_of_passes (refusalOf_always (by decide) (by decide) (by decide))]
  rfl

theorem waiting_reinitEntries {es : List TxEntry} {e : TxEntry} (he : e ∈ reinitEntries es) (hw : e.stage = .waiting) :
    e.what = .clear := by
  obtain ⟨x, hx, rfl⟩ := List.mem_map.mp he
  have stays := (List.mem_filter.mp hx).2
  by_cases hr : x.reinitRemoves = true
  · rw [if_pos hr] at hw
    have waits : x.stage = .waiting := hw
    rw [hr, waits] at stays
    cases stays
  · rw [if_neg hr]
    unfold TxEntry.reinitRemoves at hr
    simpa using hr

/-- REINIT in the bus interface touches the beacon, the queue and its lock. -/
theorem cbi_reinit (c : Cbi) : ∃ lock, c.reinit = { c with beaconDue := false, txq := reinitEntries c.txq, passLock := lock } := by
  unfold Cbi.reinit Cbi.settleLock
  split
  · exact ⟨false, rfl⟩
  · exact ⟨c.passLock, rfl⟩

/-- Settles O40. -/
theorem reinitFreesTheStation : Obligations.ReinitFreesTheStation := by
  unfold Obligations.ReinitFreesTheStation
  intro s h
  obtain ⟨lock, cbi⟩ := cbi_reinit s.desk.cbi
  have cbi' : s.desk.reinit.cbi =
      { s.desk.cbi with beaconDue := false, txq := reinitEntries s.desk.cbi.txq, passLock := lock } := cbi
  refine ⟨_, exec_reinit h, rfl, rfl, rfl, rfl, rfl, fun i => ?_, rfl, fun c => ?_, rfl, rfl, ?_, fun e he hw => ?_, ?_, ?_,
    rfl, fun b hb => ?_, rfl, rfl, rfl, rfl⟩
  · exact congrArg CueSlot.st (slot_desk_reset i)
  · exact congrArg Chain.st (chain_reset c)
  · exact (congrArg Cbi.beaconDue cbi' :)
  · refine waiting_reinitEntries (es := s.desk.cbi.txq) ?_ hw
    have queue : s.desk.reinit.cbi.txq = reinitEntries s.desk.cbi.txq := congrArg Cbi.txq cbi'
    rw [← queue]
    exact he
  · exact (congrArg Cbi.muted cbi' :)
  · exact (congrArg Cbi.line cbi' :)
  · obtain ⟨x, -, rfl⟩ := List.mem_map.mp hb
    rfl

theorem exec_statusQuery (h : s.resetHeld = false) : exec .statusQuery s = .next s.query := by
  have taken : exec .statusQuery s = .next (s.request 0x03 State.query) := next_running h _
  rw [taken, State.request_of_passes (refusalOf_always (by decide) (by decide) (by decide))]

theorem key_ne_of_kind_ne {a b : Report} (h : a.kind ≠ b.kind) : a.key ≠ b.key := fun hk => h (congrArg Prod.fst hk)

theorem query_placed (hp : placesReport (.status s.statusOf) s.desk.hp.reports = true) :
    s.query = (s.report (.status s.statusOf)).clearReported := if_pos hp

theorem query_discarded (hp : ¬ placesReport (.status s.statusOf) s.desk.hp.reports = true) :
    s.query = s.report (.status s.statusOf) := if_neg hp

/-- Settles O41. -/
theorem statusIsPlacedAndClears : Obligations.StatusIsPlacedAndClears := by
  unfold Obligations.StatusIsPlacedAndClears
  intro s hp c x fields cleared h
  rw [exec_statusQuery h]
  have other {q : QReport} (hk : q.report.kind ≠ 0x93) : q.report.key ≠ (Report.status s.statusOf).key := key_ne_of_kind_ne hk
  have posted {qs : List QReport} (hq : postReport s.fc (.status s.statusOf) hp.reports = qs) :
      (s.report (.status s.statusOf)).clearReported = cleared qs := by
    rw [← hq]
    rfl
  refine ⟨fun hn hl => ?_, fun before f again after hqs ho => ?_, fun hn hl => ?_⟩
  · have places : placesReport (.status s.statusOf) hp.reports = true := by
      rw [placesReport, decide_eq_true hl, Bool.or_true]
    rw [query_placed places, posted (postReport_new (fun q hq => other (hn q hq)) hl)]
    rfl
  · have places : placesReport (.status s.statusOf) hp.reports = true := by
      have there : queued (.status s.statusOf) hp.reports = true :=
        queued_iff.mpr ⟨⟨.status f, again⟩, hqs ▸ List.mem_append_right _ List.mem_cons_self, rfl⟩
      rw [placesReport, there, Bool.true_or]
    have taken : postReport s.fc (.status s.statusOf) hp.reports =
        before ++ (⟨.status f, again⟩ : QReport).again1 (.status s.statusOf) :: after := by
      rw [hqs]
      exact postReport_again rfl fun q hq => other (ho q hq)
    rw [query_placed places, posted taken]
    rfl
  · have lost : ¬ placesReport (.status s.statusOf) hp.reports = true := by
      rw [placesReport, Bool.or_eq_true, not_or, decide_eq_true_iff]
      exact ⟨queued_of_none fun q hq => other (hn q hq), Nat.not_lt.mpr hl⟩
    refine ⟨congrArg Host.Outcome.next (query_discarded lost), ?_⟩
    change (postReport s.fc (.status s.statusOf) s.desk.hp.reports).any isOverflow = true
    rw [postReport_full (fun q hq => other (hn q hq)) hl]
    exact any_overflowed _ _ _

/-! ## LOAD_CUE and FREE_CUE (R138, R139) -/

theorem exec_loadCue (h : s.taken) (r : LoadCue) :
    exec (.loadCue r) s = .next (s.withDesk (s.desk.loadCue s.fc s.time.tdu.configuredPpl r)) :=
  congrArg Host.Outcome.next (State.request_taken h (by decide) _)

theorem exec_freeCue (h : s.taken) (i : Slot) : exec (.freeCue i) s = .next (s.withDesk (s.desk.freeCue s.fc i)) :=
  congrArg Host.Outcome.next (State.request_taken h (by decide) _)

variable {d : Desk} {fc : FieldCount} {ppl : Nat} {r : LoadCue} {i : Slot}

/-- A cue that is live is CLAIMING, SCHEDULED, ON_AIR or ENDING. -/
theorem CueSt.live_iff {st : CueSt} :
    st.live = true ↔ st = .claiming ∨ st = .scheduled ∨ st = .onAir ∨ st = .ending := by
  cases st <;> simp [CueSt.live]

theorem loadCue_named (hr : r.slot = some i) (h : (d.slot i).st = .free ∨ (d.slot i).st = .loaded) :
    d.loadCue fc ppl r = d.loadSlot i (cueRecord ppl r) := by
  rw [Desk.loadCue, hr]
  rcases h with h | h
  all_goals
    dsimp only
    rw [h]

theorem loadCue_next {rest : List Slot} (hr : r.slot = none) (hf : d.ce.free = i :: rest) :
    d.loadCue fc ppl r = (d.loadSlot i (cueRecord ppl r)).post fc (.slot i) := by
  rw [Desk.loadCue, hr]
  dsimp only
  rw [hf]

theorem loadCue_full (hr : r.slot = none) (hf : d.ce.free = []) : d.loadCue fc ppl r = d.refuse fc 0x04 .noSlot := by
  rw [Desk.loadCue, hr]
  dsimp only
  rw [hf]

theorem loadCue_armed (hr : r.slot = some i) (h : (d.slot i).st = .armed) :
    d.loadCue fc ppl r = d.refuse fc 0x04 .busy := by
  rw [Desk.loadCue, hr]
  dsimp only
  rw [h]

theorem loadCue_live (hr : r.slot = some i) (h : (d.slot i).st.live = true) :
    d.loadCue fc ppl r = d.refuse fc 0x04 .live := by
  rw [Desk.loadCue, hr]
  dsimp only
  rcases CueSt.live_iff.mp h with h | h | h | h
  all_goals rw [h]

theorem freeCue_loaded (h : (d.slot i).st = .loaded) : d.freeCue fc i = d.freeSlot i := by
  rw [Desk.freeCue, h]

theorem freeCue_free (h : (d.slot i).st = .free) : d.freeCue fc i = d.refuse fc 0x05 .notLoaded := by
  rw [Desk.freeCue, h]

theorem freeCue_armed (h : (d.slot i).st = .armed) : d.freeCue fc i = d.refuse fc 0x05 .busy := by
  rw [Desk.freeCue, h]

theorem freeCue_live (h : (d.slot i).st.live = true) : d.freeCue fc i = d.refuse fc 0x05 .live := by
  rw [Desk.freeCue]
  rcases CueSt.live_iff.mp h with h | h | h | h
  all_goals rw [h]

/-- A layer above 15 is taken as 15. -/
theorem cueRecord_layer (ppl : Nat) (r : LoadCue) : (cueRecord ppl r).layer = Fin.ofNat 16 (min 15 r.layer.toNat) := by
  refine Fin.ext ?_
  unfold cueRecord
  dsimp only
  split
  next h =>
    rw [Fin.val_ofNat]
    dsimp only
    omega
  next h =>
    rw [Fin.val_ofNat, Nat.min_eq_left (by omega)]
    rfl

/-- The record that LOAD_CUE leaves, field by field. -/
theorem cueRecord_eq (ppl : Nat) (r : LoadCue) : cueRecord ppl r =
    { top := min 319 r.top.toNat, height := min (max 1 r.height.toNat) (320 - min 319 r.top.toNat)
      left := min (ppl - 1) r.left.toNat, width := min (max 1 r.width.toNat) (ppl - min (ppl - 1) r.left.toNat)
      layer := Fin.ofNat 16 (min 15 r.layer.toNat), kind := r.kind, announce := r.announce, base := r.cadBase
      mask := r.cadMask, start := r.start, startField := r.startField, duration := r.duration.toNat, next := r.next
      notifyStart := r.notifyStart, notifyEnd := r.notifyEnd, demandEnd := r.demandEnd, autoFree := r.autoFree } := by
  rw [← cueRecord_layer ppl r]
  rfl

/-- Settles O42. -/
theorem slotsAreLoadedAndFreed : Obligations.SlotsAreLoadedAndFreed := by
  unfold Obligations.SlotsAreLoadedAndFreed
  refine ⟨fun r s => ?_, fun i s h => ?_⟩
  · intro ppl top left record loaded no h
    have eq : cueRecord s.time.tdu.configuredPpl r = record := cueRecord_eq _ r
    rw [exec_loadCue h]
    refine ⟨fun i hr hst => ?_, fun i rest hr hf => ?_, fun hr hf => ?_, fun i hr hst => ?_, fun i hr hst => ?_, ?_, ?_,
      fun hppl => ⟨?_, ?_⟩⟩
    · rw [loadCue_named hr hst, eq]
      rfl
    · rw [loadCue_next hr hf, eq]
      rfl
    · rw [loadCue_full hr hf]
      rfl
    · rw [loadCue_armed hr hst]
      rfl
    · rw [loadCue_live hr hst]
      rfl
    · change 1 ≤ min (max 1 r.height.toNat) (320 - min 319 r.top.toNat)
      omega
    · change min 319 r.top.toNat + min (max 1 r.height.toNat) (320 - min 319 r.top.toNat) ≤ 320
      omega
    · change 1 ≤ min (max 1 r.width.toNat) (ppl - min (ppl - 1) r.left.toNat)
      omega
    · change min (ppl - 1) r.left.toNat + min (max 1 r.width.toNat) (ppl - min (ppl - 1) r.left.toNat) ≤ ppl
      omega
  · rw [exec_freeCue h]
    refine ⟨fun hst => ?_, fun hst => ?_, fun hst => ?_, fun hst => ?_⟩
    · rw [freeCue_loaded hst]
      rfl
    · rw [freeCue_free hst]
      rfl
    · rw [freeCue_armed hst]
      rfl
    · rw [freeCue_live hst]
      rfl

end

end Sys2Proof.Machine

namespace Sys2Proof.Machine

variable {s : State} {h : Hp}

/-! ## Request bytes (R173) -/

theorem exec_strobe (hr : s.resetHeld = false) (b : Byte) :
    exec (.requestByteStrobe (.asserted b)) s = .next (s.withDesk { s.desk with hp := s.desk.hp.strobe b }) :=
  next_running hr _

theorem exec_unstrobe (hr : s.resetHeld = false) :
    exec (.requestByteStrobe .released) s = .next (s.withDesk { s.desk with hp := s.desk.hp.unstrobe }) :=
  next_running hr _

theorem strobe_taken {b : Byte} (hl : h.inbound.length < 64) (hp : h.prdy = false) :
    h.strobe b = { h with hstb := true, inbound := h.inbound ++ [b], pack := true, held := none } := by
  simp [Hp.strobe, Hp.takeHeld, Hp.hasPlace, Hp.takeByte, hl, hp]

theorem strobe_waits {b : Byte} (hw : 64 ≤ h.inbound.length ∨ h.prdy = true) :
    h.strobe b = { h with hstb := true, held := some b } := by
  have waits : ¬ (h.inbound.length < 64 ∧ h.prdy = false) := by
    rintro ⟨hl, hp⟩
    rcases hw with hw | hw
    · exact Nat.not_lt.mpr hw hl
    · exact Bool.false_ne_true (hp.symm.trans hw)
  simp [Hp.strobe, Hp.takeHeld, Hp.hasPlace, waits]

theorem present_of_none (ht : h.transfer = none) : h.present = h := by
  rw [Hp.present, ht]

theorem unstrobe_of_none (ht : h.transfer = none) : h.unstrobe = { h with hstb := false, pack := false, held := none } :=
  present_of_none (h := { h with hstb := false, pack := false, held := none }) ht

/-! ## Malformed records (R175) -/

/-- The record is refused for its kind or its length, and passed over. -/
theorem exec_malformed {kind length : Byte} (hr : s.resetHeld = false) (hm : malformedPair kind length = true) :
    exec (.malformedRequest kind length) s = .next ((s.withDesk { s.desk with hp := { s.desk.hp with
      framer := skipping length.toNat } }).report (.refused kind (malformedReason kind) s.fc)) := by
  have judged : exec (.malformedRequest kind length) s = .next
      (if malformedPair kind length then (s.onHp (Hp.skipRecord length)).refuseMalformed kind else s) := next_running hr _
  rw [judged, if_pos hm]
  rfl

theorem exec_malformed_ignored {kind length : Byte} (hr : s.resetHeld = false) (hm : ¬ malformedPair kind length = true) :
    exec (.malformedRequest kind length) s = .next s := by
  have judged : exec (.malformedRequest kind length) s = .next
      (if malformedPair kind length then (s.onHp (Hp.skipRecord length)).refuseMalformed kind else s) := next_running hr _
  rw [judged, if_neg hm]

theorem malformedPair_iff {kind length : Byte} :
    malformedPair kind length = true ↔ requestLength kind ≠ some length.toNat := by
  simp [malformedPair]

/-- Settles O34. -/
theorem requestBytesAndMalformedRecords : Obligations.RequestBytesAndMalformedRecords := by
  unfold Obligations.RequestBytesAndMalformedRecords
  refine ⟨fun b s => ?_, fun kind length s hr => ⟨fun hk => ?_, fun n hk hn => ?_, fun hk => ?_⟩⟩
  · intro h on hr
    refine ⟨fun hl hp => ?_, fun hw => ?_, fun ht => ?_⟩
    · rw [exec_strobe hr, strobe_taken hl hp]
    · rw [exec_strobe hr, strobe_waits hw]
    · rw [exec_unstrobe hr, unstrobe_of_none ht]
  · have unknown : malformedReason kind = .unknownKind := by
      rw [malformedReason, hk]
      rfl
    rw [exec_malformed hr (malformedPair_iff.mpr (by rw [hk]; exact nofun)), unknown]
    rfl
  · have bad : malformedReason kind = .badLength := by
      rw [malformedReason, hk]
      rfl
    rw [exec_malformed hr (malformedPair_iff.mpr (by rw [hk]; exact fun he => hn (Option.some.inj he))), bad]
    rfl
  · exact exec_malformed_ignored hr fun hm => malformedPair_iff.mp hm hk

/-! ## Read-out (R183) -/

theorem exec_transferStart (hr : s.resetHeld = false) :
    exec .reportTransferStart s = .next (s.withDesk { s.desk with hp := s.desk.hp.startTransfer }) := next_running hr _

theorem exec_transferEnd (hr : s.resetHeld = false) : exec .reportTransferEnd s = .next (s.withDesk { s.desk with
    hp := if s.desk.hp.atLastByte then s.desk.hp.acknowledge else s.desk.hp }) := next_running hr _

theorem exec_acknowledge (hr : s.resetHeld = false) :
    exec (.reportByteAcknowledge true) s = .next (s.withDesk { s.desk with hp := s.desk.hp.acknowledge }) :=
  next_running hr _

theorem exec_unacknowledge (hr : s.resetHeld = false) :
    exec (.reportByteAcknowledge false) s = .next (s.withDesk { s.desk with hp := s.desk.hp.unacknowledge }) :=
  next_running hr _

theorem canStart_iff : h.canStart = true ↔ h.reports ≠ [] ∧ h.transfer = none ∧ h.hstb = false := by
  simp [Hp.canStart, and_assoc]

theorem startTransfer_of_ready {q : QReport} {rest : List QReport} (hq : h.reports = q :: rest) (ht : h.transfer = none)
    (hs : h.hstb = false) :
    h.startTransfer = { h with reports := rest, transfer := some q.bytes, hd := q.bytes.head?, prdy := true } := by
  have ready : h.canStart = true := canStart_iff.mpr ⟨by rw [hq]; exact List.cons_ne_nil _ _, ht, hs⟩
  unfold Hp.startTransfer
  rw [hq]
  exact if_pos ready

theorem startTransfer_of_not_ready (hn : h.reports = [] ∨ h.transfer ≠ none ∨ h.hstb = true) : h.startTransfer = h := by
  unfold Hp.startTransfer
  split
  next q rest hq =>
    refine if_neg fun hready => ?_
    obtain ⟨hne, ht, hs⟩ := canStart_iff.mp hready
    rcases hn with hn | hn | hn
    · exact hne hn
    · exact hn ht
    · exact Bool.false_ne_true (hs.symm.trans hn)
  next => rfl

theorem takeHeld_of_none (hh : h.held = none) : h.takeHeld = h := by
  rw [Hp.takeHeld, hh]

theorem acknowledge_of_presented (hp : h.prdy = true) (hh : h.held = none) :
    h.acknowledge = { h with hack := true, prdy := false, hd := none, transfer := restOfTransfer h.transfer } :=
  (if_pos hp).trans (takeHeld_of_none (by exact hh))

theorem unacknowledge_presents {b : Byte} {rest : List Byte} (hp : h.prdy = false) (hs : h.hstb = false)
    (ht : h.transfer = some (b :: rest)) : h.unacknowledge = { h with hack := false, hd := some b, prdy := true } := by
  simp [Hp.unacknowledge, Hp.present, hp, hs, ht]

theorem atLastByte_of_single {b : Byte} (hp : h.prdy = true) (ht : h.transfer = some [b]) : h.atLastByte = true := by
  rw [Hp.atLastByte, hp, ht]
  rfl

/-! ### The bytes of a record (R173, R174) -/

theorem layoutBytes_append (f g : List (Nat × Int)) : layoutBytes (f ++ g) = layoutBytes f ++ layoutBytes g :=
  List.flatMap_append

theorem layoutBytes_cons (f : Nat × Int) (g : List (Nat × Int)) : layoutBytes (f :: g) = layoutBytes [f] ++ layoutBytes g :=
  layoutBytes_append [f] g

theorem beBytes_eq (n : Nat) (x : Int) : beBytes n x = layoutBytes [(n, x)] := by
  have turned : (List.range n).reverse = (List.range n).map (fun k => n - 1 - k) := by
    rw [List.range_eq_range', List.reverse_range', ← List.range_eq_range']
    simp
  rw [beBytes, turned, List.map_map, layoutBytes, List.flatMap_singleton]
  rfl

theorem length_layoutBytes (f : List (Nat × Int)) : (layoutBytes f).length = (f.map Prod.fst).sum := by
  simp [layoutBytes, List.length_flatMap]

theorem beBytes_byte (b : Byte) : layoutBytes [(1, (b.toNat : Int))] = [b] := by
  simp [layoutBytes]

theorem flagCode_eq (b : Bool) : flagCode b = numOf b := rfl

theorem bytes_adjKind (a : AdjKind) : a.bytes = layoutBytes a.layout := by
  cases a <;> rw [AdjKind.bytes, AdjKind.layout, layoutBytes_cons, byteOf, beBytes_eq, beBytes_eq] <;> rfl

theorem bytes_queue (es : List AdjKind) : es.flatMap AdjKind.bytes = layoutBytes (es.flatMap AdjKind.layout) := by
  induction es with
  | nil => rfl
  | cons a es ih => rw [List.flatMap_cons, List.flatMap_cons, layoutBytes_append, ih, bytes_adjKind]

theorem bytes_wrapCount (w : WrapCount) : wrapBytes w = layoutBytes w.layout := by
  simp only [WrapCount.layout, wrapBytes, byteOf, beBytes_eq, flagCode_eq, ← layoutBytes_append]
  rfl

/-- STATUS has its fields in the order of R180. -/
theorem bytes_status (f : StatusFields) : f.bytes = layoutBytes f.layout := by
  unfold StatusFields.bytes
  simp only [bytes_queue, bytes_wrapCount, byteOf, fcBytes, beBytes_eq, flagCode_eq]
  simp only [← layoutBytes_append]
  unfold StatusFields.layout
  simp only [List.cons_append, List.nil_append, List.append_assoc]

/-- Every report has its fields in their widths. -/
theorem fields_report (r : Report) : r.fields = layoutBytes r.layout.2 := by
  cases r
  case status f => exact bytes_status f
  all_goals
    simp only [Report.fields, Report.layout, byteOf, fcBytes, chainByte, beBytes_eq, flagCode_eq, ← beBytes_byte,
      ← layoutBytes_append] <;> rfl

theorem kind_report (r : Report) : (r.kind : Int) = r.layout.1 := by
  cases r <;> rfl

theorem bytes_record (q : QReport) : q.bytes = layoutBytes ((1, q.report.layout.1) ::
    (1, 1 + ((q.report.layout.2.map Prod.fst).sum : Nat)) :: (1, (q.again : Int)) :: q.report.layout.2) := by
  rw [QReport.bytes, fields_report, length_layoutBytes, layoutBytes_cons, layoutBytes_cons (1, _), layoutBytes_cons (1, _),
    byteOf, byteOf, byteOf, beBytes_eq, beBytes_eq, beBytes_eq, kind_report, Nat.cast_add, Int.add_comm, List.append_assoc,
    List.append_assoc]
  rfl

/-- A record begins with its kind. -/
theorem bytes_head (q : QReport) : ∃ bytes, q.bytes = BitVec.ofNat 8 q.report.kind :: bytes := by
  refine ⟨byteOf (q.report.fields.length + 1) ++ byteOf q.again ++ q.report.fields, ?_⟩
  have kind : byteOf q.report.kind = [BitVec.ofNat 8 q.report.kind] := by
    simp [byteOf, beBytes]
  rw [QReport.bytes, kind, List.append_assoc, List.append_assoc, List.append_assoc]
  rfl

/-- Settles O36. -/
theorem reportsAreReadOutByteByByte : Obligations.ReportsAreReadOutByteByByte := by
  unfold Obligations.ReportsAreReadOutByteByByte
  refine ⟨fun s => ?_, fun s => ?_, bytes_record, ?_⟩
  · intro h hr
    refine ⟨fun q rest hq ht hs => ?_, fun hn => ?_⟩
    · obtain ⟨bytes, hb⟩ := bytes_head q
      refine ⟨bytes, hb, ?_⟩
      rw [exec_transferStart hr, startTransfer_of_ready hq ht hs, hb]
      rfl
    · rw [exec_transferStart hr, startTransfer_of_not_ready hn]
      rfl
  · intro h on hr
    refine ⟨fun b next rest hp hh ht => ?_, fun b rest hp hs ht => ?_, fun b hp hh ht => ?_, fun hp => ?_⟩
    · rw [exec_acknowledge hr, acknowledge_of_presented hp hh, ht]
      rfl
    · rw [exec_unacknowledge hr, unacknowledge_presents hp hs ht]
    · rw [exec_transferEnd hr, if_pos (atLastByte_of_single hp ht), acknowledge_of_presented hp hh, ht]
      rfl
    · have none : ¬ s.desk.hp.atLastByte = true := by
        rw [Hp.atLastByte, hp, Bool.false_and]
        exact Bool.false_ne_true
      rw [exec_transferEnd hr, if_neg none]
      rfl
  · decide

/-! ## FENCE (R181) -/

theorem refusalOf_serves {d : Desk} {k : Byte} (hc : d.hp.configured = true) (hk : k ≠ 1) (hm : mutedRefuses k = false) :
    d.refusalOf k = none := by
  have other : ¬ k = 1#8 := hk
  simp [Desk.refusalOf, hc, other, hm]

/-- A timing request or a FENCE of a configured station acts. -/
theorem request_serves {k : Byte} (hs : s.serves) (hk : k ≠ 1) (hm : mutedRefuses k = false) (f : State → State) :
    s.running (State.request k f) = f s := by
  rw [State.running_of_released hs.1, State.request_of_passes (refusalOf_serves hs.2 hk hm)]

theorem exec_fence (hs : s.serves) : exec .fence s = .next s.fence :=
  congrArg Host.Outcome.next (request_serves hs (by decide) (by decide) _)

theorem fence_busy (hf : s.desk.hp.fence = true) : s.fence = s.report (.refused 14 .busy s.fc) := if_pos hf

theorem fence_empty (hf : s.desk.hp.fence = false) (hq : s.time.tdu.queue = []) (hc : s.desk.cbi.txq = []) :
    s.fence = s.report (.fenceDone s.fc) := by
  unfold State.fence
  simp only [hf, hq, hc, List.length_nil, Bool.false_eq_true, if_false, Nat.add_zero, if_true]
  rfl

theorem fence_waits (hf : s.desk.hp.fence = false) (hq : s.time.tdu.queue ≠ [] ∨ s.desk.cbi.txq ≠ []) :
    s.fence = s.markAll.onHp (fun h => { h with
      fence := true, fenceLeft := s.time.tdu.queue.length + s.desk.cbi.txq.length }) := by
  have some : ¬ s.time.tdu.queue.length + s.desk.cbi.txq.length = 0 := by
    intro hz
    obtain ⟨h1, h2⟩ := Nat.add_eq_zero_iff.mp hz
    rcases hq with hq | hq
    · exact hq (List.length_eq_zero_iff.mp h1)
    · exact hq (List.length_eq_zero_iff.mp h2)
  unfold State.fence
  dsimp only
  rw [hf, if_neg Bool.false_ne_true, if_neg some]

/-- Settles O48. -/
theorem fenceMarksAndCounts : Obligations.FenceMarksAndCounts := by
  unfold Obligations.FenceMarksAndCounts
  refine ⟨fun s => ?_, fun fc d hf => ⟨fun hl => ?_, fun hl => ?_, ?_⟩⟩
  · intro x c hs
    rw [exec_fence hs]
    refine ⟨fun hf hq hc => ?_, fun hf hq => ?_, fun hf => ?_⟩
    · rw [fence_empty hf hq hc]
    · rw [fence_waits hf hq]
      rfl
    · rw [fence_busy hf]
  · unfold Desk.itemLeft
    rw [hf, Bool.and_self, if_pos rfl, if_neg (Nat.not_le.mpr hl)]
  · unfold Desk.itemLeft
    rw [hf, Bool.and_self, if_pos rfl, if_pos (Nat.le_of_eq hl)]
  · exact if_neg Bool.false_ne_true

end Sys2Proof.Machine

namespace Sys2Proof.Machine

/-! ## A slot or a chain changed twice, and the numbers of live cues (R140) -/

section
variable {d : Desk} {fc : FieldCount} {i : Slot} {c : ChainNo}

theorem modSlot_modSlot (f g : CueSlot → CueSlot) : (d.modSlot i f).modSlot i g = d.modSlot i (fun x => g (f x)) := by
  unfold Desk.modSlot Desk.slot Ce.setSlot Ce.slot
  simp

theorem modChain_modChain (f g : Chain → Chain) : (d.modChain c f).modChain c g = d.modChain c (fun x => g (f x)) := by
  unfold Desk.modChain Desk.chain Ce.setChain Ce.chain
  simp

theorem modSlot_modChain (f : CueSlot → CueSlot) (g : Chain → Chain) :
    (d.modSlot i f).modChain c g = (d.modChain c g).modSlot i f := rfl

theorem runsSlot_of_chain (h : (d.slot i).chain = some c) : d.runsSlot i = ((d.chain c).st == .running) := by
  rw [Desk.runsSlot, h]

theorem chainFull_of_chain (h : (d.slot i).chain = some c) : d.chainFull i = decide (2 ≤ d.ce.chainLive c) := by
  rw [Desk.chainFull, h]

theorem liveCount_congr {ce ce' : Ce} (h : ∀ j, (ce'.slot j).st.live = (ce.slot j).st.live) :
    ce'.liveCount = ce.liveCount := by
  unfold Ce.liveCount
  rw [List.filter_congr fun j _ => h j]

theorem chainLive_congr {ce ce' : Ce} (h : ∀ j, (ce'.slot j).st.live = (ce.slot j).st.live)
    (hc : ∀ j, (ce.slot j).st.live = true → (ce'.slot j).chain = (ce.slot j).chain) :
    ce'.chainLive c = ce.chainLive c := by
  unfold Ce.chainLive
  refine congrArg List.length (List.filter_congr fun j _ => ?_)
  rw [h j]
  cases hl : (ce.slot j).st.live with
  | false => rfl
  | true => rw [hc j hl]

theorem live_modSlot {f : CueSlot → CueSlot} (h : (f (d.slot i)).st.live = (d.slot i).st.live) (j : Slot) :
    ((d.modSlot i f).slot j).st.live = (d.slot j).st.live := by
  rw [slot_modSlot]
  split
  next hij => exact hij ▸ h
  next => rfl

/-- A slot that is live neither before nor after does not count. -/
theorem counts_modSlot {f : CueSlot → CueSlot} (h : (d.slot i).st.live = false) (h' : (f (d.slot i)).st.live = false) :
    (d.modSlot i f).ce.liveCount = d.ce.liveCount ∧ (d.modSlot i f).ce.chainLive c = d.ce.chainLive c := by
  have same := live_modSlot (d := d) (h'.trans h.symm)
  refine ⟨liveCount_congr same, chainLive_congr same fun j hj => ?_⟩
  change ((d.modSlot i f).slot j).chain = (d.slot j).chain
  rw [slot_modSlot]
  split
  next hij =>
    subst hij
    exact absurd (h.symm.trans hj) Bool.false_ne_true
  next => rfl

/-! ## Arming, and the first offer of a CLAIM (R142, R143) -/

/-- The chain as it arms a slot. -/
def Chain.arms (i : Slot) (x : Chain) : Chain := { x with armed := some i, waiting := none }

/-- The slot as a RUNNING chain arms it: its start condition is tested at once. -/
def CueSlot.armedNow (fc : FieldCount) (c : ChainNo) (p : Option Slot) (b : Bool) (x : CueSlot) : CueSlot :=
  { x.armedFor c p b with held := (x.armedFor c p b).startHolds fc }

theorem arm_running (h : (d.chain c).st = .running) (p : Option Slot) (b : Bool) :
    d.arm fc c i p b = (d.modChain c (Chain.arms i)).modSlot i (CueSlot.armedNow fc c p b) := by
  have runs : (((d.modSlot i (CueSlot.armedFor c p b)).modChain c (Chain.arms i)).runsSlot i) = true := by
    rw [runsSlot_of_chain (c := c) (by rw [slot_modChain, slot_modSlot_self]; rfl), chain_modChain_self]
    change ((d.chain c).st == .running) = true
    rw [h, beq_self_eq_true]
  change ((d.modSlot i (CueSlot.armedFor c p b)).modChain c (Chain.arms i)).testStart fc i = _
  rw [Desk.testStart, slot_modChain, slot_modSlot_self, runs]
  by_cases hs : ((d.slot i).armedFor c p b).startHolds fc = true
  · rw [if_pos ⟨rfl, rfl, hs⟩, modSlot_modChain, modSlot_modSlot]
    unfold Desk.modSlot CueSlot.armedNow
    rw [slot_modChain, hs]
  · rw [if_neg fun ha => hs ha.2.2, modSlot_modChain]
    unfold Desk.modSlot CueSlot.armedNow
    rw [slot_modChain, eq_false_of_ne_true hs]
    rfl

theorem startHolds_onTrigger {x : CueSlot} (h : x.cue.start = .onTrigger) : x.startHolds fc = false := by
  rw [CueSlot.startHolds, h]

theorem startHolds_immediate {x : CueSlot} (h : x.cue.start = .immediate) : x.startHolds fc = true := by
  rw [CueSlot.startHolds, h]

theorem tryStart_of_not_held (h : (d.slot i).held = false) : d.tryStart fc i = d :=
  if_neg fun ha => Bool.false_ne_true (h.symm.trans ha.2.1)

theorem tryStart_of_not_armed (h : (d.slot i).st ≠ .armed) : d.tryStart fc i = d := if_neg fun ha => h ha.1

/-- The cue as its CLAIM is taken by the queue. -/
def CueSlot.claiming (x : CueSlot) : CueSlot := { x with st := .claiming, beaconField := none, claim := none }

/-- An announced cue within the limits, with room in the queue, claims. -/
theorem tryStart_claims (hst : (d.slot i).st = .armed) (hh : (d.slot i).held = true) (ha : (d.slot i).cue.announce = true)
    (hc : (d.slot i).chain = some c) (hr : (d.chain c).st = .running) (hlive : d.ce.liveCount < 16)
    (hfull : d.ce.chainLive c < 2) (hroom : d.cbi.txq.length < 8) :
    d.tryStart fc i = (d.withCbi (Cbi.enqueue (.claim i) .cueEngine)).modSlot i CueSlot.claiming := by
  have runs : d.runsSlot i = true := by rw [runsSlot_of_chain hc, hr, beq_self_eq_true]
  have open' : ¬ d.chainFull i = true := by
    rw [chainFull_of_chain hc, decide_eq_true_iff]
    exact Nat.not_le.mpr hfull
  rw [Desk.tryStart, if_pos ⟨hst, hh, ha, runs⟩, Desk.tryClaim, if_neg (Nat.not_le.mpr hlive), if_neg open', Desk.offerClaim,
    if_pos (hasRoom_of_lt hroom)]
  rfl

theorem tryArmed_of_armed (h : (d.chain c).armed = some i) : d.tryArmed fc c = d.tryStart fc i := by
  rw [Desk.tryArmed, h]

end

/-! ## START_CHAIN (R141) -/

section
variable {s : State} {d : Desk} {fc : FieldCount} {i : Slot} {c : ChainNo}

theorem exec_startChain (h : s.taken) (c : ChainNo) (i : Slot) :
    exec (.startChain c i) s = .next (s.withDesk (s.desk.startChain s.fc c i)) :=
  congrArg Host.Outcome.next (State.request_taken h (by decide) _)

theorem startChain_free (hc : (d.chain c).st = .idle) (h : (d.slot i).st = .free) :
    d.startChain fc c i = d.refuse fc 0x06 .notLoaded := by
  rw [Desk.startChain, hc]
  dsimp only
  rw [h]

theorem startChain_in_use (hc : (d.chain c).st = .idle) (h : (d.slot i).st = .armed ∨ (d.slot i).st.live = true) :
    d.startChain fc c i = d.refuse fc 0x06 .live := by
  rw [Desk.startChain, hc]
  dsimp only
  rcases h with h | h
  · rw [h]
  · rcases CueSt.live_iff.mp h with h | h | h | h
    all_goals rw [h]

theorem startChain_busy (hc : (d.chain c).st ≠ .idle) : d.startChain fc c i = d.refuse fc 0x06 .busy := by
  rw [Desk.startChain]
  cases hst : (d.chain c).st with
  | idle => exact absurd hst hc
  | running => rfl
  | paused => rfl
  | aborting => rfl

/-- The chain as START_CHAIN leaves it. -/
def Chain.started (i : Slot) (x : Chain) : Chain := { x with st := .running, armed := some i, waiting := none }

theorem startChain_loaded (hc : (d.chain c).st = .idle) (h : (d.slot i).st = .loaded) :
    d.startChain fc c i =
      ((d.modChain c (Chain.started i)).modSlot i (CueSlot.armedNow fc c none true)).tryStart fc i := by
  have running : ((d.modChain c (fun x => { x with st := .running })).chain c).st = .running := by
    rw [chain_modChain_self]
  rw [Desk.startChain, hc]
  dsimp only
  rw [h]
  dsimp only
  rw [arm_running running, modChain_modChain]
  exact tryArmed_of_armed (by rw [chain_modSlot, chain_modChain_self]; rfl)

/-- Settles O43. -/
theorem startChainArmsItsHead : Obligations.StartChainArmsItsHead := by
  unfold Obligations.StartChainArmsItsHead
  intro c i s d q running armed h
  rw [exec_startChain h]
  have held (hq : (d.slot i).cue = q) : (((d.modChain c (Chain.started i)).modSlot i
      (CueSlot.armedNow s.fc c none true)).slot i).held = ((d.slot i).armedFor c none true).startHolds s.fc := by
    rw [slot_modSlot_self, slot_modChain]
    rfl
  refine ⟨fun hc hl hq => ?_, fun hc hl hq ha hlive hfull hroom => ?_, fun hc hf => ?_, fun hc hu => ?_, fun hc => ?_⟩
  · have waits : ((d.slot i).armedFor c none true).startHolds s.fc = false :=
      startHolds_onTrigger hq
    rw [startChain_loaded hc hl, tryStart_of_not_held ((held rfl).trans waits)]
    unfold Desk.modSlot CueSlot.armedNow
    rw [slot_modChain, waits]
    rfl
  · have starts : ((d.slot i).armedFor c none true).startHolds s.fc = true :=
      startHolds_immediate hq
    have dead : ((d.modChain c (Chain.started i)).slot i).st.live = false := by
      rw [slot_modChain, hl]
      rfl
    have counts := counts_modSlot (c := c) (f := CueSlot.armedNow s.fc c none true) dead rfl
    rw [startChain_loaded hc hl, tryStart_claims (c := c)]
    · have claimed : (fun x => CueSlot.claiming (x.armedNow s.fc c none true)) (d.slot i) =
          { armed with st := .claiming, held := true } := by
        unfold CueSlot.armedNow
        dsimp only
        rw [starts]
        rfl
      change Host.Outcome.next (s.withDesk ((((d.modChain c (Chain.started i)).withCbi
        (Cbi.enqueue (.claim i) .cueEngine)).modSlot i (CueSlot.armedNow s.fc c none true)).modSlot i CueSlot.claiming)) = _
      rw [modSlot_modSlot]
      unfold Desk.modSlot
      rw [slot_withCbi, slot_modChain, claimed]
      rfl
    · rw [slot_modSlot_self]
      rfl
    · exact (held rfl).trans starts
    · rw [slot_modSlot_self, slot_modChain]
      exact ha
    · rw [slot_modSlot_self]
      rfl
    · rw [chain_modSlot, chain_modChain_self]
      rfl
    · rw [counts.1]
      exact hlive
    · rw [counts.2]
      exact hfull
    · exact hroom
  · rw [startChain_free hc hf]
    rfl
  · rw [startChain_in_use hc hu]
    rfl
  · rw [startChain_busy hc]
    rfl

/-! ## PAUSE_CHAIN and RESUME_CHAIN (R141) -/

theorem exec_pauseChain (h : s.taken) (c : ChainNo) :
    exec (.pauseChain c) s = .next (s.withDesk (s.desk.pauseChain s.fc c)) :=
  congrArg Host.Outcome.next (State.request_taken h (by decide) _)

theorem exec_resumeChain (h : s.taken) (c : ChainNo) :
    exec (.resumeChain c) s = .next (s.withDesk (s.desk.resumeChain s.fc c)) :=
  congrArg Host.Outcome.next (State.request_taken h (by decide) _)

theorem resumeChain_paused (h : (d.chain c).st = .paused) :
    d.resumeChain fc c = (d.modChain c (fun x => { x with st := .running })).armDue fc c := by
  rw [Desk.resumeChain, h]

theorem armDue_of_none (h : (d.chain c).due = none) : d.armDue fc c = d := by
  rw [Desk.armDue, h]

theorem armSuccessor_loaded {p n : Slot} {b : Bool} (h : (d.slot n).st = .loaded) :
    d.armSuccessor fc c p (some n) b = d.arm fc c n (some p) b := by
  unfold Desk.armSuccessor
  dsimp only
  rw [h]

theorem checkChain_of_going (h : (d.chain c).outcome = none) : d.checkChain fc c = d := by
  rw [Desk.checkChain, h]

theorem outcome_of_going {x : Chain} (hr : x.st = .running) (hb : x.broken = false) (ht : x.terminal = false) :
    x.outcome = none := by
  simp [Chain.outcome, hr, hb, ht]

/-- The LOADED successor that a PAUSED chain owes, armed as it runs again; one that starts ON_TRIGGER waits (log 20). -/
theorem resumeChain_arms {p n : Slot} (hst : (d.chain c).st = .paused) (hd : (d.chain c).due = some ⟨p, some n⟩)
    (hn : (d.slot n).st = .loaded) (hq : (d.slot n).cue.start = .onTrigger) (hb : (d.chain c).broken = false)
    (ht : (d.chain c).terminal = false) :
    d.resumeChain fc c = (d.modChain c (fun x =>
      { x with st := .running, due := none, armed := some n, waiting := none })).modSlot n
        (CueSlot.armedFor c (some p) true) := by
  have waits : ((d.slot n).armedFor c (some p) true).startHolds fc = false := startHolds_onTrigger hq
  have armed : ((d.modChain c (fun x => { x with st := .running })).modChain c (fun x => { x with due := none })).arm fc c n
      (some p) true = (d.modChain c (fun x =>
        { x with st := .running, due := none, armed := some n, waiting := none })).modSlot n
          (CueSlot.armedFor c (some p) true) := by
    rw [modChain_modChain, arm_running (by rw [chain_modChain_self]), modChain_modChain]
    unfold Desk.modSlot CueSlot.armedNow
    rw [slot_modChain, waits]
    rfl
  have owed : ((d.modChain c (fun x => { x with st := .running })).chain c).due = some ⟨p, some n⟩ := by
    rw [chain_modChain_self]
    exact hd
  rw [resumeChain_paused hst, Desk.armDue, owed]
  dsimp only
  rw [armSuccessor_loaded (by exact hn), armed, tryArmed_of_armed (i := n), tryStart_of_not_held, checkChain_of_going]
  · rw [chain_modSlot, chain_modChain_self]
    exact outcome_of_going rfl hb ht
  · rw [slot_modSlot_self]
    rfl
  · rw [chain_modSlot, chain_modChain_self]

/-- PAUSE_CHAIN and RESUME_CHAIN by the chain's state. -/
theorem pause_resume_by_state (h : s.taken) (c : ChainNo) :
    let x := s.desk.chain c
    let on (y : Chain) : Host.Outcome State Fault Refusal :=
      .next (s.withDesk { s.desk with ce := s.desk.ce.setChain c y })
    (x.st = .running → exec (.pauseChain c) s = on { x with st := .paused } ∧ exec (.resumeChain c) s = .next s) ∧
    (x.st = .paused → exec (.pauseChain c) s = .next s ∧
      (x.due = none → exec (.resumeChain c) s = on { x with st := .running }) ∧
      (∀ p n, x.due = some ⟨p, some n⟩ → (s.desk.slot n).st = .loaded → (s.desk.slot n).cue.start = .onTrigger →
        x.broken = false → x.terminal = false → exec (.resumeChain c) s = .next (s.withDesk { s.desk with
          ce := (s.desk.ce.setChain c { x with st := .running, due := none, armed := some n, waiting := none }).setSlot n
            { CueSlot.idle .armed (s.desk.slot n).cue with chain := some c, pred := some p, predEnded := true } }))) ∧
    (x.st = .idle → exec (.pauseChain c) s = .next (s.report (.refused 7 .notRunning s.fc)) ∧
      exec (.resumeChain c) s = .next (s.report (.refused 8 .notRunning s.fc))) ∧
    (x.st = .aborting → exec (.pauseChain c) s = .next (s.report (.refused 7 .busy s.fc)) ∧
      exec (.resumeChain c) s = .next (s.report (.refused 8 .busy s.fc))) := by
  intro x on
  rw [exec_pauseChain h, exec_resumeChain h]
  refine ⟨fun hst => ?_, fun hst => ⟨?_, fun hd => ?_, fun p n hd hn hq hb ht => ?_⟩, fun hst => ?_, fun hst => ?_⟩
  · rw [Desk.pauseChain, Desk.resumeChain, show (s.desk.chain c).st = .running from hst]
    exact ⟨rfl, rfl⟩
  · rw [Desk.pauseChain, show (s.desk.chain c).st = .paused from hst]
    rfl
  · rw [resumeChain_paused hst, armDue_of_none (by rw [chain_modChain_self]; exact hd)]
    rfl
  · rw [resumeChain_arms hst hd hn hq hb ht]
    rfl
  · rw [Desk.pauseChain, Desk.resumeChain, show (s.desk.chain c).st = .idle from hst]
    exact ⟨rfl, rfl⟩
  · rw [Desk.pauseChain, Desk.resumeChain, show (s.desk.chain c).st = .aborting from hst]
    exact ⟨rfl, rfl⟩

/-! ## A cue that ends away from a boundary (R146, R147) -/

/-- The slot of a cue whose run is over. -/
def CueSlot.over (x : CueSlot) : CueSlot := if x.cue.autoFree then CueSlot.freed else CueSlot.idle .loaded x.cue

/-- No chain waits for the slot. -/
def Desk.Unawaited (i : Slot) (d : Desk) : Prop := ∀ c w, (d.chain c).waiting = some w → w.slot ≠ i

theorem unawaited_modChain {f : Chain → Chain} (h : d.Unawaited i)
    (hf : ∀ w, (f (d.chain c)).waiting = some w → w.slot ≠ i) : (d.modChain c f).Unawaited i := by
  intro b w
  rw [chain_modChain]
  split
  · exact hf w
  · exact h b w

theorem unawaited_arm {j : Slot} (h : d.Unawaited i) (p : Option Slot) (b : Bool) :
    (d.arm fc c j p b).Unawaited i := by
  have armed : ((d.modSlot j (CueSlot.armedFor c p b)).modChain c (Chain.arms j)).Unawaited i :=
    unawaited_modChain h nofun
  change (((d.modSlot j (CueSlot.armedFor c p b)).modChain c (Chain.arms j)).testStart fc j).Unawaited i
  unfold Desk.testStart
  dsimp only
  split <;> exact armed

theorem unawaited_armSuccessor {p : Slot} {next : Option Slot} (h : d.Unawaited i) (hn : next ≠ some i) (b : Bool) :
    (d.armSuccessor fc c p next b).Unawaited i := by
  unfold Desk.armSuccessor
  split
  · exact unawaited_modChain h (h c)
  next n =>
    split
    · exact unawaited_arm h _ _
    · exact unawaited_modChain h (h c)
    · refine unawaited_modChain h fun w hw => ?_
      cases hw
      exact fun hi => hn (congrArg some hi)

theorem unawaited_endForChain {j : Slot} (h : d.Unawaited i) : (d.endForChain j).Unawaited i := by
  unfold Desk.endForChain
  split
  · refine unawaited_modChain (d := { d with ce := _ }) h fun w hw => ?_
    obtain ⟨v, hv, rfl⟩ := Option.map_eq_some_iff.mp hw
    have away := h _ v hv
    split <;> exact away
  · exact h

theorem unawaited_succeedNow (h : d.Unawaited i) (hn : (d.slot i).cue.next ≠ some i) :
    (d.succeedNow fc i).Unawaited i := by
  unfold Desk.succeedNow Desk.succeed
  dsimp only
  split
  · split
    · exact h
    · split
      · split
        · exact h
        · exact unawaited_armSuccessor (d := d.modSlot i _) h hn true
      · exact h
  · exact h

theorem wake_of_unawaited (h : d.Unawaited i) : d.wake fc i = d := by
  refine List.foldl_fixed' (fun c => ?_) allChains
  unfold Desk.wakeChain
  split
  next w hw => exact if_neg (h c w hw)
  next => rfl

/-- The desk with CUE(ENDED) posted if the cue asks for it. -/
def Desk.tellEnded (fc : FieldCount) (i : Slot) (d : Desk) : Desk :=
  if (d.slot i).cue.notifyEnd then d.cueReport fc i .ended else d

theorem tellEnded_eq (fc : FieldCount) (i : Slot) (d : Desk) : ∃ x, d.tellEnded fc i = { d with hp := x } := by
  unfold Desk.tellEnded
  split
  · exact ⟨_, rfl⟩
  · exact ⟨d.hp, rfl⟩

/-- A slot for which no chain waits is free, or LOADED, once its cue has ended. -/
theorem ended_unawaited (h : d.Unawaited i) : d.ended fc i =
    if (d.slot i).cue.autoFree then (d.tellEnded fc i).freeSlot i else (d.tellEnded fc i).unloadRun i := by
  obtain ⟨x, hx⟩ := tellEnded_eq fc i d
  have told : (d.tellEnded fc i).Unawaited i := by
    rw [hx]
    exact h
  have gone : (if (d.slot i).cue.autoFree then (d.tellEnded fc i).freeSlot i else (d.tellEnded fc i).unloadRun i).Unawaited
      i := by
    split <;> exact told
  exact wake_of_unawaited gone

theorem slot_ended_self (h : d.Unawaited i) : (d.ended fc i).slot i = (d.slot i).over := by
  obtain ⟨x, hx⟩ := tellEnded_eq fc i d
  rw [ended_unawaited h, hx, CueSlot.over]
  split
  · rw [slot_freeSlot, if_pos rfl]
  · rw [Desk.unloadRun, slot_modSlot_self]
    rfl

theorem over_congr {x y : CueSlot} (h : x.cue = y.cue) : x.over = y.over := by
  unfold CueSlot.over
  rw [h]

theorem slot_succeedNow_endForChain (h : (d.slot i).st ≠ .loaded) : ∃ b done,
    ((d.endForChain i).succeedNow fc i).slot i = { d.slot i with predEnded := b, succDone := done } := by
  obtain ⟨b, hb⟩ := slot_endForChain_marked (d := d) (i := i) (j := i)
  obtain ⟨done, hd⟩ := slot_succeedNow_self (d := d.endForChain i) (fc := fc) (by rw [hb]; exact h)
  exact ⟨b, done, by rw [hd, hb]⟩

theorem unawaited_succession (h : d.Unawaited i) (hn : (d.slot i).cue.next ≠ some i) :
    ((d.endForChain i).succeedNow fc i).Unawaited i := by
  obtain ⟨b, hb⟩ := slot_endForChain_marked (d := d) (i := i) (j := i)
  exact unawaited_succeedNow (unawaited_endForChain h) (by rw [hb]; exact hn)

theorem slot_endNow_self (hl : (d.slot i).st ≠ .loaded) (h : d.Unawaited i) (hn : (d.slot i).cue.next ≠ some i) :
    (d.endNow fc i).slot i = (d.slot i).over := by
  obtain ⟨b, done, hs⟩ := slot_succeedNow_endForChain (fc := fc) hl
  rw [Desk.endNow, slot_checkChainOf, slot_ended_self (unawaited_succession h hn), hs]
  exact over_congr rfl

/-! ## The CLAIM of a slot in the queue (R112, R115) -/

/-- Nothing is queued for the slot, and nothing will be: it is not ARMED, and no CLAIM of it waits. -/
def Desk.Unclaimed (i : Slot) (d : Desk) : Prop := (d.slot i).st ≠ .armed ∧ d.cbi.claimEntry i = none

theorem claimEntry_eq_none_iff {x : Cbi} : x.claimEntry i = none ↔ ∀ e ∈ x.txq, e.isClaim i = false := by
  rw [Cbi.claimEntry, List.find?_eq_none]
  exact forall₂_congr fun e _ => Bool.eq_false_iff.symm

theorem claimEntry_settleLock (x : Cbi) : x.settleLock.claimEntry i = x.claimEntry i := by
  unfold Cbi.settleLock
  split <;> rfl

theorem claimEntry_dropClaim (x : Cbi) : (x.dropClaim i).claimEntry i = none := by
  rw [Cbi.dropClaim, claimEntry_settleLock, claimEntry_eq_none_iff]
  intro e he
  simpa using (List.mem_filter.mp he).2

theorem isClaim_fresh_of_ne {w : TxWhat} (h : w ≠ .claim i) (owner : TxOwner) : (TxEntry.fresh w owner).isClaim i = false := by
  have other : (w == TxWhat.claim i) = false := beq_false_of_ne h
  rw [TxEntry.isClaim]
  change (w == TxWhat.claim i && !false) = false
  rw [other, Bool.false_and]

theorem mem_passAhead {w e : TxEntry} {es : List TxEntry} : e ∈ passAhead w es ↔ e = w ∨ e ∈ es := by
  induction es with
  | nil => simp [passAhead]
  | cons x es ih =>
    unfold passAhead
    split
    · rw [List.mem_cons, ih, List.mem_cons]
      tauto
    · exact List.mem_cons

theorem mem_enqueueWithdraw {x : Cbi} {e : TxEntry} {owner : TxOwner} :
    e ∈ (x.enqueueWithdraw i owner).txq ↔ e = TxEntry.fresh (.withdraw i) owner ∨ e ∈ x.txq := by
  unfold Cbi.enqueueWithdraw Cbi.enqueue
  split
  · exact mem_passAhead
  · simp [or_comm]

theorem unclaimed_offerWithdraw {j : Slot} (h : d.Unclaimed i) : (d.offerWithdraw j).Unclaimed i := by
  unfold Desk.offerWithdraw
  dsimp only
  split
  next ho =>
    obtain ⟨he, hq⟩ := h
    refine ⟨?_, claimEntry_eq_none_iff.mpr fun e hm => ?_⟩
    · rw [slot_modSlot, slot_withCbi]
      split
      next hij => exact hij ▸ he
      next => exact he
    · rcases mem_enqueueWithdraw.mp hm with rfl | hm
      · exact isClaim_fresh_of_ne (w := .withdraw j) nofun _
      · exact claimEntry_eq_none_iff.mp hq e hm
  next => exact h

theorem unclaimed_tryStart {j : Slot} (h : d.Unclaimed i) : (d.tryStart fc j).Unclaimed i := by
  obtain ⟨ha, hq⟩ := h
  refine ⟨by rw [slot_tryStart ha]; exact ha, ?_⟩
  by_cases hj : (d.slot j).st = .armed
  · have other : j ≠ i := fun e => ha (e ▸ hj)
    unfold Desk.tryStart Desk.tryClaim Desk.regionFull Desk.offerClaim
    dsimp only
    split
    · split
      · split <;> exact hq
      · split
        · exact hq
        · split
          · refine claimEntry_eq_none_iff.mpr fun e hm => ?_
            rcases List.mem_append.mp hm with hm | hm
            · exact claimEntry_eq_none_iff.mp hq e hm
            · rw [List.mem_singleton.mp hm]
              exact isClaim_fresh_of_ne (fun he => other (TxWhat.claim.inj he)) _
          · exact hq
    · exact hq
  · rw [tryStart_of_not_armed hj]
    exact hq

theorem unclaimed_fold {α : Type} {f : Desk → α → Desk} (hf : ∀ (x : Desk) a, x.Unclaimed i → (f x a).Unclaimed i)
    (l : List α) (h : d.Unclaimed i) : (l.foldl f d).Unclaimed i := by
  induction l generalizing d with
  | nil => exact h
  | cons a l ih => exact ih (hf d a h)

theorem unclaimed_retry (h : d.Unclaimed i) : (d.retry fc).Unclaimed i :=
  unclaimed_fold (fun _ _ => unclaimed_tryStart) allSlots
    (unclaimed_fold (fun _ _ => unclaimed_offerWithdraw) allSlots h)

theorem unclaimed_retryIfReleased (before : Desk) (h : d.Unclaimed i) : (d.retryIfReleased fc before).Unclaimed i := by
  unfold Desk.retryIfReleased
  split
  · exact unclaimed_retry h
  · exact h

theorem slot_retryIfReleased (before : Desk) (h1 : (d.slot i).st ≠ .ending) (h2 : (d.slot i).st ≠ .armed) :
    (d.retryIfReleased fc before).slot i = d.slot i := by
  unfold Desk.retryIfReleased
  split
  · exact slot_retry h1 h2
  · rfl

/-! ## WITHDRAW_CUE (R147) -/

theorem exec_withdrawCue (h : s.taken) (i : Slot) :
    exec (.withdrawCue i) s = .next (s.withDesk (s.desk.withdrawCue s.fc i)) :=
  congrArg Host.Outcome.next (State.request_taken h (by decide) _)

theorem withdrawCue_airborne (hst : (d.slot i).st = .scheduled ∨ (d.slot i).st = .onAir) :
    d.withdrawCue fc i = d.modSlot i (fun x => { x with endOrdered := true }) := by
  rw [Desk.withdrawCue]
  rcases hst with hst | hst
  all_goals rw [hst]

theorem withdrawCue_claiming (hst : (d.slot i).st = .claiming) (hw : (d.slot i).withdrawn = false) :
    d.withdrawCue fc i = (d.endClaiming fc false i).retryIfReleased fc d := by
  rw [Desk.withdrawCue, hst]
  dsimp only
  rw [hw]
  rfl

/-- A waiting CLAIM is removed, and its cue ends at once. -/
theorem endClaiming_waiting {e : TxEntry} (he : d.cbi.claimEntry i = some e) (hs : e.stage = .waiting) (a : Bool) :
    d.endClaiming fc a i = ((d.withCbi (Cbi.dropClaim i)).itemLeft fc e.marked).claimGone fc i := by
  unfold Desk.endClaiming
  rw [he]
  exact if_pos hs

/-- A cue whose CLAIM contends or flies ends after its outcome. -/
theorem endClaiming_going (hg : ∀ e, d.cbi.claimEntry i = some e → e.stage ≠ .waiting) :
    d.endClaiming fc false i = d.modSlot i (CueSlot.markEnd false) := by
  unfold Desk.endClaiming
  split
  next e he => exact if_neg (hg e he)
  next => rfl

theorem releasedSince_eq_false {before : Desk}
    (h : ∀ j, (before.slot j).st.live = true → (d.slot j).st.live = true) : d.releasedSince before = false := by
  refine List.any_eq_false.mpr fun j _ => ?_
  cases hl : (before.slot j).st.live with
  | false => rw [Bool.false_and]; exact Bool.false_ne_true
  | true => rw [h j hl]; exact Bool.false_ne_true

theorem claimGone_of_claiming (h : (d.slot i).st = .claiming) : d.claimGone fc i = d.endNow fc i := if_pos h

theorem slot_itemLeft (m : Bool) : (d.itemLeft fc m).slot i = d.slot i := by
  unfold Desk.itemLeft
  split
  · split <;> rfl
  · rfl

theorem chain_itemLeft (m : Bool) : (d.itemLeft fc m).chain c = d.chain c := by
  unfold Desk.itemLeft
  split
  · split <;> rfl
  · rfl

/-- The desk after the waiting CLAIM of a cue is removed and the cue has ended. -/
theorem slot_endClaiming_waiting {e : TxEntry} (he : d.cbi.claimEntry i = some e) (hs : e.stage = .waiting) (a : Bool)
    (hst : (d.slot i).st = .claiming) (hu : d.Unawaited i) (hn : (d.slot i).cue.next ≠ some i) :
    (d.endClaiming fc a i).slot i = (d.slot i).over := by
  have kept : ((d.withCbi (Cbi.dropClaim i)).itemLeft fc e.marked).slot i = d.slot i := by
    rw [slot_itemLeft, slot_withCbi]
  have unawaited : ((d.withCbi (Cbi.dropClaim i)).itemLeft fc e.marked).Unawaited i := by
    intro c w
    rw [chain_itemLeft]
    exact hu c w
  rw [endClaiming_waiting he hs, claimGone_of_claiming (by rw [kept]; exact hst), slot_endNow_self, kept]
  · rw [kept, hst]
    exact nofun
  · exact unawaited
  · rw [kept]
    exact hn

theorem claimEntry_endClaiming_waiting {e : TxEntry} (he : d.cbi.claimEntry i = some e) (hs : e.stage = .waiting)
    (a : Bool) : (d.endClaiming fc a i).cbi.claimEntry i = none := by
  rw [endClaiming_waiting he hs, cbi_claimGone, cbi_itemLeft]
  exact claimEntry_dropClaim _

theorem st_over (x : CueSlot) : x.over.st = .free ∨ x.over.st = .loaded := by
  unfold CueSlot.over
  split
  · exact .inl rfl
  · exact .inr rfl

/-- Settles O44. -/
theorem pauseResumeAndWithdrawByState : Obligations.PauseResumeAndWithdrawByState := by
  unfold Obligations.PauseResumeAndWithdrawByState
  refine ⟨fun c s => ?_, fun i s => ?_⟩
  · intro x on h
    exact pause_resume_by_state h c
  · intro x h
    rw [exec_withdrawCue h]
    refine ⟨fun hst => ?_, fun hst => ?_, fun hst => ?_, fun hst => ?_, fun hst hw => ?_, fun hst hw hg => ?_,
      fun e hst hw he hs hn hu => ?_⟩
    · rw [withdrawCue_airborne hst]
      rfl
    · rw [Desk.withdrawCue, show (s.desk.slot i).st = _ from hst]
      rfl
    · rw [Desk.withdrawCue, show (s.desk.slot i).st = _ from hst]
      rfl
    · rcases hst with hst | hst
      all_goals
        rw [Desk.withdrawCue, show (s.desk.slot i).st = _ from hst]
        rfl
    · rw [Desk.withdrawCue, show (s.desk.slot i).st = _ from hst]
      dsimp only
      rw [show (s.desk.slot i).withdrawn = true from hw]
      rfl
    · have still : (s.desk.modSlot i (CueSlot.markEnd false)).releasedSince s.desk = false :=
        releasedSince_eq_false fun j hj => (live_modSlot (f := CueSlot.markEnd false) (by rfl) j).trans hj
      have marked : (s.desk.slot i).markEnd false = { x with endAfter := true, withdrawn := true } := by
        unfold CueSlot.markEnd
        rw [show (s.desk.slot i).withdrawn = false from hw]
        rfl
      rw [withdrawCue_claiming hst hw, endClaiming_going hg, Desk.retryIfReleased, still]
      unfold Desk.modSlot
      rw [marked]
      rfl
    · have slot : ((s.desk.endClaiming s.fc false i).slot i) = x.over := slot_endClaiming_waiting he hs false hst hu hn
      have quiet : (x.over).st ≠ .ending ∧ (x.over).st ≠ .armed := by
        rcases st_over x with ho | ho
        all_goals
          rw [ho]
          exact ⟨nofun, nofun⟩
      have unclaimed : (s.desk.endClaiming s.fc false i).Unclaimed i :=
        ⟨by rw [slot]; exact quiet.2, claimEntry_endClaiming_waiting he hs false⟩
      have work : Desk.Work true s.desk (s.desk.withdrawCue s.fc i) := Desk.Work.withdrawCue
      refine ⟨_, exec_withdrawCue h i, ?_, ?_, rfl, work.leaves.pt, work.leaves.sb, work.leaves.ky⟩
      · change (s.desk.withdrawCue s.fc i).slot i = _
        rw [withdrawCue_claiming hst hw, slot_retryIfReleased, slot]
        · rfl
        · rw [slot]
          exact quiet.1
        · rw [slot]
          exact quiet.2
      · change (s.desk.withdrawCue s.fc i).cbi.claimEntry i = none
        rw [withdrawCue_claiming hst hw]
        exact (unclaimed_retryIfReleased s.desk unclaimed).2

end

end Sys2Proof.Machine

namespace Sys2Proof.Machine

/-! ## A chain that is over (R142, R148)

While an abort goes through the cues of its chain, the chain waits for no slot and arms nothing; it is ABORTING, or IDLE with no
live cue. -/

/-- The chain is ABORTING and waits for no slot, or is IDLE with no live cue. -/
def Desk.Over (c : ChainNo) (d : Desk) : Prop :=
  (d.chain c).waiting = none ∧ ((d.chain c).st = .aborting ∨
    ((d.chain c).st = .idle ∧ ∀ j, (d.slot j).st.live = true → (d.slot j).chain ≠ some c))

/-- The slot is not ARMED by the chain. -/
def CueSlot.Disarmed (c : ChainNo) (x : CueSlot) : Prop := x.chain = some c → x.st ≠ .armed

section
variable {d e : Desk} {fc : FieldCount} {i j : Slot} {b c : ChainNo}

theorem chainLive_eq_zero_iff :
    d.ce.chainLive c = 0 ↔ ∀ j, (d.slot j).st.live = true → (d.slot j).chain ≠ some c := by
  unfold Ce.chainLive
  rw [List.length_eq_zero_iff, List.filter_eq_nil_iff]
  refine ⟨fun h j hl hc => h j (List.mem_finRange j) ?_, fun h j _ hj => ?_⟩
  · rw [Bool.and_eq_true, beq_iff_eq]
    exact ⟨hl, hc⟩
  · rw [Bool.and_eq_true, beq_iff_eq] at hj
    exact h j hj.1 hj.2

theorem over_of_ce (h : e.ce = d.ce) (ho : d.Over c) : e.Over c := by
  unfold Desk.Over Desk.chain Desk.slot
  rw [h]
  exact ho

theorem ce_itemLeft (m : Bool) : (d.itemLeft fc m).ce = d.ce := by
  unfold Desk.itemLeft
  split
  · split <;> rfl
  · rfl

theorem not_running_of_over (h : d.Over c) : (d.chain c).st ≠ .running := by
  obtain ⟨-, hst | ⟨hst, -⟩⟩ := h
  all_goals
    rw [hst]
    exact nofun

theorem over_modSlot {f : CueSlot → CueSlot} (h : d.Over c)
    (hf : (f (d.slot j)).st.live = true → (f (d.slot j)).chain = some c →
      (d.slot j).st.live = true ∧ (d.slot j).chain = some c) : (d.modSlot j f).Over c := by
  obtain ⟨hw, hst⟩ := h
  refine ⟨hw, hst.imp_right fun ⟨hi, hl⟩ => ⟨hi, fun k => ?_⟩⟩
  rw [slot_modSlot]
  split
  · intro hk hc
    obtain ⟨hk', hc'⟩ := hf hk hc
    exact hl j hk' hc'
  · exact hl k

theorem over_freeSlot (h : d.Over c) : (d.freeSlot j).Over c := by
  have freed : (d.modSlot j (fun _ => CueSlot.freed)).Over c := over_modSlot h nofun
  exact freed

theorem over_modChain {f : Chain → Chain} (h : d.Over c)
    (hf : b = c → (f (d.chain c)).waiting = none ∧ (f (d.chain c)).st = (d.chain c).st) : (d.modChain b f).Over c := by
  unfold Desk.Over
  rw [chain_modChain]
  split
  next hbc =>
    obtain ⟨hw, hst⟩ := hf hbc
    subst hbc
    rw [hw, hst]
    exact ⟨rfl, h.2⟩
  next => exact h

theorem over_checkChain (h : d.Over c) : (d.checkChain fc b).Over c := by
  unfold Desk.checkChain
  split
  · exact h
  · split
    next hl =>
      refine over_of_ce rfl (?_ : (d.modChain b (fun _ => Chain.idle)).Over c)
      unfold Desk.Over
      rw [chain_modChain]
      split
      next hbc =>
        subst hbc
        exact ⟨rfl, .inr ⟨rfl, chainLive_eq_zero_iff.mp hl⟩⟩
      next => exact h
    · exact h

theorem over_arm (h : d.Over c) (hb : b ≠ c) (p : Option Slot) (q : Bool) : (d.arm fc b j p q).Over c := by
  have armed : ((d.modSlot j (CueSlot.armedFor b p q)).modChain b (Chain.arms j)).Over c :=
    over_modChain (over_modSlot h (fun hl => nomatch hl)) fun hbc => absurd hbc hb
  change (((d.modSlot j (CueSlot.armedFor b p q)).modChain b (Chain.arms j)).testStart fc j).Over c
  unfold Desk.testStart
  dsimp only
  split
  · exact over_modSlot armed fun hl hc => ⟨hl, hc⟩
  · exact armed

theorem over_wakeChain (h : d.Over c) : (d.wakeChain fc j b).Over c := by
  unfold Desk.wakeChain
  split
  next w hw =>
    have other : b ≠ c := by
      rintro rfl
      rw [h.1] at hw
      cases hw
    split
    · split
      · exact over_arm h other _ _
      · exact over_checkChain (over_modChain h fun hbc => absurd hbc other)
      · exact h
    · exact h
  next => exact h

theorem over_fold {α : Type} {f : Desk → α → Desk} (hf : ∀ (x : Desk) a, x.Over c → (f x a).Over c) (l : List α)
    (h : d.Over c) : (l.foldl f d).Over c := by
  induction l generalizing d with
  | nil => exact h
  | cons a l ih => exact ih (hf d a h)

theorem over_wake (h : d.Over c) : (d.wake fc j).Over c :=
  over_fold (fun _ _ => over_wakeChain) allChains h

theorem over_tryStart (h : d.Over c) : (d.tryStart fc j).Over c := by
  unfold Desk.tryStart
  dsimp only
  split
  next ha =>
    have other : (d.slot j).chain ≠ some c := by
      intro hc
      have runs := ha.2.2.2
      rw [runsSlot_of_chain hc, beq_iff_eq] at runs
      exact not_running_of_over h runs
    unfold Desk.tryClaim Desk.regionFull Desk.offerClaim
    split
    · split
      · exact h
      · refine over_of_ce rfl (?_ : (d.modSlot j (fun x => { x with fullPosted := true })).Over c)
        exact over_modSlot h fun hl hc => ⟨hl, hc⟩
    · split
      · exact h
      · split
        · exact over_modSlot (d := d.withCbi _) h fun _ hc => absurd hc other
        · exact h
  next => exact h

theorem over_offerWithdraw (h : d.Over c) : (d.offerWithdraw j).Over c := by
  unfold Desk.offerWithdraw
  dsimp only
  split
  · exact over_modSlot (d := d.withCbi _) h fun hl hc => ⟨hl, hc⟩
  · exact h

theorem over_retryIfReleased (before : Desk) (h : d.Over c) : (d.retryIfReleased fc before).Over c := by
  unfold Desk.retryIfReleased
  split
  · exact over_fold (fun _ _ => over_tryStart) allSlots (over_fold (fun _ _ => over_offerWithdraw) allSlots h)
  · exact h

theorem over_endForChain (h : d.Over c) : (d.endForChain j).Over c := by
  unfold Desk.endForChain
  split
  next b hb =>
    have marked : Desk.Over c { d with ce := { d.ce with slots := d.ce.slots.map (markPredEnded b j) } } := by
      obtain ⟨hw, hst⟩ := h
      refine ⟨hw, hst.imp_right fun ⟨hi, hl⟩ => ⟨hi, fun k => ?_⟩⟩
      rw [slot_marks]
      unfold markPredEnded
      split <;> exact hl k
    refine over_modChain marked fun _ => ⟨?_, rfl⟩
    change Option.map _ (d.chain c).waiting = none
    rw [h.1]
    rfl
  next => exact h

/-- A chain that is over arms no successor. -/
theorem succeedNow_of_over (h : d.Over c) (hc : (d.slot j).chain = some c) (hl : (d.slot j).st.live = true) :
    d.succeedNow fc j = d := by
  obtain ⟨-, hst | ⟨-, hn⟩⟩ := h
  · rw [Desk.succeedNow, hc]
    exact if_pos hst
  · exact absurd hc (hn j hl)

theorem succession_of_over (h : d.Over c) (hc : (d.slot j).chain = some c) (hl : (d.slot j).st.live = true) :
    (d.endForChain j).succeedNow fc j = d.endForChain j := by
  obtain ⟨q, hq⟩ := slot_endForChain_marked (d := d) (i := j) (j := j)
  exact succeedNow_of_over (over_endForChain h) (by rw [hq]; exact hc) (by rw [hq]; exact hl)

theorem over_ended (h : d.Over c) : (d.ended fc j).Over c := by
  obtain ⟨x, hx⟩ := tellEnded_eq fc j d
  have told : (d.tellEnded fc j).Over c := by
    rw [hx]
    exact h
  unfold Desk.ended
  refine over_wake ?_
  change (if (d.slot j).cue.autoFree then (d.tellEnded fc j).freeSlot j else (d.tellEnded fc j).unloadRun j).Over c
  split
  · exact over_freeSlot told
  · exact over_modSlot told (fun hl => nomatch hl)

theorem over_checkChainOf (o : Option ChainNo) (h : d.Over c) : (d.checkChainOf fc o).Over c := by
  cases o with
  | none => exact h
  | some b => exact over_checkChain h

theorem over_endNow (h : d.Over c) (hc : (d.slot j).chain = some c) (hl : (d.slot j).st.live = true) :
    (d.endNow fc j).Over c := by
  rw [Desk.endNow, succession_of_over h hc hl]
  exact over_checkChainOf _ (over_ended (over_endForChain h))

/-! ### One cue of an aborted chain (R148) -/

/-- What an abort does to a CLAIMING cue: it ends at once, or is marked and its contending frame is to be removed. -/
theorem endClaiming_cases (hst : (d.slot j).st = .claiming) :
    (∃ m, d.endClaiming fc true j = (((d.withCbi (Cbi.dropClaim j)).itemLeft fc m).endNow fc j)) ∨
    (∃ f : Cbi → Cbi, (f = id ∨ f = Cbi.askRemoval j) ∧
      d.endClaiming fc true j = (d.modSlot j (CueSlot.markEnd true)).withCbi f) := by
  unfold Desk.endClaiming
  split
  next e he =>
    split
    · refine .inl ⟨e.marked, claimGone_of_claiming ?_⟩
      rw [slot_itemLeft, slot_withCbi]
      exact hst
    · exact .inr ⟨_, .inr rfl, rfl⟩
  next => exact .inr ⟨_, .inl rfl, rfl⟩

/-- An aborted cue by its state. -/
theorem abortCue_cases (fc : FieldCount) (d : Desk) (j : Slot) :
    ((d.slot j).st = .armed ∧ d.abortCue fc false j = ((d.unloadRun j).wake fc j).tryStart fc j) ∨
    (((d.slot j).st = .scheduled ∨ (d.slot j).st = .onAir) ∧
      d.abortCue fc false j = d.modSlot j (fun x => { x with endOrdered := true })) ∨
    ((d.slot j).st = .claiming ∧ d.abortCue fc false j = d.endClaiming fc true j) ∨
    (((d.slot j).st = .ending ∨ (d.slot j).st = .loaded ∨ (d.slot j).st = .free) ∧ d.abortCue fc false j = d) := by
  unfold Desk.abortCue
  cases (d.slot j).st with
  | armed => exact .inl ⟨rfl, rfl⟩
  | scheduled => exact .inr (.inl ⟨.inl rfl, rfl⟩)
  | onAir => exact .inr (.inl ⟨.inr rfl, rfl⟩)
  | claiming => exact .inr (.inr (.inl ⟨rfl, rfl⟩))
  | ending => exact .inr (.inr (.inr ⟨.inl rfl, rfl⟩))
  | loaded => exact .inr (.inr (.inr ⟨.inr (.inl rfl), rfl⟩))
  | free => exact .inr (.inr (.inr ⟨.inr (.inr rfl), rfl⟩))

theorem over_abortCue (h : d.Over c) (hc : (d.slot j).chain = some c) : (d.abortCue fc false j).Over c := by
  obtain ⟨-, eq⟩ | ⟨-, eq⟩ | ⟨hst, eq⟩ | ⟨-, eq⟩ := abortCue_cases fc d j
  · rw [eq]
    exact over_tryStart (over_wake (over_modSlot h fun hl => nomatch hl))
  · rw [eq]
    exact over_modSlot h fun hl hc => ⟨hl, hc⟩
  · rw [eq]
    rcases endClaiming_cases (fc := fc) hst with ⟨m, hm⟩ | ⟨f, -, hf⟩
    · rw [hm]
      refine over_endNow (over_of_ce (ce_itemLeft (d := d.withCbi _) m) h) ?_ ?_
      · rw [slot_itemLeft, slot_withCbi, hc]
      · rw [slot_itemLeft, slot_withCbi, hst]
        rfl
    · rw [hf]
      have marked : (d.modSlot j (CueSlot.markEnd true)).Over c := over_modSlot h fun hl hc => ⟨hl, hc⟩
      exact marked
  · rw [eq]
    exact h

theorem slot_wake_ne (h : j ≠ i) : (d.wake fc j).slot i = d.slot i := by
  refine slot_fold _ allChains (fun _ => True) (fun x b _ _ => ?_) trivial
  unfold Desk.wakeChain
  split
  · split
    · split
      · exact slot_arm_ne h _ _
      · rw [slot_checkChain, slot_modChain]
      · rfl
    · rfl
  · rfl

theorem slot_tryStart_ne (h : j ≠ i) : (d.tryStart fc j).slot i = d.slot i := by
  unfold Desk.tryStart
  dsimp only
  split
  · exact slot_tryClaim_ne h
  · rfl

/-- The end of a cue whose chain is over changes no other slot but for the predecessor's mark. -/
theorem slot_endNow_of_over (h : d.Over c) (hc : (d.slot j).chain = some c) (hl : (d.slot j).st.live = true) (hij : j ≠ i) :
    (d.endNow fc j).slot i = markPredEnded c j (d.slot i) := by
  have ended (x : Desk) : (x.ended fc j).slot i = x.slot i := by
    obtain ⟨y, hy⟩ := tellEnded_eq fc j x
    unfold Desk.ended
    change ((if (x.slot j).cue.autoFree then (x.tellEnded fc j).freeSlot j else (x.tellEnded fc j).unloadRun j).wake
      fc j).slot i = _
    rw [slot_wake_ne hij, hy]
    split
    · rw [slot_freeSlot, if_neg hij]
      rfl
    · rw [Desk.unloadRun, slot_modSlot_ne hij]
      rfl
  rw [Desk.endNow, succession_of_over h hc hl, slot_checkChainOf, ended, slot_endForChain, hc]

theorem slot_abortCue_ne (h : d.Over c) (hc : (d.slot j).chain = some c) (hij : j ≠ i) :
    (d.abortCue fc false j).slot i = d.slot i ∨ (d.abortCue fc false j).slot i = markPredEnded c j (d.slot i) := by
  obtain ⟨-, eq⟩ | ⟨-, eq⟩ | ⟨hst, eq⟩ | ⟨-, eq⟩ := abortCue_cases fc d j
  · rw [eq, slot_tryStart_ne hij, slot_wake_ne hij, Desk.unloadRun, slot_modSlot_ne hij]
    exact .inl rfl
  · rw [eq]
    exact .inl (slot_modSlot_ne hij _ d)
  · rcases endClaiming_cases (fc := fc) hst with ⟨m, hm⟩ | ⟨f, -, hf⟩
    · rw [eq, hm, slot_endNow_of_over (c := c) (over_of_ce (ce_itemLeft (d := d.withCbi _) m) h) _ _ hij, slot_itemLeft,
        slot_withCbi]
      · exact .inr rfl
      · rw [slot_itemLeft, slot_withCbi, hc]
      · rw [slot_itemLeft, slot_withCbi, hst]
        rfl
    · rw [eq, hf, slot_withCbi, slot_modSlot_ne hij]
      exact .inl rfl
  · exact .inl (congrArg (fun x => Desk.slot x i) eq)

theorem chain_tryStart : (d.tryStart fc j).chain c = d.chain c := by
  unfold Desk.tryStart Desk.tryClaim Desk.regionFull Desk.offerClaim
  dsimp only
  split
  · split
    · split <;> rfl
    · split
      · rfl
      · split <;> rfl
  · rfl

theorem unawaited_checkChain (h : d.Unawaited i) : (d.checkChain fc b).Unawaited i := by
  unfold Desk.checkChain
  split
  · exact h
  · split
    · exact unawaited_modChain (f := fun _ => Chain.idle) h (fun w hw => nomatch hw)
    · exact h

theorem unawaited_wakeChain (h : d.Unawaited i) : (d.wakeChain fc j b).Unawaited i := by
  unfold Desk.wakeChain
  split
  · split
    · split
      · exact unawaited_arm h _ _
      · exact unawaited_checkChain (unawaited_modChain h nofun)
      · exact h
    · exact h
  · exact h

theorem unawaited_wake (h : d.Unawaited i) : (d.wake fc j).Unawaited i := by
  unfold Desk.wake
  generalize allChains = l
  induction l generalizing d with
  | nil => exact h
  | cons b l ih => exact ih (unawaited_wakeChain h)

theorem unawaited_ended (h : d.Unawaited i) : (d.ended fc j).Unawaited i := by
  obtain ⟨x, hx⟩ := tellEnded_eq fc j d
  unfold Desk.ended
  refine unawaited_wake ?_
  change (if (d.slot j).cue.autoFree then (d.tellEnded fc j).freeSlot j else (d.tellEnded fc j).unloadRun j).Unawaited i
  rw [hx]
  split <;> exact h

theorem unawaited_endNow (ho : d.Over c) (hc : (d.slot j).chain = some c) (hl : (d.slot j).st.live = true)
    (h : d.Unawaited i) : (d.endNow fc j).Unawaited i := by
  rw [Desk.endNow, succession_of_over ho hc hl, hc]
  exact unawaited_checkChain (unawaited_ended (unawaited_endForChain h))

/-- The abort of another cue makes no chain wait for the slot. -/
theorem unawaited_abortCue (ho : d.Over c) (hc : (d.slot j).chain = some c) (h : d.Unawaited i) :
    (d.abortCue fc false j).Unawaited i := by
  obtain ⟨-, eq⟩ | ⟨-, eq⟩ | ⟨hst, eq⟩ | ⟨-, eq⟩ := abortCue_cases fc d j
  · rw [eq]
    intro b w
    rw [chain_tryStart]
    exact unawaited_wake (d := d.unloadRun j) h b w
  · rw [eq]
    exact h
  · rcases endClaiming_cases (fc := fc) hst with ⟨m, hm⟩ | ⟨f, -, hf⟩
    · have left : ((d.withCbi (Cbi.dropClaim j)).itemLeft fc m).Unawaited i := by
        intro b w
        rw [chain_itemLeft]
        exact h b w
      rw [eq, hm]
      refine unawaited_endNow (over_of_ce (ce_itemLeft (d := d.withCbi _) m) ho) ?_ ?_ left
      · rw [slot_itemLeft, slot_withCbi, hc]
      · rw [slot_itemLeft, slot_withCbi, hst]
        rfl
    · rw [eq, hf]
      exact h
  · rw [eq]
    exact h

/-! ### The queue while an abort goes on (R112, R115) -/

theorem cbi_tryStart_cases (fc : FieldCount) (d : Desk) (j : Slot) : (d.tryStart fc j).cbi = d.cbi ∨
    (d.tryStart fc j).cbi = d.cbi.enqueue (.claim j) .cueEngine := by
  unfold Desk.tryStart Desk.tryClaim Desk.regionFull Desk.offerClaim
  dsimp only
  split
  · split
    · split <;> exact .inl rfl
    · split
      · exact .inl rfl
      · split
        · exact .inr rfl
        · exact .inl rfl
  · exact .inl rfl

/-- An abort leaves the queue, offers a CLAIM of the cue armed anew, removes the cue's CLAIM or asks for its removal. -/
theorem cbi_abortCue_cases (fc : FieldCount) (d : Desk) (j : Slot) :
    (d.abortCue fc false j).cbi = d.cbi ∨ (d.abortCue fc false j).cbi = d.cbi.enqueue (.claim j) .cueEngine ∨
    (d.abortCue fc false j).cbi = d.cbi.dropClaim j ∨ (d.abortCue fc false j).cbi = d.cbi.askRemoval j := by
  obtain ⟨-, eq⟩ | ⟨-, eq⟩ | ⟨hst, eq⟩ | ⟨-, eq⟩ := abortCue_cases fc d j
  · have woken : ((d.unloadRun j).wake fc j).cbi = d.cbi := by simp
    rcases cbi_tryStart_cases fc ((d.unloadRun j).wake fc j) j with h | h
    · exact .inl (by rw [eq, h, woken])
    · exact .inr (.inl (by rw [eq, h, woken]))
  · exact .inl (by rw [eq]; rfl)
  · rcases endClaiming_cases (fc := fc) hst with ⟨m, hm⟩ | ⟨f, rfl | rfl, hf⟩
    · refine .inr (.inr (.inl ?_))
      rw [eq, hm, cbi_endNow, cbi_itemLeft]
      rfl
    · exact .inl (by rw [eq, hf]; rfl)
    · exact .inr (.inr (.inr (by rw [eq, hf]; rfl)))
  · exact .inl (congrArg Desk.cbi eq)

theorem TxEntry.isClaim_iff {e : TxEntry} : e.isClaim i = true ↔ e.what = .claim i ∧ e.silent = false := by
  simp [TxEntry.isClaim]

theorem isClaim_of_ne {e : TxEntry} (he : e.isClaim i = true) (hij : j ≠ i) : e.isClaim j = false := by
  obtain ⟨hw, -⟩ := TxEntry.isClaim_iff.mp he
  refine Bool.eq_false_iff.mpr fun hj => hij ?_
  obtain ⟨hw', -⟩ := TxEntry.isClaim_iff.mp hj
  exact TxWhat.claim.inj (hw'.symm.trans hw)

theorem txq_settleLock (x : Cbi) : x.settleLock.txq = x.txq := by
  unfold Cbi.settleLock
  split <;> rfl

/-- A CLAIM of the slot stays queued as it is when another cue is aborted. -/
theorem mem_abortCue {e : TxEntry} (he : e.isClaim i = true) (hij : j ≠ i) (hm : e ∈ d.cbi.txq) :
    e ∈ (d.abortCue fc false j).cbi.txq := by
  have other := isClaim_of_ne he hij
  rcases cbi_abortCue_cases fc d j with h | h | h | h
  · rwa [h]
  · rw [h]
    exact List.mem_append_left _ hm
  · rw [h, Cbi.dropClaim, txq_settleLock]
    exact List.mem_filter.mpr ⟨hm, by rw [other]; rfl⟩
  · rw [h]
    refine List.mem_map.mpr ⟨e, hm, ?_⟩
    rw [other]
    rfl

theorem claimEntry_abortCue {e : TxEntry} (hij : j ≠ i) (he : d.cbi.claimEntry i = some e) :
    (d.abortCue fc false j).cbi.claimEntry i = some e := by
  have claim : e.isClaim i = true := List.find?_some he
  have find : d.cbi.txq.find? (TxEntry.isClaim i) = some e := he
  rcases cbi_abortCue_cases fc d j with h | h | h | h
  · rwa [h]
  · rw [h, Cbi.claimEntry]
    change (d.cbi.txq ++ _).find? _ = _
    rw [List.find?_append, find]
    rfl
  · rw [h, Cbi.dropClaim, claimEntry_settleLock, Cbi.claimEntry, List.find?_filter, ← find]
    refine congrArg (fun p => List.find? p d.cbi.txq) (funext fun x => ?_)
    cases hx : x.isClaim i with
    | false => simp
    | true => simp [isClaim_of_ne hx hij]
  · rw [h, Cbi.claimEntry]
    change (d.cbi.txq.map _).find? _ = _
    have same (x : TxEntry) : (if x.isClaim j && x.stage == .contending then { x with removeAsked := true } else x).isClaim
        i = x.isClaim i := by
      split <;> rfl
    rw [List.find?_map]
    change Option.map _ (List.find? (fun x => TxEntry.isClaim i _) _) = _
    rw [funext same, find, Option.map_some, isClaim_of_ne claim hij]
    rfl

/-! ### The sweep over the cues of an aborted chain -/

/-- The chain is over and these are cues of it, each named once. -/
structure Desk.Aborts (c : ChainNo) (l : List Slot) (d : Desk) : Prop where
  settled : d.Over c
  nodup : l.Nodup
  chain : ∀ j ∈ l, (d.slot j).chain = some c

/-- The slot is the same but for the predecessor's mark. -/
def CueSlot.UpToMark (x y : CueSlot) : Prop := ∃ b, y = { x with predEnded := b }

theorem upToMark_markPredEnded {x y : CueSlot} (h : x.UpToMark y) : x.UpToMark (markPredEnded c j y) := by
  obtain ⟨b, rfl⟩ := h
  unfold markPredEnded
  split
  · exact ⟨true, rfl⟩
  · exact ⟨b, rfl⟩

theorem upToMark_abortCue {x : CueSlot} (ho : d.Over c) (hc : (d.slot j).chain = some c) (hij : j ≠ i)
    (h : x.UpToMark (d.slot i)) : x.UpToMark ((d.abortCue fc false j).slot i) := by
  rcases slot_abortCue_ne (fc := fc) ho hc hij with e | e
  · rwa [e]
  · rw [e]
    exact upToMark_markPredEnded h

theorem aborts_cons {l : List Slot} (h : d.Aborts c (j :: l)) : (d.abortCue fc false j).Aborts c l := by
  obtain ⟨hj, hn⟩ := List.nodup_cons.mp h.nodup
  have own := h.chain j List.mem_cons_self
  refine ⟨over_abortCue h.settled own, hn, fun k hk => ?_⟩
  obtain ⟨b, hb⟩ := upToMark_abortCue (fc := fc) h.settled own (fun e => hj (e ▸ hk)) ⟨(d.slot k).predEnded, rfl⟩
  rw [hb]
  exact h.chain k (List.mem_cons_of_mem _ hk)

theorem aborts_append {front l : List Slot} (h : d.Aborts c (front ++ l)) :
    (front.foldl (Desk.abortCue fc false) d).Aborts c l := by
  induction front generalizing d with
  | nil => exact h
  | cons j front ih => exact ih (aborts_cons h)

/-- What the abort of every other cue keeps holds after the sweep. -/
theorem sweep_others {P : Desk → Prop} (hP : ∀ (x : Desk) j, j ≠ i → x.Over c → (x.slot j).chain = some c → P x →
    P (x.abortCue fc false j)) {l : List Slot} (h : d.Aborts c l) (hi : i ∉ l) (hd : P d) :
    P (l.foldl (Desk.abortCue fc false) d) := by
  induction l generalizing d with
  | nil => exact hd
  | cons j l ih =>
    obtain ⟨hij, hi⟩ := not_or.mp (fun hm => hi (List.mem_cons.mpr hm))
    exact ih (aborts_cons h) hi (hP d j (Ne.symm hij) h.settled (h.chain j List.mem_cons_self) hd)

/-- What the abort of a cue brings about, and that of every other keeps, holds after the sweep. -/
theorem sweep_own {P Q : Desk → Prop} (hP : ∀ (x : Desk) j, j ≠ i → x.Over c → (x.slot j).chain = some c → P x →
    P (x.abortCue fc false j)) (hPQ : ∀ x : Desk, x.Over c → (x.slot i).chain = some c → P x → Q (x.abortCue fc false i))
    (hQ : ∀ (x : Desk) j, j ≠ i → x.Over c → (x.slot j).chain = some c → Q x → Q (x.abortCue fc false j))
    {l : List Slot} (h : d.Aborts c l) (hi : i ∈ l) (hd : P d) : Q (l.foldl (Desk.abortCue fc false) d) := by
  obtain ⟨front, rest, rfl⟩ := List.append_of_mem hi
  obtain ⟨-, tail, apart⟩ := List.nodup_append.mp h.nodup
  have before : i ∉ front := fun hf => apart i hf i List.mem_cons_self rfl
  have after : i ∉ rest := (List.nodup_cons.mp tail).1
  have first : front.foldl (Desk.abortCue fc false) d |>.Aborts c (i :: rest) := aborts_append h
  rw [List.foldl_append, List.foldl_cons]
  refine sweep_others hQ (aborts_cons first) after (hPQ _ first.settled (first.chain i List.mem_cons_self) ?_)
  exact sweep_others hP ⟨h.settled, (List.nodup_append.mp h.nodup).1, fun j hj => h.chain j (List.mem_append_left _ hj)⟩
    before hd

theorem disarmed_abortCue_ne (ho : d.Over c) (hc : (d.slot j).chain = some c) (hij : j ≠ i)
    (h : (d.slot i).Disarmed c) : ((d.abortCue fc false j).slot i).Disarmed c := by
  rcases slot_abortCue_ne (fc := fc) ho hc hij with e | e
  · rwa [e]
  · rw [e]
    unfold markPredEnded
    split <;> exact h

theorem disarmed_arm (hb : b ≠ c) (p : Option Slot) (q : Bool) : ((d.arm fc b i p q).slot i).Disarmed c := by
  have armed : (((d.modSlot i (CueSlot.armedFor b p q)).modChain b (Chain.arms i)).slot i).Disarmed c := by
    rw [slot_modChain, slot_modSlot_self]
    exact fun hc => absurd (Option.some.inj hc) hb
  change ((((d.modSlot i (CueSlot.armedFor b p q)).modChain b (Chain.arms i)).testStart fc i).slot i).Disarmed c
  unfold Desk.testStart
  dsimp only
  split
  · rw [slot_modSlot_self]
    exact armed
  · exact armed

theorem disarmed_wakeChain (ho : d.Over c) (h : (d.slot i).Disarmed c) : ((d.wakeChain fc i b).slot i).Disarmed c := by
  unfold Desk.wakeChain
  split
  next w hw =>
    have other : b ≠ c := by
      rintro rfl
      rw [ho.1] at hw
      cases hw
    split
    · split
      · exact disarmed_arm other _ _
      · rw [slot_checkChain, slot_modChain]
        exact h
      · exact h
    · exact h
  next => exact h

/-- A slot whose chain is over is armed for another chain at most. -/
theorem disarmed_wake (ho : d.Over c) (h : (d.slot i).Disarmed c) : ((d.wake fc i).slot i).Disarmed c := by
  unfold Desk.wake
  generalize allChains = l
  induction l generalizing d with
  | nil => exact h
  | cons b l ih => exact ih (over_wakeChain ho) (disarmed_wakeChain ho h)

theorem disarmed_tryStart (h : (d.slot i).Disarmed c) : ((d.tryStart fc j).slot i).Disarmed c := by
  by_cases hij : j = i
  · subst hij
    unfold Desk.tryStart Desk.tryClaim Desk.regionFull Desk.offerClaim
    dsimp only
    split
    · split
      · split
        · exact h
        · rw [slot_post, slot_modSlot_self]
          exact h
      · split
        · exact h
        · split
          · rw [slot_modSlot_self]
            exact fun _ => nofun
          · exact h
    · exact h
  · rw [slot_tryStart_ne hij]
    exact h

theorem disarmed_offerWithdraw (h : (d.slot i).Disarmed c) : ((d.offerWithdraw j).slot i).Disarmed c := by
  unfold Desk.offerWithdraw
  dsimp only
  split
  · rw [slot_modSlot, slot_withCbi]
    split
    next hij =>
      subst hij
      exact h
    next => exact h
  · exact h

theorem disarmed_fold {α : Type} {f : Desk → α → Desk}
    (hf : ∀ (x : Desk) a, (x.slot i).Disarmed c → ((f x a).slot i).Disarmed c) (l : List α)
    (h : (d.slot i).Disarmed c) : ((l.foldl f d).slot i).Disarmed c := by
  induction l generalizing d with
  | nil => exact h
  | cons a l ih => exact ih (hf d a h)

theorem disarmed_retryIfReleased (before : Desk) (h : (d.slot i).Disarmed c) :
    ((d.retryIfReleased fc before).slot i).Disarmed c := by
  unfold Desk.retryIfReleased
  split
  · exact disarmed_fold (fun _ _ => disarmed_tryStart) allSlots (disarmed_fold (fun _ _ => disarmed_offerWithdraw) allSlots h)
  · exact h

theorem disarmed_endNow (ho : d.Over c) (hc : (d.slot i).chain = some c) (hl : (d.slot i).st.live = true) :
    ((d.endNow fc i).slot i).Disarmed c := by
  rw [Desk.endNow, succession_of_over ho hc hl, slot_checkChainOf]
  have ended := over_endForChain (j := i) ho
  generalize d.endForChain i = x at ended
  obtain ⟨y, hy⟩ := tellEnded_eq fc i x
  have told : (x.tellEnded fc i).Over c := by
    rw [hy]
    exact ended
  change ((((if (x.slot i).cue.autoFree then (x.tellEnded fc i).freeSlot i else (x.tellEnded fc i).unloadRun i).wake
    fc i)).slot i).Disarmed c
  split
  · refine disarmed_wake (over_freeSlot told) ?_
    rw [slot_freeSlot, if_pos rfl]
    exact nofun
  · refine disarmed_wake (over_modSlot told fun hl => nomatch hl) ?_
    rw [Desk.unloadRun, slot_modSlot_self]
    exact nofun

theorem disarmed_abortCue_self (ho : d.Over c) (hc : (d.slot i).chain = some c) : ((d.abortCue fc false i).slot i).Disarmed c := by
  obtain ⟨-, eq⟩ | ⟨hst, eq⟩ | ⟨hst, eq⟩ | ⟨hst, eq⟩ := abortCue_cases fc d i
  · rw [eq]
    refine disarmed_tryStart (disarmed_wake (over_modSlot ho fun hl => nomatch hl) ?_)
    rw [Desk.unloadRun, slot_modSlot_self]
    exact fun _ => nofun
  · rw [eq, slot_modSlot_self]
    intro _
    rcases hst with hst | hst
    all_goals
      change (d.slot i).st ≠ _
      rw [hst]
      exact nofun
  · rcases endClaiming_cases (fc := fc) hst with ⟨m, hm⟩ | ⟨f, -, hf⟩
    · rw [eq, hm]
      refine disarmed_endNow (over_of_ce (ce_itemLeft (d := d.withCbi _) m) ho) ?_ ?_
      · rw [slot_itemLeft, slot_withCbi, hc]
      · rw [slot_itemLeft, slot_withCbi, hst]
        rfl
    · rw [eq, hf, slot_withCbi, slot_modSlot_self]
      intro _
      change (d.slot i).st ≠ _
      rw [hst]
      exact nofun
  · rw [eq]
    intro _
    rcases hst with hst | hst | hst
    all_goals
      rw [hst]
      exact nofun

theorem mem_tryStart {e : TxEntry} (h : e ∈ d.cbi.txq) : e ∈ (d.tryStart fc j).cbi.txq := by
  rcases cbi_tryStart_cases fc d j with eq | eq
  · rwa [eq]
  · rw [eq]
    exact List.mem_append_left _ h

theorem mem_offerWithdraw {e : TxEntry} (h : e ∈ d.cbi.txq) : e ∈ (d.offerWithdraw j).cbi.txq := by
  unfold Desk.offerWithdraw
  dsimp only
  split
  · exact mem_enqueueWithdraw.mpr (.inr h)
  · exact h

theorem mem_fold {α : Type} {e : TxEntry} {f : Desk → α → Desk}
    (hf : ∀ (x : Desk) a, e ∈ x.cbi.txq → e ∈ (f x a).cbi.txq) (l : List α) (h : e ∈ d.cbi.txq) :
    e ∈ (l.foldl f d).cbi.txq := by
  induction l generalizing d with
  | nil => exact h
  | cons a l ih => exact ih (hf d a h)

theorem mem_retry {e : TxEntry} (h : e ∈ d.cbi.txq) : e ∈ (d.retry fc).cbi.txq := by
  unfold Desk.retry
  exact mem_fold (f := fun x i => x.tryStart fc i) (fun _ _ => mem_tryStart) allSlots
    (mem_fold (f := fun x i => x.offerWithdraw i) (fun _ _ => mem_offerWithdraw) allSlots h)

/-- Trying again takes no frame from the queue. -/
theorem mem_retryIfReleased {e : TxEntry} (before : Desk) (h : e ∈ d.cbi.txq) :
    e ∈ (d.retryIfReleased fc before).cbi.txq := by
  unfold Desk.retryIfReleased
  split
  · exact mem_retry h
  · exact h

/-! ### ABORT_CHAIN (R141, R148) -/

theorem exec_abortChain {s : State} (h : s.taken) (c : ChainNo) :
    exec (.abortChain c) s = .next (s.withDesk (s.desk.abortChain s.fc c)) :=
  congrArg Host.Outcome.next (State.request_taken h (by decide) _)

/-- The desk after the sweep over the cues of an aborted chain. -/
def Desk.aborted (fc : FieldCount) (c : ChainNo) (d : Desk) : Desk :=
  ((allSlots.filter (d.inChain c)).foldl (Desk.abortCue fc false) (d.modChain c Chain.abort)).checkChain fc c

theorem abortChain_going (h : (d.chain c).st = .running ∨ (d.chain c).st = .paused) :
    d.abortChain fc c = (d.aborted fc c).retryIfReleased fc d := by
  have busy : (d.chain c).st ≠ .idle := by
    rcases h with h | h
    all_goals
      rw [h]
      exact nofun
  have swept : d.abortWith fc false c = d.aborted fc c := if_neg busy
  rw [Desk.abortChain, swept]
  rcases h with h | h
  all_goals rw [h]

theorem mem_cues : i ∈ allSlots.filter (d.inChain c) ↔ (d.slot i).chain = some c := by
  rw [List.mem_filter, Desk.inChain, beq_iff_eq]
  exact and_iff_right (List.mem_finRange i)

theorem aborts_start : (d.modChain c Chain.abort).Aborts c (allSlots.filter (d.inChain c)) where
  settled := by
    refine ⟨?_, .inl ?_⟩
    · rw [chain_modChain_self]
      rfl
    · rw [chain_modChain_self]
      rfl
  nodup := (List.nodup_finRange 32).filter _
  chain := fun _ hj => mem_cues.mp hj

/-- Without its own chain no other waits for the slot. -/
theorem unawaited_abort (h : ∀ b w, (d.chain b).waiting = some w → w.slot = i → b = c) :
    (d.modChain c Chain.abort).Unawaited i := by
  intro b w
  rw [chain_modChain]
  split
  · exact nofun
  next hbc => exact fun hw hi => hbc (h b w hw hi).symm

theorem over_aborted : (d.aborted fc c).Over c :=
  over_checkChain (aborts_append (l := []) (by rw [List.append_nil]; exact aborts_start)).settled

/-- No cue of the chain stays ARMED. -/
theorem disarmed_aborted : ((d.aborted fc c).slot i).Disarmed c := by
  rw [Desk.aborted, slot_checkChain]
  have others (x : Desk) (j : Slot) (hij : j ≠ i) (ho : x.Over c) (hc : (x.slot j).chain = some c)
      (h : (x.slot i).Disarmed c) : ((x.abortCue fc false j).slot i).Disarmed c := disarmed_abortCue_ne ho hc hij h
  by_cases hi : i ∈ allSlots.filter (d.inChain c)
  · exact sweep_own (P := fun _ => True) (Q := fun x => (x.slot i).Disarmed c) (fun _ _ _ _ _ _ => trivial)
      (fun x ho hc _ => disarmed_abortCue_self ho hc) others aborts_start hi trivial
  · exact sweep_others (P := fun x => (x.slot i).Disarmed c) others aborts_start hi fun hc => absurd (mem_cues.mpr hc) hi

/-- A cue SCHEDULED or ON_AIR ends at the next boundary. -/
theorem slot_aborted_airborne (hc : (d.slot i).chain = some c)
    (hst : (d.slot i).st = .scheduled ∨ (d.slot i).st = .onAir) :
    CueSlot.UpToMark { d.slot i with endOrdered := true } ((d.aborted fc c).slot i) := by
  rw [Desk.aborted, slot_checkChain]
  refine sweep_own (P := fun x => (d.slot i).UpToMark (x.slot i))
    (Q := fun x => CueSlot.UpToMark { d.slot i with endOrdered := true } (x.slot i))
    (fun x j hij ho hc h => upToMark_abortCue ho hc hij h) (fun x _ _ h => ?_)
    (fun x j hij ho hc h => upToMark_abortCue ho hc hij h) aborts_start (mem_cues.mpr hc) ⟨_, rfl⟩
  obtain ⟨b, hb⟩ := h
  obtain ⟨h, -⟩ | ⟨-, eq⟩ | ⟨h, -⟩ | ⟨h, -⟩ := abortCue_cases fc x i
  · rw [hb] at h
    rcases hst with hst | hst
    all_goals cases hst.symm.trans h
  · rw [eq, slot_modSlot_self, hb]
    exact ⟨b, rfl⟩
  · rw [hb] at h
    rcases hst with hst | hst
    all_goals cases hst.symm.trans h
  · rw [hb] at h
    rcases hst with hst | hst
    all_goals rcases h with h | h | h
    all_goals cases hst.symm.trans h

/-- The cue is as it was, and so is its CLAIM in the queue. -/
def Desk.StillClaims (i : Slot) (x : CueSlot) (e : TxEntry) (d : Desk) : Prop :=
  x.UpToMark (d.slot i) ∧ d.cbi.claimEntry i = some e

theorem stillClaims_abortCue {x : CueSlot} {e : TxEntry} (ho : d.Over c) (hc : (d.slot j).chain = some c) (hij : j ≠ i)
    (h : d.StillClaims i x e) : (d.abortCue fc false j).StillClaims i x e :=
  ⟨upToMark_abortCue ho hc hij h.1, claimEntry_abortCue hij h.2⟩

theorem abortCue_claiming (hst : (d.slot i).st = .claiming) : d.abortCue fc false i = d.endClaiming fc true i := by
  rw [Desk.abortCue, hst]

theorem st_of_upToMark {x y : CueSlot} (h : x.UpToMark y) : y.st = x.st := by
  obtain ⟨b, rfl⟩ := h
  rfl

theorem chain_over (x : CueSlot) : x.over.chain = none := by
  unfold CueSlot.over
  split <;> rfl

theorem slot_endNow_over (ho : d.Over c) (hc : (d.slot i).chain = some c) (hl : (d.slot i).st.live = true)
    (h : d.Unawaited i) : (d.endNow fc i).slot i = (d.slot i).over := by
  obtain ⟨b, hb⟩ := slot_endForChain_marked (d := d) (i := i) (j := i)
  rw [Desk.endNow, succession_of_over ho hc hl, slot_checkChainOf, slot_ended_self (unawaited_endForChain h), hb]
  exact over_congr rfl

theorem claimEntry_abortCue_none (hij : j ≠ i) (h : d.cbi.claimEntry i = none) :
    (d.abortCue fc false j).cbi.claimEntry i = none := by
  rw [claimEntry_eq_none_iff] at h
  rcases cbi_abortCue_cases fc d j with eq | eq | eq | eq
  all_goals rw [eq, claimEntry_eq_none_iff]
  · exact h
  · intro e he
    rcases List.mem_append.mp he with he | he
    · exact h e he
    · rw [List.mem_singleton.mp he]
      exact isClaim_fresh_of_ne (fun hc => hij (TxWhat.claim.inj hc)) _
  · intro e he
    rw [Cbi.dropClaim, txq_settleLock] at he
    exact h e (List.mem_filter.mp he).1
  · intro e he
    obtain ⟨x, hx, rfl⟩ := List.mem_map.mp he
    split <;> exact h x hx

/-- A CLAIMING cue whose CLAIM waits ends at once, the CLAIM removed. -/
theorem aborted_waiting {e : TxEntry} (hc : (d.slot i).chain = some c) (hst : (d.slot i).st = .claiming)
    (he : d.cbi.claimEntry i = some e) (hs : e.stage = .waiting)
    (hw : ∀ b w, (d.chain b).waiting = some w → w.slot = i → b = c) :
    (d.aborted fc c).slot i = (d.slot i).over ∧ (d.aborted fc c).cbi.claimEntry i = none := by
  rw [Desk.aborted, slot_checkChain, cbi_checkChain]
  refine sweep_own (P := fun x => x.StillClaims i (d.slot i) e ∧ x.Unawaited i)
    (Q := fun x => x.slot i = (d.slot i).over ∧ x.cbi.claimEntry i = none)
    (fun x j hij ho hj h => ⟨stillClaims_abortCue ho hj hij h.1, unawaited_abortCue ho hj h.2⟩)
    (fun x ho hi h => ?_) (fun x j hij ho hj h => ?_) aborts_start (mem_cues.mpr hc)
    ⟨⟨⟨_, rfl⟩, he⟩, unawaited_abort hw⟩
  · obtain ⟨⟨hx, hq⟩, hu⟩ := h
    have claiming : (x.slot i).st = .claiming := (st_of_upToMark hx).trans hst
    rw [abortCue_claiming claiming]
    refine ⟨?_, claimEntry_endClaiming_waiting hq hs true⟩
    have kept : ((x.withCbi (Cbi.dropClaim i)).itemLeft fc e.marked).slot i = x.slot i := by
      rw [slot_itemLeft, slot_withCbi]
    rw [endClaiming_waiting hq hs, claimGone_of_claiming (by rw [kept]; exact claiming),
      slot_endNow_over (c := c) (over_of_ce (ce_itemLeft (d := x.withCbi _) _) ho), kept]
    · obtain ⟨b, hb⟩ := hx
      rw [hb]
      exact over_congr rfl
    · rw [kept, hi]
    · rw [kept, claiming]
      rfl
    · intro b w
      rw [chain_itemLeft]
      exact hu b w
  · obtain ⟨hx, hq⟩ := h
    refine ⟨?_, claimEntry_abortCue_none hij hq⟩
    rcases slot_abortCue_ne (fc := fc) ho hj hij with e | e
    · rw [e, hx]
    · rw [e, hx, markPredEnded, if_neg fun hc => ?_]
      rw [chain_over] at hc
      exact nomatch hc.1

/-- An aborted cue's CLAIM: a contending one is to be removed if it loses. -/
def TxEntry.askedOut (e : TxEntry) : TxEntry := if e.stage = .contending then { e with removeAsked := true } else e

/-- A CLAIMING cue whose CLAIM contends or flies is marked to end, and its contending CLAIM is to be removed if it loses. -/
theorem aborted_going {e : TxEntry} (hc : (d.slot i).chain = some c) (hst : (d.slot i).st = .claiming)
    (he : d.cbi.claimEntry i = some e) (hs : e.stage ≠ .waiting) :
    CueSlot.UpToMark ((d.slot i).markEnd true) ((d.aborted fc c).slot i) ∧
    e.askedOut ∈ (d.aborted fc c).cbi.txq := by
  have claim : e.isClaim i = true := List.find?_some he
  have asked : e.askedOut.isClaim i = true := by
    unfold TxEntry.askedOut
    split <;> exact claim
  rw [Desk.aborted, slot_checkChain, cbi_checkChain]
  refine sweep_own (P := fun x => x.StillClaims i (d.slot i) e)
    (Q := fun x => CueSlot.UpToMark ((d.slot i).markEnd true) (x.slot i) ∧
      e.askedOut ∈ x.cbi.txq)
    (fun x j hij ho hj h => stillClaims_abortCue ho hj hij h)
    (fun x ho hi h => ?_) (fun x j hij ho hj h => ⟨upToMark_abortCue ho hj hij h.1, mem_abortCue asked hij h.2⟩)
    aborts_start (mem_cues.mpr hc) ⟨⟨_, rfl⟩, he⟩
  obtain ⟨hx, hq⟩ := h
  rw [abortCue_claiming ((st_of_upToMark hx).trans hst)]
  unfold Desk.endClaiming
  rw [hq]
  dsimp only
  rw [if_neg hs, if_pos rfl, slot_withCbi, slot_modSlot_self]
  obtain ⟨b, hb⟩ := hx
  refine ⟨⟨b, by rw [hb]; rfl⟩, List.mem_map.mpr ⟨e, List.mem_of_find?_eq_some hq, ?_⟩⟩
  rw [claim, Bool.true_and, TxEntry.askedOut]
  by_cases hk : e.stage = .contending
  · rw [if_pos hk, if_pos (beq_iff_eq.mpr hk)]
  · rw [if_neg hk, if_neg (fun h => hk (beq_iff_eq.mp h))]

/-- Settles O45. -/
theorem abortChainEndsItsCues : Obligations.AbortChainEndsItsCues := by
  unfold Obligations.AbortChainEndsItsCues
  intro c s d h
  rw [exec_abortChain h]
  refine ⟨fun hst => ?_, fun hst => ?_, fun hst => ?_⟩
  · have work : Desk.Work true d (d.abortChain s.fc c) := Desk.Work.abortChain
    refine ⟨_, exec_abortChain h c, ?_⟩
    have eq : d.abortChain s.fc c = (d.aborted s.fc c).retryIfReleased s.fc d := abortChain_going hst
    have settled : ((d.aborted s.fc c).retryIfReleased s.fc d).Over c := over_retryIfReleased d over_aborted
    have slot {i : Slot} (h1 : ((d.aborted s.fc c).slot i).st ≠ .ending) (h2 : ((d.aborted s.fc c).slot i).st ≠ .armed) :
        (d.abortChain s.fc c).slot i = (d.aborted s.fc c).slot i := by
      rw [eq]
      exact slot_retryIfReleased d h1 h2
    refine ⟨?_, fun i => ?_, fun i hc hair => ?_, fun i e hc hcl he => ⟨fun hs hw => ?_, fun hs => ?_, fun hs => ?_,
      fun hs => ?_⟩, rfl, work.leaves.pt, work.leaves.sb, work.leaves.ky⟩
    · rw [← eq] at settled
      exact settled.2.imp_right fun ⟨hi, hl⟩ => ⟨hi, chainLive_eq_zero_iff.mpr hl⟩
    · have disarmed := disarmed_retryIfReleased (fc := s.fc) d (disarmed_aborted (fc := s.fc) (d := d) (i := i) (c := c))
      rw [← eq] at disarmed
      exact disarmed
    · obtain ⟨b, hb⟩ := slot_aborted_airborne (fc := s.fc) hc hair
      have quiet : (d.slot i).st ≠ .ending ∧ (d.slot i).st ≠ .armed := by
        rcases hair with hair | hair
        all_goals
          rw [hair]
          exact ⟨nofun, nofun⟩
      have same := slot (by rw [hb]; exact quiet.1) (by rw [hb]; exact quiet.2)
      rw [hb] at same
      change ((d.abortChain s.fc c).slot i).st = _ ∧ ((d.abortChain s.fc c).slot i).endOrdered = _ ∧
        ((d.abortChain s.fc c).slot i).claim = _
      rw [same]
      exact ⟨rfl, rfl, rfl⟩
    · obtain ⟨gone, none⟩ := aborted_waiting (fc := s.fc) hc hcl he hs hw
      have quiet : ((d.aborted s.fc c).slot i).st ≠ .ending ∧ ((d.aborted s.fc c).slot i).st ≠ .armed := by
        rw [gone]
        rcases st_over (d.slot i) with ho | ho
        all_goals
          rw [ho]
          exact ⟨nofun, nofun⟩
      refine ⟨(slot quiet.1 quiet.2).trans gone, ?_⟩
      change (d.abortChain s.fc c).cbi.claimEntry i = _
      rw [eq]
      exact (unclaimed_retryIfReleased d ⟨quiet.2, none⟩).2
    · obtain ⟨⟨b, hb⟩, -⟩ := aborted_going (fc := s.fc) hc hcl he hs
      have claiming : ((d.aborted s.fc c).slot i).st = .claiming := by
        rw [hb]
        exact hcl
      have same := slot (by rw [claiming]; exact nofun) (by rw [claiming]; exact nofun)
      rw [hb] at same
      change ((d.abortChain s.fc c).slot i).st = _ ∧ ((d.abortChain s.fc c).slot i).endAfter = _
      rw [same]
      exact ⟨hcl, rfl⟩
    · have asked := (aborted_going (fc := s.fc) hc hcl he (by rw [hs]; exact nofun)).2
      rw [TxEntry.askedOut, if_pos hs] at asked
      change _ ∈ (d.abortChain s.fc c).cbi.txq
      rw [eq]
      exact mem_retryIfReleased d asked
    · have stays := (aborted_going (fc := s.fc) hc hcl he (by rw [hs]; exact nofun)).2
      rw [TxEntry.askedOut, if_neg (by rw [hs]; exact nofun)] at stays
      change _ ∈ (d.abortChain s.fc c).cbi.txq
      rw [eq]
      exact mem_retryIfReleased d stays
  · rw [Desk.abortChain, show (s.desk.chain c).st = .idle from hst]
    rfl
  · rw [Desk.abortChain, show (s.desk.chain c).st = .aborting from hst]
    rfl

end

end Sys2Proof.Machine

namespace Sys2Proof.Machine

/-! ## A slot that trying again leaves (R140)

A cue that is neither ARMED nor ENDING without its WITHDRAW has nothing to offer. What others offer is a new frame of the Cue
Engine for another id. -/

/-- The slot has nothing to offer. -/
def CueSlot.Still (x : CueSlot) : Prop := x.st ≠ .armed ∧ x.Offered

/-- The queue keeps its entries in their order, and what is new is a frame of the Cue Engine that concerns another id. -/
def Cbi.Grown (i : Slot) (c c' : Cbi) : Prop :=
  c.txq.Sublist c'.txq ∧
    ∀ x ∈ c'.txq, x ∈ c.txq ∨ (x = TxEntry.fresh x.what .cueEngine ∧ x.what.concerns i = false)

/-- Every entry of the queue waits. -/
def Cbi.AllWait (c : Cbi) : Prop := ∀ x ∈ c.txq, x.stage = .waiting

section
variable {d : Desk} {fc : FieldCount} {i j : Slot} {c c' c'' : Cbi}

theorem Cbi.Grown.refl (c : Cbi) : c.Grown i c := ⟨List.Sublist.refl _, fun _ hx => .inl hx⟩

theorem Cbi.Grown.trans (h : c.Grown i c') (h' : c'.Grown i c'') : c.Grown i c'' := by
  obtain ⟨hs, hm⟩ := h
  obtain ⟨hs', hm'⟩ := h'
  exact ⟨hs.trans hs', fun x hx => (hm' x hx).elim (hm x) .inr⟩

theorem sublist_passAhead (w : TxEntry) (es : List TxEntry) : es.Sublist (passAhead w es) := by
  induction es with
  | nil => exact List.nil_sublist _
  | cons e es ih =>
    unfold passAhead
    split
    · exact ih.cons_cons e
    · exact List.sublist_cons_self w (e :: es)

theorem grown_enqueueWithdraw (h : j ≠ i) : c.Grown i (c.enqueueWithdraw j .cueEngine) := by
  refine ⟨?_, fun x hx => (mem_enqueueWithdraw.mp hx).symm.imp_right ?_⟩
  · unfold Cbi.enqueueWithdraw Cbi.enqueue
    split
    · exact sublist_passAhead _ _
    · exact List.sublist_append_left ..
  · rintro rfl
    exact ⟨rfl, beq_false_of_ne h⟩

theorem grown_enqueueClaim (h : j ≠ i) : c.Grown i (c.enqueue (.claim j) .cueEngine) := by
  refine ⟨List.sublist_append_left .., fun x hx => (List.mem_append.mp hx).imp_right fun hx => ?_⟩
  rw [List.mem_singleton.mp hx]
  exact ⟨rfl, beq_false_of_ne h⟩

/-- Trying to start leaves a slot that is not ARMED and queues nothing for it. -/
theorem still_tryStart (h : (d.slot i).Still) :
    d.cbi.Grown i (d.tryStart fc j).cbi ∧ (d.tryStart fc j).slot i = d.slot i := by
  refine ⟨?_, slot_tryStart h.1⟩
  by_cases hj : (d.slot j).st = .armed
  · rcases cbi_tryStart_cases fc d j with e | e
    · rw [e]
      exact Cbi.Grown.refl _
    · rw [e]
      exact grown_enqueueClaim fun hij => h.1 (hij ▸ hj)
  · rw [tryStart_of_not_armed hj]
    exact Cbi.Grown.refl _

theorem still_offerWithdraw (h : (d.slot i).Still) :
    d.cbi.Grown i (d.offerWithdraw j).cbi ∧ (d.offerWithdraw j).slot i = d.slot i := by
  unfold Desk.offerWithdraw
  dsimp only
  split
  next ho =>
    have other : j ≠ i := by
      rintro rfl
      exact Bool.false_ne_true (ho.2.1.symm.trans (h.2 ho.1))
    exact ⟨grown_enqueueWithdraw other, slot_modSlot_ne other _ _⟩
  next => exact ⟨Cbi.Grown.refl _, rfl⟩

theorem still_fold {α : Type} {f : Desk → α → Desk}
    (hf : ∀ (x : Desk) a, (x.slot i).Still → x.cbi.Grown i (f x a).cbi ∧ (f x a).slot i = x.slot i) (l : List α)
    (h : (d.slot i).Still) : d.cbi.Grown i (l.foldl f d).cbi ∧ (l.foldl f d).slot i = d.slot i := by
  induction l generalizing d with
  | nil => exact ⟨Cbi.Grown.refl _, rfl⟩
  | cons a l ih =>
    obtain ⟨grown, same⟩ := hf d a h
    obtain ⟨grown', same'⟩ := ih (d := f d a) (by rw [same]; exact h)
    exact ⟨grown.trans grown', same'.trans same⟩

theorem still_retry (h : (d.slot i).Still) : d.cbi.Grown i (d.retry fc).cbi ∧ (d.retry fc).slot i = d.slot i := by
  unfold Desk.retry
  obtain ⟨grown, same⟩ := still_fold (f := fun x i => x.offerWithdraw i) (fun _ _ => still_offerWithdraw) allSlots h
  obtain ⟨grown', same'⟩ := still_fold (f := fun x i => x.tryStart fc i) (fun _ _ => still_tryStart) allSlots
    (d := allSlots.foldl (fun x i => x.offerWithdraw i) d) (by rw [same]; exact h)
  exact ⟨grown.trans grown', same'.trans same⟩

theorem allWait_tryStart (h : d.cbi.AllWait) : (d.tryStart fc j).cbi.AllWait := by
  rcases cbi_tryStart_cases fc d j with e | e
  · rwa [e]
  · rw [e]
    intro x hx
    rcases List.mem_append.mp hx with hx | hx
    · exact h x hx
    · rw [List.mem_singleton.mp hx]
      rfl

theorem allWait_enqueueWithdraw {owner : TxOwner} (h : c.AllWait) : (c.enqueueWithdraw j owner).AllWait := by
  intro x hx
  rcases mem_enqueueWithdraw.mp hx with rfl | hx
  · rfl
  · exact h x hx

theorem allWait_offerWithdraw (h : d.cbi.AllWait) : (d.offerWithdraw j).cbi.AllWait := by
  unfold Desk.offerWithdraw
  dsimp only
  split
  · exact allWait_enqueueWithdraw h
  · exact h

theorem allWait_fold {α : Type} {f : Desk → α → Desk} (hf : ∀ (x : Desk) a, x.cbi.AllWait → (f x a).cbi.AllWait)
    (l : List α) (h : d.cbi.AllWait) : (l.foldl f d).cbi.AllWait := by
  induction l generalizing d with
  | nil => exact h
  | cons a l ih => exact ih (hf d a h)

theorem allWait_retry (h : d.cbi.AllWait) : (d.retry fc).cbi.AllWait := by
  unfold Desk.retry
  exact allWait_fold (f := fun x i => x.tryStart fc i) (fun _ _ => allWait_tryStart) allSlots
    (allWait_fold (f := fun x i => x.offerWithdraw i) (fun _ _ => allWait_offerWithdraw) allSlots h)

/-! ## A report that stays in the queue (R182) -/

/-- The report is in the queue. -/
def Desk.Shows (r : Report) (d : Desk) : Prop := ∃ q ∈ d.hp.reports, q.report = r

variable {r r' : Report} {b : ChainNo}

theorem shows_posted (h : d.hp.reports = []) : (d.post fc r).Shows r := by
  refine ⟨⟨r, 0⟩, ?_, rfl⟩
  change _ ∈ postReport fc r d.hp.reports
  rw [h]
  exact List.mem_singleton_self _

/-- A report of another kind leaves a CUE report in the queue. -/
theorem shows_post (hr : r.kind = 0x82) (hk : r'.kind ≠ 0x82) (h : d.Shows r) : (d.post fc r').Shows r := by
  obtain ⟨q, hq, rfl⟩ := h
  have other : (q.report.key == r'.key) = false := beq_false_of_ne (key_ne_of_kind_ne (by rw [hr]; exact hk.symm))
  have plain : isOverflow q = false := by
    rw [isOverflow, hr]
    rfl
  refine ⟨q, ?_, rfl⟩
  change q ∈ postReport fc r' d.hp.reports
  unfold postReport coalesce overflowed
  split
  · exact List.mem_map.mpr ⟨q, hq, by rw [other]; rfl⟩
  · split
    · exact List.mem_append_left _ hq
    · split
      · exact List.mem_map.mpr ⟨q, hq, by rw [plain]; rfl⟩
      · exact List.mem_append_left _ hq

theorem shows_checkChain (hr : r.kind = 0x82) (h : d.Shows r) : (d.checkChain fc b).Shows r := by
  unfold Desk.checkChain
  split
  · exact h
  · split
    · exact shows_post (d := d.modChain b (fun _ => Chain.idle)) hr (show (0x83 : Nat) ≠ 0x82 by decide) h
    · exact h

theorem shows_checkChainOf (hr : r.kind = 0x82) (h : d.Shows r) (o : Option ChainNo) : (d.checkChainOf fc o).Shows r := by
  cases o with
  | none => exact h
  | some b => exact shows_checkChain hr h

theorem shows_tryStart (hr : r.kind = 0x82) (h : d.Shows r) : (d.tryStart fc j).Shows r := by
  unfold Desk.tryStart Desk.tryClaim Desk.regionFull Desk.offerClaim
  dsimp only
  split
  · split
    · split
      · exact h
      · exact shows_post (d := d.modSlot j _) hr nofun h
    · split
      · exact h
      · split <;> exact h
  · exact h

theorem shows_offerWithdraw (h : d.Shows r) : (d.offerWithdraw j).Shows r := by
  unfold Desk.offerWithdraw
  dsimp only
  split <;> exact h

theorem shows_fold {α : Type} {f : Desk → α → Desk} (hf : ∀ (x : Desk) a, x.Shows r → (f x a).Shows r)
    (l : List α) (h : d.Shows r) : (l.foldl f d).Shows r := by
  induction l generalizing d with
  | nil => exact h
  | cons a l ih => exact ih (hf d a h)

theorem shows_retry (hr : r.kind = 0x82) (h : d.Shows r) : (d.retry fc).Shows r := by
  unfold Desk.retry
  exact shows_fold (f := fun x i => x.tryStart fc i) (fun _ _ => shows_tryStart hr) allSlots
    (shows_fold (f := fun x i => x.offerWithdraw i) (fun _ _ => shows_offerWithdraw) allSlots h)

/-! ## The end of a cue and its report (R143, R146) -/

theorem hp_arm (p : Option Slot) (q : Bool) : (d.arm fc b j p q).hp = d.hp := by
  unfold Desk.arm Desk.testStart
  dsimp only
  split <;> rfl

theorem hp_armSuccessor (p : Slot) (next : Option Slot) (q : Bool) : (d.armSuccessor fc b p next q).hp = d.hp := by
  unfold Desk.armSuccessor
  split
  · rfl
  · split
    · exact hp_arm _ _
    · rfl
    · rfl

theorem hp_succeedNow : (d.succeedNow fc j).hp = d.hp := by
  unfold Desk.succeedNow Desk.succeed
  dsimp only
  split
  · split
    · rfl
    · split
      · split
        · rfl
        · exact hp_armSuccessor _ _ _
      · rfl
  · rfl

theorem hp_endForChain : (d.endForChain j).hp = d.hp := by
  unfold Desk.endForChain
  split <;> rfl

/-- CUE(ENDED) of a cue that asks for it. -/
theorem shows_ended (hu : d.Unawaited i) (hn : (d.slot i).cue.notifyEnd = true) (he : d.hp.reports = []) :
    (d.ended fc i).Shows (.cue i (d.slot i).chain .ended fc (d.slot i).reportE) := by
  have told : (d.tellEnded fc i).Shows (.cue i (d.slot i).chain .ended fc (d.slot i).reportE) := by
    rw [Desk.tellEnded, if_pos hn]
    exact shows_posted he
  rw [ended_unawaited hu]
  split <;> exact told

theorem failed_unawaited (hu : d.Unawaited i) : d.failed fc i = (d.cueReport fc i .failed).unloadRun i :=
  wake_of_unawaited (d := (d.cueReport fc i .failed).unloadRun i) hu

/-- A cue that fails away from a boundary is LOADED again, and CUE(FAILED) is posted. -/
theorem failNow_tells (hl : (d.slot i).st ≠ .loaded) (hu : d.Unawaited i) (hn : (d.slot i).cue.next ≠ some i)
    (he : d.hp.reports = []) : (d.failNow fc i).slot i = CueSlot.idle .loaded (d.slot i).cue ∧
      (d.failNow fc i).Shows (.cue i (d.slot i).chain .failed fc (d.slot i).reportE) := by
  obtain ⟨b, done, hs⟩ := slot_succeedNow_endForChain (fc := fc) hl
  have unawaited := unawaited_succession (fc := fc) hu hn
  have empty : ((d.endForChain i).succeedNow fc i).hp.reports = [] := by
    rw [hp_succeedNow, hp_endForChain]
    exact he
  rw [Desk.failNow, slot_checkChainOf, failed_unawaited unawaited]
  refine ⟨?_, shows_checkChainOf rfl ?_ _⟩
  · rw [Desk.unloadRun, slot_modSlot_self, slot_cueReport, hs]
  · have same : (((d.endForChain i).succeedNow fc i).slot i).chain = (d.slot i).chain ∧
        (((d.endForChain i).succeedNow fc i).slot i).reportE = (d.slot i).reportE := by
      rw [hs]
      exact ⟨rfl, rfl⟩
    rw [← same.1, ← same.2]
    exact shows_posted empty

/-- A cue that ends away from a boundary posts CUE(ENDED) if it asks for it. -/
theorem shows_endNow (hl : (d.slot i).st ≠ .loaded) (hu : d.Unawaited i) (hn : (d.slot i).cue.next ≠ some i)
    (ht : (d.slot i).cue.notifyEnd = true) (he : d.hp.reports = []) :
    (d.endNow fc i).Shows (.cue i (d.slot i).chain .ended fc (d.slot i).reportE) := by
  obtain ⟨b, done, hs⟩ := slot_succeedNow_endForChain (fc := fc) hl
  have empty : ((d.endForChain i).succeedNow fc i).hp.reports = [] := by
    rw [hp_succeedNow, hp_endForChain]
    exact he
  have same : (((d.endForChain i).succeedNow fc i).slot i).chain = (d.slot i).chain ∧
      (((d.endForChain i).succeedNow fc i).slot i).reportE = (d.slot i).reportE := by
    rw [hs]
    exact ⟨rfl, rfl⟩
  rw [← same.1, ← same.2]
  refine shows_checkChainOf rfl (shows_ended (unawaited_succession hu hn) ?_ empty) _
  rw [hs]
  exact ht

/-- A WITHDRAW that is done ends its cue. -/
theorem withdrawDone_of_ending (hst : (d.slot i).st = .ending) :
    d.withdrawDone fc i = (d.ended fc i).checkChainOf fc (d.slot i).chain := if_pos hst

theorem slot_withdrawDone (hst : (d.slot i).st = .ending) (hu : d.Unawaited i) :
    (d.withdrawDone fc i).slot i = (d.slot i).over := by
  rw [withdrawDone_of_ending hst, slot_checkChainOf, slot_ended_self hu]

theorem shows_withdrawDone (hst : (d.slot i).st = .ending) (hu : d.Unawaited i) (hn : (d.slot i).cue.notifyEnd = true)
    (he : d.hp.reports = []) : (d.withdrawDone fc i).Shows (.cue i (d.slot i).chain .ended fc (d.slot i).reportE) := by
  rw [withdrawDone_of_ending hst]
  exact shows_checkChainOf rfl (shows_ended hu hn he) _

theorem reportE_of_claim {x : CueSlot} {q : Claim} (h : x.claim = some q) : x.reportE = q.e := by
  rw [CueSlot.reportE, h]
  rfl

theorem still_over (x : CueSlot) : x.over.Still := by
  rcases st_over x with h | h
  all_goals
    refine ⟨?_, CueSlot.offered_of_ne ?_⟩
    all_goals
      rw [h]
      exact nofun

/-! ## The outcome of an own frame of the Cue Engine (R106, R108) -/

variable {e : TxEntry} {rest : List TxEntry} {a : Attempt}

theorem Cbi.Beside.line (h : c.Beside c') : c'.line = c.line := by
  unfold Cbi.Beside at h
  rw [h]

theorem Cbi.Beside.attempt (h : c.Beside c') : c'.attempt = c.attempt := by
  unfold Cbi.Beside at h
  rw [h]

theorem Cbi.Beside.abandoned (h : c.Beside c') : c'.abandoned = c.abandoned := by
  unfold Cbi.Beside at h
  rw [h]

/-- The desk when a flying frame has left the head of the queue. -/
def Desk.without (fc : FieldCount) (e : TxEntry) (rest : List TxEntry) (d : Desk) : Desk :=
  (d.withCbi (fun c => { c with txq := rest })).itemLeft fc e.marked

theorem cbi_without : (d.without fc e rest).cbi = { d.cbi with txq := rest } := cbi_itemLeft _
theorem slot_without : (d.without fc e rest).slot i = d.slot i := slot_itemLeft _

theorem without_unmarked (hm : e.marked = false) : d.without fc e rest = d.withCbi (fun c => { c with txq := rest }) := by
  rw [Desk.without, hm]
  rfl

theorem unawaited_without (h : d.Unawaited i) : (d.without fc e rest).Unawaited i := by
  intro c w hw
  rw [Desk.without, chain_itemLeft] at hw
  exact h c w hw

theorem attemptSent_of_queued (hl : d.cbi.line = .sending) (ha : d.cbi.attempt = some a)
    (hb : ∀ b, a.contents ≠ .beacon b) (hq : d.cbi.txq = e :: rest) (he : e.stage = .inFlight)
    (hw : ∀ x ∈ rest, x.stage = .waiting) :
    d.attemptSent fc = (d.without fc e rest).tellSent fc e a.contents := by
  have flying : e.stage ≠ .waiting := by
    rw [he]
    exact nofun
  have flies : ({ d.cbi with txq := rest } : Cbi).queueFlies = true := queueFlies_of_queued hl ha hb
  rw [attemptSent_of_head ha hb hq he, Desk.leaveQueue, Desk.without]
  unfold Desk.withCbi
  rw [dropActive_of_head hq flying hw, settleLock_of_flying flies]

/-- The interface after the last end cell of a frame that has left the queue. -/
def Cbi.left (c : Cbi) : Cbi := { c.leaveFrame with passLock := if c.txq = [] then false else c.passLock }

theorem line_left (y : Desk) : (y.withCbi Cbi.left).cbi.line = .wait := rfl
theorem attempt_left (y : Desk) : (y.withCbi Cbi.left).cbi.attempt = none := rfl
theorem txq_left (y : Desk) : (y.withCbi Cbi.left).cbi.txq = y.cbi.txq := rfl
theorem abandoned_left (y : Desk) : (y.withCbi Cbi.left).cbi.abandoned = y.cbi.abandoned := rfl

/-- A frame of the queue succeeds: its owner is told, and the line is left. -/
theorem succeedAttempt_of_queued {y : Desk} (hl : d.cbi.line = .sending) (ha : d.cbi.attempt = some a)
    (hb : ∀ b, a.contents ≠ .beacon b) (hq : d.cbi.txq = e :: rest) (he : e.stage = .inFlight)
    (hw : ∀ x ∈ rest, x.stage = .waiting) (hy : (d.without fc e rest).tellSent fc e a.contents = y)
    (beside : (d.without fc e rest).cbi.Beside y.cbi) (waits : y.cbi.AllWait) :
    d.succeedAttempt fc = y.withCbi Cbi.left := by
  have line : y.cbi.line = .sending := by
    rw [beside.line, cbi_without]
    exact hl
  have attempt : y.cbi.attempt = some a := by
    rw [beside.attempt, cbi_without]
    exact ha
  rw [succeedAttempt_of_sending hl, attemptSent_of_queued hl ha hb hq he hw, hy]
  exact endOwnFrame_of_gone line (queueFlies_of_queued line attempt hb) waits

theorem tells_of_cueEngine (ho : e.owner = .cueEngine) (hs : e.silent = false) : e.tells = true := by
  rw [TxEntry.tells, ho, hs]
  rfl

theorem tellSent_claim {q : Claim} {r : Bool} (ht : e.tells = true) (hw : e.what = .claim i) :
    d.tellSent fc e (.claim q r) = (d.claimSent fc i q).retry fc := by
  unfold Desk.tellSent
  rw [if_pos ht, hw]

theorem tellSent_withdraw {f : FrameContents} (ht : e.tells = true) (hw : e.what = .withdraw i) :
    d.tellSent fc e f = (d.withdrawDone fc i).retry fc := by
  unfold Desk.tellSent
  rw [if_pos ht, hw]

theorem tellAbandoned_claim (ht : e.tells = true) (hw : e.what = .claim i) :
    d.tellAbandoned fc e = (d.claimAbandoned fc i).retry fc := by
  unfold Desk.tellAbandoned
  rw [if_pos ht, hw]

theorem tellAbandoned_withdraw (ht : e.tells = true) (hw : e.what = .withdraw i) :
    d.tellAbandoned fc e = (d.withdrawDone fc i).retry fc := by
  unfold Desk.tellAbandoned
  rw [if_pos ht, hw]

theorem beside_settleLock (c : Cbi) : c.Beside c.settleLock := Cbi.Beside.settle c.txq

theorem abandoned_settleLock (c : Cbi) : c.settleLock.abandoned = c.abandoned := by
  unfold Cbi.settleLock
  split <;> rfl

/-- The interface when a flying frame is abandoned. -/
def Cbi.abandons (rest : List TxEntry) (c : Cbi) : Cbi := { c with txq := rest }.settleLock.countAbandoned

theorem abandoned_abandons (rest : List TxEntry) (c : Cbi) : (c.abandons rest).abandoned = c.abandoned.inc := by
  change (Cbi.settleLock _).abandoned.inc = _
  rw [abandoned_settleLock]

theorem txq_abandons (rest : List TxEntry) (c : Cbi) : (c.abandons rest).txq = rest := by
  change (Cbi.settleLock _).txq = _
  rw [txq_settleLock]

theorem abandons_of_flying (h : c.queueFlies = true) (rest : List TxEntry) :
    c.abandons rest = { c with txq := rest, abandoned := c.abandoned.inc } := by
  have flies : ({ c with txq := rest } : Cbi).queueFlies = true := h
  unfold Cbi.abandons
  rw [settleLock_of_flying flies]
  rfl

/-- A frame abandoned after a collision: its owner is told of it. -/
theorem failAttempt_collided (hl : d.cbi.line = .sending) (ha : d.cbi.attempt = some a)
    (hb : ∀ b, a.contents ≠ .beacon b) (hq : d.cbi.txq = e :: rest) (he : e.stage = .inFlight)
    (hw : ∀ x ∈ rest, x.stage = .waiting) (hs : e.silent = false) (hd : e.doomed = false) (hn : e.attempts = 3)
    (hm : e.marked = false) : d.failAttempt fc true =
      ((d.withCbi (fun c => c.stopDriving.abandons rest)).tellAbandoned fc e).withCbi Cbi.settleLock := by
  rw [Desk.failAttempt, if_pos hl, if_pos rfl, Desk.collide, ha, countFailure_of_queued hb,
    failEntry_abandons (d := d.withCbi Cbi.stopDriving) hq he hw hs hd hn hm]
  rfl

/-- A frame abandoned after an objection: its owner is told of it, and the line is left. -/
theorem failAttempt_refused (hl : d.cbi.line = .sending) (ha : d.cbi.attempt = some a)
    (hb : ∀ b, a.contents ≠ .beacon b) (hq : d.cbi.txq = e :: rest) (he : e.stage = .inFlight)
    (hw : ∀ x ∈ rest, x.stage = .waiting) (hs : e.silent = false) (hd : e.doomed = false) (hn : e.attempts = 3)
    (hm : e.marked = false) {y : Desk}
    (hy : (d.withCbi (fun c => Cbi.abandons rest { c with objected := false })).tellAbandoned fc e = y)
    (beside : Cbi.Beside (Cbi.abandons rest { d.cbi with objected := false }) y.cbi) (waits : y.cbi.AllWait) :
    d.failAttempt fc false = (y.withCbi Cbi.settleLock).withCbi (fun c =>
      { c.leaveFrame with passLock := if c.txq = [] then false else c.passLock }) := by
  have flies : ({ d.cbi with objected := false } : Cbi).queueFlies = true := queueFlies_of_queued hl ha hb
  rw [abandons_of_flying flies] at beside
  have settled := beside.trans (beside_settleLock y.cbi)
  have line : y.cbi.settleLock.line = .sending := settled.line.trans hl
  have attempt : y.cbi.settleLock.attempt = some a := settled.attempt.trans ha
  have eq : d.failAttempt fc false = (y.withCbi Cbi.settleLock).endOwnFrame fc := by
    rw [Desk.failAttempt, if_pos hl, if_neg Bool.false_ne_true, Desk.attemptObjected, ha, countFailure_of_queued hb,
      failEntry_abandons (d := d.withCbi (fun c => { c with objected := false })) hq he hw hs hd hn hm, ← hy]
    rfl
  rw [eq]
  refine endOwnFrame_of_gone (d := y.withCbi Cbi.settleLock) line (queueFlies_of_queued line attempt hb) ?_
  intro x hx
  rw [show (y.withCbi Cbi.settleLock).cbi.txq = y.cbi.txq from txq_settleLock _] at hx
  exact waits x hx

/-- A frame abandoned: its owner is told of it, between changes of the interface that count it and leave the line. -/
theorem failAttempt_abandoned (hl : d.cbi.line = .sending) (ha : d.cbi.attempt = some a)
    (hb : ∀ b, a.contents ≠ .beacon b) (hq : d.cbi.txq = e :: rest) (he : e.stage = .inFlight)
    (hw : ∀ x ∈ rest, x.stage = .waiting) (hs : e.silent = false) (hd : e.doomed = false) (hn : e.attempts = 3)
    (hm : e.marked = false) (collision : Bool)
    (told : ∀ f : Cbi → Cbi, (f d.cbi).AllWait → (f d.cbi).Beside ((d.withCbi f).tellAbandoned fc e).cbi ∧
      ((d.withCbi f).tellAbandoned fc e).cbi.AllWait) :
    ∃ f g : Cbi → Cbi, d.failAttempt fc collision = ((d.withCbi f).tellAbandoned fc e).withCbi g ∧
      ((d.withCbi f).tellAbandoned fc e |>.withCbi g).cbi.abandoned = d.cbi.abandoned.inc := by
  cases collision with
  | true =>
    have waits : Cbi.AllWait (d.cbi.stopDriving.abandons rest) := by
      intro x hx
      rw [txq_abandons] at hx
      exact hw x hx
    refine ⟨fun c => c.stopDriving.abandons rest, Cbi.settleLock, failAttempt_collided hl ha hb hq he hw hs hd hn hm, ?_⟩
    have counted := (told (fun c => c.stopDriving.abandons rest) waits).1.abandoned
    exact (abandoned_settleLock _).trans (counted.trans (abandoned_abandons rest _))
  | false =>
    have waits : Cbi.AllWait (Cbi.abandons rest { d.cbi with objected := false }) := by
      intro x hx
      rw [txq_abandons] at hx
      exact hw x hx
    obtain ⟨beside, waits'⟩ := told (fun c => Cbi.abandons rest { c with objected := false }) waits
    refine ⟨fun c => Cbi.abandons rest { c with objected := false }, fun c => { c.settleLock.leaveFrame with
      passLock := if c.settleLock.txq = [] then false else c.settleLock.passLock },
      failAttempt_refused hl ha hb hq he hw hs hd hn hm rfl beside waits', ?_⟩
    exact (abandoned_settleLock _).trans (beside.abandoned.trans (abandoned_abandons rest _))

/-! ### What the owner does -/

theorem claimSent_scheduled {q : Claim} (hst : (d.slot i).st = .claiming) (he : (d.slot i).endAfter = false)
    (hd : (d.slot i).dropAfter = false) :
    d.claimSent fc i q = d.modSlot i (fun y => { y with st := .scheduled, claim := some q }) := by
  simp [Desk.claimSent, hst, he, hd]

theorem claimSent_dropped {q : Claim} (hst : (d.slot i).st = .claiming) (hd : (d.slot i).dropAfter = true) :
    d.claimSent fc i q = (d.modSlot i (fun y => { y with claim := some q })).endNow fc i := by
  simp [Desk.claimSent, hst, hd]

theorem claimSent_ends {q : Claim} (hst : (d.slot i).st = .claiming) (he : (d.slot i).endAfter = true)
    (hd : (d.slot i).dropAfter = false) : d.claimSent fc i q =
      ((((d.modSlot i (fun y => { y with st := .ending, claim := some q, wdQueued := false })).offerWithdraw i).endForChain
        i).succeedNow fc i).checkChainOf fc (d.slot i).chain := by
  simp [Desk.claimSent, hst, he, hd]

theorem offerWithdraw_taken (hst : (d.slot i).st = .ending) (hw : (d.slot i).wdQueued = false)
    (hr : d.cbi.txq.length < 8) : d.offerWithdraw i =
      (d.withCbi (Cbi.enqueueWithdraw i .cueEngine)).modSlot i (fun y => { y with wdQueued := true }) :=
  if_pos ⟨hst, hw, hasRoom_of_lt hr⟩

/-- The CLAIM of a cue that is to end was sent: the cue is ENDING, its WITHDRAW queued. -/
theorem claimSent_withdraws {q : Claim} (hst : (d.slot i).st = .claiming) (he : (d.slot i).endAfter = true)
    (hd : (d.slot i).dropAfter = false) (hr : d.cbi.txq.length < 8) :
    (d.claimSent fc i q).cbi = d.cbi.enqueueWithdraw i .cueEngine ∧ ∃ b done, (d.claimSent fc i q).slot i =
      { d.slot i with st := .ending, claim := some q, wdQueued := true, predEnded := b, succDone := done } := by
  have eq := claimSent_ends (fc := fc) (q := q) hst he hd
  rw [offerWithdraw_taken (by rw [slot_modSlot_self]) (by rw [slot_modSlot_self]) (by exact hr)] at eq
  generalize hz : Desk.modSlot i _ (Desk.withCbi _ _) = z at eq
  have slot : z.slot i = { d.slot i with st := .ending, claim := some q, wdQueued := true } := by
    rw [← hz, slot_modSlot_self, slot_withCbi, slot_modSlot_self]
  have cbi : z.cbi = d.cbi.enqueueWithdraw i .cueEngine := by
    rw [← hz]
    rfl
  obtain ⟨b, done, hs⟩ := slot_succeedNow_endForChain (d := z) (i := i) (fc := fc) (by rw [slot]; exact nofun)
  refine ⟨?_, b, done, ?_⟩
  · rw [eq, cbi_checkChainOf, cbi_succeedNow, cbi_endForChain, cbi]
  · rw [eq, slot_checkChainOf, hs, slot]

/-- The owner acts, and held cues and frames are tried again. -/
theorem succeedAttempt_told {w : Desk} (hl : d.cbi.line = .sending) (ha : d.cbi.attempt = some a)
    (hb : ∀ b, a.contents ≠ .beacon b) (hq : d.cbi.txq = e :: rest) (he : e.stage = .inFlight)
    (hw : ∀ x ∈ rest, x.stage = .waiting) (told : (d.without fc e rest).tellSent fc e a.contents = w.retry fc)
    (beside : (d.without fc e rest).cbi.Beside w.cbi) (waits : w.cbi.AllWait) :
    d.succeedAttempt fc = (w.retry fc).withCbi Cbi.left :=
  succeedAttempt_of_queued hl ha hb hq he hw told (beside.trans Cbi.Beside.retry) (allWait_retry waits)

theorem allWait_without (hw : ∀ x ∈ rest, x.stage = .waiting) : (d.without fc e rest).cbi.AllWait := by
  rw [cbi_without]
  exact hw

theorem shows_withCbi {f : Cbi → Cbi} (h : d.Shows r) : (d.withCbi f).Shows r := h

theorem not_beacon_of_claim {q : Claim} {r : Bool} (hc : a.contents = .claim q r) (b : Beacon) : a.contents ≠ .beacon b := by
  rw [hc]
  exact nofun

end

/-! ### An own CLAIM is sent -/

section
variable {s : State} {a : Attempt} {q : Claim} {e : TxEntry} {rest : List TxEntry} {i : Slot}

/-- A frame of the Cue Engine is in flight. -/
structure State.Flies (i : Slot) (a : Attempt) (e : TxEntry) (rest : List TxEntry) (s : State) : Prop where
  released : s.resetHeld = false
  line : s.desk.cbi.line = .sending
  attempt : s.desk.cbi.attempt = some a
  plain : ∀ b, a.contents ≠ .beacon b
  queue : s.desk.cbi.txq = e :: rest
  stage : e.stage = .inFlight
  waits : ∀ x ∈ rest, x.stage = .waiting
  owner : e.owner = .cueEngine
  heard : e.silent = false

theorem State.Flies.tells (h : s.Flies i a e rest) : e.tells = true := tells_of_cueEngine h.owner h.heard

/-- The desk after an own frame of the Cue Engine is sent. -/
theorem State.Flies.sent {w : Desk} (h : s.Flies i a e rest)
    (told : (s.desk.without s.fc e rest).tellSent s.fc e a.contents = w.retry s.fc)
    (beside : (s.desk.without s.fc e rest).cbi.Beside w.cbi) (waits : w.cbi.AllWait) :
    s.desk.succeedAttempt s.fc = (w.retry s.fc).withCbi Cbi.left :=
  succeedAttempt_told h.line h.attempt h.plain h.queue h.stage h.waits told beside waits

/-- A cue that is on its way: SCHEDULED with the claim that was sent. -/
theorem completes_scheduled (h : s.Flies i a e rest) (hc : a.contents = .claim q false) (hwhat : e.what = .claim i)
    (hst : (s.desk.slot i).st = .claiming) (hend : (s.desk.slot i).endAfter = false)
    (hdrop : (s.desk.slot i).dropAfter = false) :
    Completes .attemptSucceeded s (fun t =>
      t.desk.cbi.line = .wait ∧ t.desk.cbi.attempt = none ∧ rest.Sublist t.desk.cbi.txq ∧
      (∀ x ∈ t.desk.cbi.txq, x.stage = .waiting ∧
        (x ∈ rest ∨ (x = TxEntry.fresh x.what .cueEngine ∧ x.what.concerns i = false))) ∧
      t.desk.slot i = { s.desk.slot i with st := .scheduled, claim := some q } ∧ t.time = s.time ∧
      t.desk.pt = s.desk.pt ∧ t.desk.sb = s.desk.sb ∧ t.desk.ky = s.desk.ky) := by
  have acts : (s.desk.without s.fc e rest).claimSent s.fc i q =
      (s.desk.without s.fc e rest).modSlot i (fun y => { y with st := .scheduled, claim := some q }) :=
    claimSent_scheduled (by rw [slot_without]; exact hst) (by rw [slot_without]; exact hend)
      (by rw [slot_without]; exact hdrop)
  generalize hwd : (s.desk.without s.fc e rest).modSlot i (fun y => { y with st := .scheduled, claim := some q }) = w at acts
  have told : (s.desk.without s.fc e rest).tellSent s.fc e a.contents = w.retry s.fc := by
    rw [hc, tellSent_claim h.tells hwhat, acts]
  have cbi : w.cbi = (s.desk.without s.fc e rest).cbi := by
    rw [← hwd]
    rfl
  have slot : w.slot i = { s.desk.slot i with st := .scheduled, claim := some q } := by
    rw [← hwd, slot_modSlot_self, slot_without]
  have waits : w.cbi.AllWait := cbi ▸ allWait_without h.waits
  have eq := h.sent told (Cbi.Beside.of_eq cbi) waits
  have still : (w.slot i).Still := by
    rw [slot]
    exact ⟨nofun, CueSlot.offered_of_ne nofun⟩
  obtain ⟨⟨sub, grown⟩, same⟩ := still_retry (fc := s.fc) still
  rw [cbi, cbi_without] at sub grown
  have work : Desk.Work true s.desk (s.desk.succeedAttempt s.fc) := Desk.Work.succeedAttempt
  have desk : (s.withDesk (s.desk.succeedAttempt s.fc)).desk = s.desk.succeedAttempt s.fc := rfl
  refine ⟨_, exec_attemptSucceeded h.released, ?_, ?_, ?_, fun x hx => ?_, ?_, rfl, work.leaves.pt, work.leaves.sb,
    work.leaves.ky⟩
  · rw [desk, eq, line_left]
  · rw [desk, eq, attempt_left]
  · rw [desk, eq, txq_left]
    exact sub
  · rw [desk, eq, txq_left] at hx
    exact ⟨allWait_retry waits x hx, grown x hx⟩
  · rw [desk, eq, slot_withCbi, same, slot]

/-- A cue that is to end: ENDING with the claim that was sent, its WITHDRAW queued. -/
theorem completes_ending (h : s.Flies i a e rest) (hc : a.contents = .claim q false) (hwhat : e.what = .claim i)
    (hst : (s.desk.slot i).st = .claiming) (hend : (s.desk.slot i).endAfter = true)
    (hdrop : (s.desk.slot i).dropAfter = false) (hroom : rest.length < 8) :
    Completes .attemptSucceeded s (fun t =>
      (t.desk.slot i).st = .ending ∧ (t.desk.slot i).claim = some q ∧ (t.desk.slot i).wdQueued = true ∧
      (∃ w ∈ t.desk.cbi.txq, w.what = .withdraw i) ∧ t.time = s.time ∧ t.desk.pt = s.desk.pt) := by
  obtain ⟨cbi, b, done, slot⟩ := claimSent_withdraws (d := s.desk.without s.fc e rest) (fc := s.fc) (q := q)
    (by rw [slot_without]; exact hst) (by rw [slot_without]; exact hend) (by rw [slot_without]; exact hdrop)
    (by rw [cbi_without]; exact hroom)
  have told : (s.desk.without s.fc e rest).tellSent s.fc e a.contents =
      ((s.desk.without s.fc e rest).claimSent s.fc i q).retry s.fc := by
    rw [hc, tellSent_claim h.tells hwhat]
  generalize (s.desk.without s.fc e rest).claimSent s.fc i q = w at cbi slot told
  have waits : w.cbi.AllWait := by
    rw [cbi]
    exact allWait_enqueueWithdraw (allWait_without h.waits)
  have beside : (s.desk.without s.fc e rest).cbi.Beside w.cbi := by
    rw [cbi]
    exact Cbi.Beside.enqueueWithdraw
  have eq := h.sent told beside waits
  have still : (w.slot i).Still := by
    rw [slot]
    exact ⟨nofun, fun _ => rfl⟩
  have same := (still_retry (fc := s.fc) still).2
  have queued : TxEntry.fresh (.withdraw i) .cueEngine ∈ (w.retry s.fc).cbi.txq :=
    mem_retry (by rw [cbi]; exact mem_enqueueWithdraw.mpr (.inl rfl))
  have work : Desk.Work true s.desk (s.desk.succeedAttempt s.fc) := Desk.Work.succeedAttempt
  have desk : (s.withDesk (s.desk.succeedAttempt s.fc)).desk = s.desk.succeedAttempt s.fc := rfl
  have after : (s.withDesk (s.desk.succeedAttempt s.fc)).desk.slot i = w.slot i := by
    rw [desk, eq, slot_withCbi, same]
  refine ⟨_, exec_attemptSucceeded h.released, ?_, ?_, ?_, ?_, rfl, work.leaves.pt⟩
  · rw [after, slot]
  · rw [after, slot]
  · rw [after, slot]
  · refine ⟨TxEntry.fresh (.withdraw i) .cueEngine, ?_, rfl⟩
    rw [desk, eq, txq_left]
    exact queued

/-- An owner that ends its cue for good: what of it is left when the frame is over. -/
theorem State.Flies.over {w : Desk} {x : CueSlot} (h : s.Flies i a e rest)
    (told : (s.desk.without s.fc e rest).tellSent s.fc e a.contents = w.retry s.fc)
    (cbi : w.cbi = (s.desk.without s.fc e rest).cbi) (slot : w.slot i = x.over) :
    (s.desk.succeedAttempt s.fc).slot i = x.over ∧
      (s.desk.succeedAttempt s.fc).cbi.abandoned = s.desk.cbi.abandoned ∧
      ∀ r : Report, r.kind = 0x82 → w.Shows r → (s.desk.succeedAttempt s.fc).Shows r := by
  have waits : w.cbi.AllWait := cbi ▸ allWait_without h.waits
  have same := (still_retry (d := w) (i := i) (fc := s.fc) (by rw [slot]; exact still_over x)).2
  have beside : w.cbi.Beside (w.retry s.fc).cbi := Cbi.Beside.retry
  rw [h.sent told (Cbi.Beside.of_eq cbi) waits, slot_withCbi, same, slot, abandoned_left, beside.abandoned, cbi, cbi_without]
  exact ⟨rfl, rfl, fun r hr hw => shows_withCbi (shows_retry hr hw)⟩

/-- A cue that CLEAR_ALL stopped is over, and CUE(ENDED) carries the E that was sent. -/
theorem completes_dropped (h : s.Flies i a e rest) (hc : a.contents = .claim q false) (hwhat : e.what = .claim i)
    (hst : (s.desk.slot i).st = .claiming) (hdrop : (s.desk.slot i).dropAfter = true)
    (htell : (s.desk.slot i).cue.notifyEnd = true) (hm : e.marked = false) (hr : s.desk.hp.reports = [])
    (hn : (s.desk.slot i).cue.next ≠ some i) (hu : s.desk.Unawaited i) :
    Completes .attemptSucceeded s (fun t => t.desk.slot i = (s.desk.slot i).over ∧
      t.desk.Shows (.cue i (s.desk.slot i).chain .ended s.fc q.e) ∧ t.time = s.time ∧ t.desk.pt = s.desk.pt) := by
  have bare := without_unmarked (d := s.desk) (fc := s.fc) (rest := rest) hm
  have told : (s.desk.without s.fc e rest).tellSent s.fc e a.contents =
      ((s.desk.without s.fc e rest).claimSent s.fc i q).retry s.fc := by
    rw [hc, tellSent_claim h.tells hwhat]
  have acts : (s.desk.without s.fc e rest).claimSent s.fc i q =
      ((s.desk.without s.fc e rest).modSlot i (fun y => { y with claim := some q })).endNow s.fc i :=
    claimSent_dropped (by rw [slot_without]; exact hst) (by rw [slot_without]; exact hdrop)
  generalize hz : (s.desk.without s.fc e rest).modSlot i (fun y => { y with claim := some q }) = z at acts
  have slot : z.slot i = { s.desk.slot i with claim := some q } := by
    rw [← hz, slot_modSlot_self, slot_without]
  have unawaited : z.Unawaited i := by
    rw [← hz, bare]
    exact hu
  have empty : z.hp.reports = [] := by
    rw [← hz, bare]
    exact hr
  have live : (z.slot i).st ≠ .loaded := by
    rw [slot]
    change (s.desk.slot i).st ≠ _
    rw [hst]
    exact nofun
  have next : (z.slot i).cue.next ≠ some i := by
    rw [slot]
    exact hn
  have gone : (z.endNow s.fc i).slot i = (s.desk.slot i).over := by
    rw [slot_endNow_self live unawaited next, slot]
    exact over_congr rfl
  have cbi : (z.endNow s.fc i).cbi = (s.desk.without s.fc e rest).cbi := by
    rw [cbi_endNow, ← hz]
    rfl
  have shown := shows_endNow (fc := s.fc) live unawaited next (by rw [slot]; exact htell) empty
  rw [slot] at shown
  rw [acts] at told
  obtain ⟨after, -, shows⟩ := h.over told cbi gone
  have work : Desk.Work true s.desk (s.desk.succeedAttempt s.fc) := Desk.Work.succeedAttempt
  exact ⟨_, exec_attemptSucceeded h.released, after, shows _ rfl shown, rfl, work.leaves.pt⟩

/-! ### An own frame is abandoned, or a WITHDRAW is done -/

/-- A frame is abandoned at its 4th attempt: its owner acts, and held cues and frames are tried again. -/
theorem State.Flies.abandoned {p : Prop} {x : CueSlot} {r : Report} (h : s.Flies i a e rest) (hd : e.doomed = false)
    (hm : e.marked = false) (hn : e.attempts = 3) (still : x.Still) (hr : r.kind = 0x82)
    (acts : ∀ f : Cbi → Cbi, ∃ w : Desk, (s.desk.withCbi f).tellAbandoned s.fc e = w.retry s.fc ∧ w.cbi = f s.desk.cbi ∧
      w.slot i = x ∧ (p → w.Shows r)) (collision : Bool) :
    (s.desk.failAttempt s.fc collision).slot i = x ∧ (p → (s.desk.failAttempt s.fc collision).Shows r) ∧
      (s.desk.failAttempt s.fc collision).cbi.abandoned = s.desk.cbi.abandoned.inc := by
  have told (f : Cbi → Cbi) (hw : (f s.desk.cbi).AllWait) :
      (f s.desk.cbi).Beside ((s.desk.withCbi f).tellAbandoned s.fc e).cbi ∧
        ((s.desk.withCbi f).tellAbandoned s.fc e).cbi.AllWait := by
    obtain ⟨w, hw', cbi, -⟩ := acts f
    rw [hw', ← cbi]
    rw [← cbi] at hw
    exact ⟨Cbi.Beside.retry, allWait_retry hw⟩
  obtain ⟨f, g, eq, counted⟩ := failAttempt_abandoned h.line h.attempt h.plain h.queue h.stage h.waits h.heard hd hn hm
    collision told
  obtain ⟨w, hw, -, slot, shown⟩ := acts f
  have same := (still_retry (d := w) (i := i) (fc := s.fc) (by rw [slot]; exact still)).2
  rw [eq]
  refine ⟨?_, fun hp => ?_, counted⟩
  · rw [slot_withCbi, hw, same, slot]
  · rw [hw]
    exact shows_withCbi (shows_retry hr (shown hp))

theorem still_loaded (q : CueRec) : (CueSlot.idle .loaded q).Still := ⟨nofun, CueSlot.offered_of_ne nofun⟩

/-- A CLAIM abandoned: CUE(FAILED), and the slot is LOADED. -/
theorem completes_claim_abandoned (h : s.Flies i a e rest) (hwhat : e.what = .claim i)
    (hst : (s.desk.slot i).st = .claiming) (hcl : (s.desk.slot i).claim = none) (hd : e.doomed = false)
    (hm : e.marked = false) (hn : e.attempts = 3) (hr : s.desk.hp.reports = [])
    (hnext : (s.desk.slot i).cue.next ≠ some i) (hu : s.desk.Unawaited i) (collision : Bool) :
    Completes (.attemptFailed collision) s (fun t => t.desk.slot i = CueSlot.idle .loaded (s.desk.slot i).cue ∧
      t.desk.Shows (.cue i (s.desk.slot i).chain .failed s.fc 0) ∧
      t.desk.cbi.abandoned = s.desk.cbi.abandoned.inc ∧
      t.time = s.time ∧ t.desk.pt = s.desk.pt ∧ t.desk.sb = s.desk.sb ∧ t.desk.ky = s.desk.ky) := by
  have live : (s.desk.slot i).st ≠ .loaded := by
    rw [hst]
    exact nofun
  have noE : (s.desk.slot i).reportE = 0 := by
    rw [CueSlot.reportE, hcl]
    rfl
  have acts (f : Cbi → Cbi) : ∃ w : Desk, (s.desk.withCbi f).tellAbandoned s.fc e = w.retry s.fc ∧
      w.cbi = f s.desk.cbi ∧ w.slot i = CueSlot.idle .loaded (s.desk.slot i).cue ∧
      (True → w.Shows (.cue i (s.desk.slot i).chain .failed s.fc 0)) := by
    obtain ⟨slot, shown⟩ := failNow_tells (d := s.desk.withCbi f) (fc := s.fc) (i := i) live hu hnext hr
    have fails : (s.desk.withCbi f).claimAbandoned s.fc i = (s.desk.withCbi f).failNow s.fc i := if_pos hst
    refine ⟨(s.desk.withCbi f).failNow s.fc i, ?_, cbi_failNow, slot, fun _ => ?_⟩
    · rw [tellAbandoned_claim h.tells hwhat, fails]
    · rw [slot_withCbi, noE] at shown
      exact shown
  obtain ⟨slot, shown, counted⟩ := h.abandoned hd hm hn (still_loaded _) rfl acts collision
  have work : Desk.Work true s.desk (s.desk.failAttempt s.fc collision) := Desk.Work.failAttempt collision
  exact ⟨_, exec_attemptFailed h.released collision, slot, shown trivial, counted, rfl, work.leaves.pt, work.leaves.sb,
    work.leaves.ky⟩

/-- A WITHDRAW sent: its cue is over. -/
theorem completes_withdraw_sent (h : s.Flies i a e rest) (hwhat : e.what = .withdraw i)
    (hst : (s.desk.slot i).st = .ending) (hcl : (s.desk.slot i).claim = some q) (hm : e.marked = false)
    (hr : s.desk.hp.reports = []) (hu : s.desk.Unawaited i) :
    Completes .attemptSucceeded s (fun t => t.desk.slot i = (s.desk.slot i).over ∧
      ((s.desk.slot i).cue.notifyEnd = true → t.desk.Shows (.cue i (s.desk.slot i).chain .ended s.fc q.e)) ∧
      t.desk.cbi.abandoned = s.desk.cbi.abandoned ∧
      t.time = s.time ∧ t.desk.pt = s.desk.pt ∧ t.desk.sb = s.desk.sb ∧ t.desk.ky = s.desk.ky) := by
  have told : (s.desk.without s.fc e rest).tellSent s.fc e a.contents =
      ((s.desk.without s.fc e rest).withdrawDone s.fc i).retry s.fc := tellSent_withdraw h.tells hwhat
  have gone : ((s.desk.without s.fc e rest).withdrawDone s.fc i).slot i = (s.desk.slot i).over := by
    rw [slot_withdrawDone (by rw [slot_without]; exact hst) (unawaited_without hu), slot_without]
  obtain ⟨slot, counted, shows⟩ := h.over told cbi_withdrawDone gone
  have work : Desk.Work true s.desk (s.desk.succeedAttempt s.fc) := Desk.Work.succeedAttempt
  refine ⟨_, exec_attemptSucceeded h.released, slot, fun ht => shows _ rfl ?_, counted, rfl, work.leaves.pt,
    work.leaves.sb, work.leaves.ky⟩
  rw [without_unmarked hm]
  have shown := shows_withdrawDone (d := s.desk.withCbi (fun c => { c with txq := rest })) (fc := s.fc) hst hu ht hr
  rw [slot_withCbi, reportE_of_claim hcl] at shown
  exact shown

/-- A WITHDRAW abandoned: its cue is over too. -/
theorem completes_withdraw_abandoned (h : s.Flies i a e rest) (hwhat : e.what = .withdraw i)
    (hst : (s.desk.slot i).st = .ending) (hcl : (s.desk.slot i).claim = some q) (hd : e.doomed = false)
    (hm : e.marked = false) (hn : e.attempts = 3) (hr : s.desk.hp.reports = []) (hu : s.desk.Unawaited i)
    (collision : Bool) : Completes (.attemptFailed collision) s (fun t => t.desk.slot i = (s.desk.slot i).over ∧
      ((s.desk.slot i).cue.notifyEnd = true → t.desk.Shows (.cue i (s.desk.slot i).chain .ended s.fc q.e)) ∧
      t.desk.cbi.abandoned = s.desk.cbi.abandoned.inc ∧
      t.time = s.time ∧ t.desk.pt = s.desk.pt ∧ t.desk.sb = s.desk.sb ∧ t.desk.ky = s.desk.ky) := by
  have acts (f : Cbi → Cbi) : ∃ w : Desk, (s.desk.withCbi f).tellAbandoned s.fc e = w.retry s.fc ∧
      w.cbi = f s.desk.cbi ∧ w.slot i = (s.desk.slot i).over ∧
      ((s.desk.slot i).cue.notifyEnd = true → w.Shows (.cue i (s.desk.slot i).chain .ended s.fc q.e)) := by
    refine ⟨(s.desk.withCbi f).withdrawDone s.fc i, tellAbandoned_withdraw h.tells hwhat, cbi_withdrawDone,
      slot_withdrawDone (d := s.desk.withCbi f) hst hu, fun ht => ?_⟩
    have shown := shows_withdrawDone (d := s.desk.withCbi f) (fc := s.fc) hst hu ht hr
    rw [slot_withCbi, reportE_of_claim hcl] at shown
    exact shown
  obtain ⟨slot, shown, counted⟩ := h.abandoned hd hm hn (still_over _) rfl acts collision
  have work : Desk.Work true s.desk (s.desk.failAttempt s.fc collision) := Desk.Work.failAttempt collision
  exact ⟨_, exec_attemptFailed h.released collision, slot, shown, counted, rfl, work.leaves.pt, work.leaves.sb,
    work.leaves.ky⟩

/-- Settles O26. -/
theorem cueEngineFramesAndTheirOutcomes : Obligations.CueEngineFramesAndTheirOutcomes := by
  unfold Obligations.CueEngineFramesAndTheirOutcomes
  refine ⟨fun i a q e rest s => ?_, fun i collision a e rest s => ?_, fun fc i q d => ?_⟩
  · intro x hreset hl ha hc hq he hw hwhat ho hs hst
    have flies : s.Flies i a e rest := ⟨hreset, hl, ha, not_beacon_of_claim hc, hq, he, hw, ho, hs⟩
    exact ⟨completes_scheduled flies hc hwhat hst, completes_ending flies hc hwhat hst,
      fun hdrop ht hm hr hn hu => completes_dropped flies hc hwhat hst hdrop ht hm hr hn hu⟩
  · intro x c lost freed kept hreset hl ha hb hq he hw ho hs hd hm hr hu
    have flies : s.Flies i a e rest := ⟨hreset, hl, ha, hb, hq, he, hw, ho, hs⟩
    exact ⟨fun hwhat hst hcl hn h3 => completes_claim_abandoned flies hwhat hst hcl hd hm h3 hr hn hu collision,
      fun q hwhat hst hcl => ⟨completes_withdraw_sent flies hwhat hst hcl hm hr hu,
        fun h3 => completes_withdraw_abandoned flies hwhat hst hcl hd hm h3 hr hu collision⟩⟩
  · intro x t hst hcl hr hu
    refine ⟨slot_withdrawDone hst hu, fun ht => ?_, cbi_withdrawDone⟩
    have shown := shows_withdrawDone (fc := fc) hst hu ht hr
    rw [reportE_of_claim hcl] at shown
    exact shown

end

end Sys2Proof.Machine

namespace Sys2Proof.Machine

/-! ## SHIFT, RECENTRE and HOLD_SLIPS (R62, R92, R95) -/

section
variable {s : State}

theorem exec_shift (hs : s.serves) (amount : BitVec 16) : exec (.shift amount) s = .next (s.shift amount.toInt) :=
  congrArg Host.Outcome.next (request_serves hs (by decide) (by decide) _)

theorem exec_recentre (hs : s.serves) : exec .recentre s = .next s.recentre :=
  congrArg Host.Outcome.next (request_serves hs (by decide) (by decide) _)

theorem exec_holdSlips (hs : s.serves) (n : Byte) : exec (.holdSlips n) s = .next (s.holdSlips n.toNat) :=
  congrArg Host.Outcome.next (request_serves hs (by decide) (by decide) _)

theorem shift_queued (h : s.time.tdu.hostEntries < 3) (amount : Int) :
    s.shift amount = s.onTime (fun t => { t with tdu := t.tdu.placeShift amount }) := if_pos h

theorem shift_full (h : 3 ≤ s.time.tdu.hostEntries) (amount : Int) :
    s.shift amount = s.onDesk (Desk.refuse s.fc 0x0B .queueFull) := if_neg (Nat.not_lt.mpr h)

theorem recentre_queued (hl : s.time.ref.st = .locked) (h : s.time.tdu.hostEntries < 3) :
    s.recentre = s.onTime (fun t => { t with tdu := t.tdu.place .recentre }) := by
  rw [State.recentre, if_pos hl, if_pos h]

theorem recentre_full (hl : s.time.ref.st = .locked) (h : 3 ≤ s.time.tdu.hostEntries) :
    s.recentre = s.onDesk (Desk.refuse s.fc 0x0C .queueFull) := by
  rw [State.recentre, if_pos hl, if_neg (Nat.not_lt.mpr h)]

theorem recentre_latched (hl : s.time.ref.st ≠ .locked) :
    s.recentre = s.onTime (fun t => { t with ref := { t.ref with latch := true } }) := if_neg hl

end

/-! ## The latch (R63) -/

section
variable {t : Timebase} {left : List AdjEntry}

theorem convertLatch_converts (hl : t.ref.latch = true) (h : t.tdu.hostEntries < 3) :
    t.convertLatch = { t with ref := { t.ref with latch := false }, tdu := t.tdu.place .recentre } := if_pos ⟨hl, h⟩

theorem convertLatch_stays (h : t.ref.latch = false ∨ 3 ≤ t.tdu.hostEntries) : t.convertLatch = t := by
  refine if_neg fun ⟨hl, hn⟩ => ?_
  rcases h with h | h
  · exact Bool.false_ne_true (h.symm.trans hl)
  · exact absurd hn (Nat.not_lt.mpr h)

theorem isHost_iff {k : AdjKind} : k.isHost = true ↔ k ≠ .slip := by
  cases k <;> simp [AdjKind.isHost]

theorem any_isHost_iff : left.any (fun e => e.kind.isHost) = true ↔ ∃ e ∈ left, e.kind ≠ .slip := by
  rw [List.any_eq_true]
  exact exists_congr fun e => and_congr_right fun _ => isHost_iff

theorem latchOnLeave_converts (hst : t.ref.st = .locked) (hl : t.ref.latch = true) (he : ∃ e ∈ left, e.kind ≠ .slip)
    (hn : t.tdu.hostEntries < 3) :
    t.latchOnLeave left = { t with ref := { t.ref with latch := false }, tdu := t.tdu.place .recentre } := by
  rw [Timebase.latchOnLeave, if_pos ⟨hst, any_isHost_iff.mpr he⟩, convertLatch_converts hl hn]

theorem latchOnLeave_stays (h : t.ref.st ≠ .locked ∨ t.ref.latch = false ∨ (∀ e ∈ left, e.kind = .slip) ∨
    3 ≤ t.tdu.hostEntries) : t.latchOnLeave left = t := by
  unfold Timebase.latchOnLeave
  split
  next hc =>
    obtain ⟨hst, hany⟩ := hc
    obtain ⟨e, he, hk⟩ := any_isHost_iff.mp hany
    rcases h with h | h | h | h
    · exact absurd hst h
    · exact convertLatch_stays (.inl h)
    · exact absurd (h e he) hk
    · exact convertLatch_stays (.inr h)
  next => rfl

theorem latchOnEntry_locked {tr : Transition} (h : tr.dest = .locked) :
    t.latchOnEntry (some tr) = t.convertLatch := if_pos h

end

/-! ## The line boundary that enters LOCKED (R60, R63) -/

section
variable {s : State} {time : Ts} {sys : System} {tape : Bool} {t : Timebase}

/-- A boundary that newly is in LOCKED makes the transition to it; the latch is not touched by it. -/
theorem closeLine_enters (h : t.ref.st ≠ .locked) (hl : (t.closeLine sys tape time).ref.st = .locked) :
    ∃ tr, (t.closeLine sys tape time).tr = some tr ∧ tr.dest = .locked := by
  cases htr : (t.ref.countLine (t.loop.closeLine sys tape t.ref.st)).transition sys tape time t.ft.fs t.ref.pendingLoss
      (t.loop.closeLine sys tape t.ref.st).loop with
  | none =>
    rw [closeLine_of_stay rfl htr] at hl
    exact absurd (st_countLine.symm.trans hl) h
  | some tr =>
    rw [closeLine_of_move rfl htr] at hl ⊢
    exact ⟨tr, rfl, hl⟩

theorem latch_countLine (x : Ref) (c : Closing) : (x.countLine c).latch = x.latch := by
  unfold Ref.countLine
  split <;> rfl

theorem latch_closeLine (sys : System) (tape : Bool) (time : Ts) (t : Timebase) :
    (t.closeLine sys tape time).ref.latch = t.ref.latch := by
  unfold Timebase.closeLine
  dsimp only
  split
  · exact latch_countLine _ _
  · exact latch_countLine _ _

theorem n_transit (l : Loop) (tr : Transition) : (l.transit tr).n = l.n := by
  unfold Loop.transit
  split <;> rfl

theorem n_timebase_closeLine (sys : System) (tape : Bool) (time : Ts) (t : Timebase) :
    (t.closeLine sys tape time).loop.n = t.loop.n := by
  unfold Timebase.closeLine
  dsimp only
  split
  · exact n_closeLine sys tape t.ref.st t.loop
  · exact (n_transit _ _).trans (n_closeLine sys tape t.ref.st t.loop)

/-- What the slip detector adds to the queue is a SLIP. -/
theorem queue_detectSlip (st : RefSt) (fc : FieldCount) (x : Tdu) :
    ∃ more : List AdjEntry, (∀ e ∈ more, e.kind = .slip) ∧ (x.detectSlip st fc).1.queue = x.queue ++ more := by
  unfold Tdu.detectSlip
  dsimp only
  split
  · refine ⟨[⟨.slip, false⟩], fun e he => ?_, rfl⟩
    rw [List.mem_singleton.mp he]
  · exact ⟨[], nofun, (List.append_nil _).symm⟩

/-- A hand-over at which no application is due only adds a SLIP. -/
theorem queue_handOver_waits {n : Nat} {F c A : Int} {st : RefSt} {fc : FieldCount} {x : Tdu} (hnext : x.applyNext = false)
    (hat : x.applyAt ≠ some n) (hplan : x.plan.line ≠ n) :
    (x.handOver tape n F c A st fc).left = [] ∧ ∃ more : List AdjEntry, (∀ e ∈ more, e.kind = .slip) ∧
      (x.handOver tape n F c A st fc).tdu.queue = x.queue ++ more := by
  have waits : ¬ (x.applyNext = true ∨ x.applyAt = some n ∨ x.plan.line = n) := by
    rintro (h | h | h)
    · exact Bool.false_ne_true (hnext.symm.trans h)
    · exact hat h
    · exact hplan h
  obtain ⟨more, hslip, hq⟩ := queue_detectSlip st fc { x with D := (x.formLines tape n F c A).D }
  rw [handOver_waits waits]
  refine ⟨rfl, more, hslip, ?_⟩
  rw [(detected_eq ..).1]
  exact hq

theorem queue_takeBoundary (n line0 : Nat) (parity : Parity) (mark : Bool) (x : Tdu) :
    (x.takeBoundary sys n line0 parity mark).queue = x.queue := by
  unfold Tdu.takeBoundary
  dsimp only
  split
  · split <;> rfl
  · split <;> rfl

theorem queue_coast (before : Ft) (s : State) : (s.coast before).time.tdu.queue = s.time.tdu.queue := by
  unfold State.coast
  split
  · exact queue_takeBoundary ..
  · rfl

/-- What a line boundary makes of the latch and of the queue: the hand-over's. -/
theorem lineWork_latch (time : Ts) (s : State) :
    (s.lineWork time).time.ref = ((s.closeLine time).1.handOver (s.closeLine time).2.step).1.time.ref ∧
    (s.lineWork time).time.tdu.queue = ((s.closeLine time).1.handOver (s.closeLine time).2.step).1.time.tdu.queue := by
  unfold State.lineWork State.buildList
  dsimp only [State.onDesk]
  generalize ((s.closeLine time).1.handOver (s.closeLine time).2.step).1 = handed
  refine ⟨(coast_loop s.time.ft handed.openLine).2.1, queue_coast s.time.ft handed.openLine⟩

/-- The time half of a hand-over. -/
theorem time_handOver (step : Int) (s : State) :
    (s.handOver step).1.time = { s.time with tdu := (s.time.tdu.handOver s.straps.tape s.time.loop.n s.time.loop.F
      s.time.loop.C step s.time.ref.st s.fc).tdu }.latchOnLeave (s.time.tdu.handOver s.straps.tape s.time.loop.n
        s.time.loop.F s.time.loop.C step s.time.ref.st s.fc).left := rfl

/-- A hand-over at which no application is due leaves the latch, and adds at most a SLIP. -/
theorem handOver_time_waits {step : Int} (hnext : s.time.tdu.applyNext = false) (hat : s.time.tdu.applyAt ≠ some s.time.loop.n)
    (hplan : s.time.tdu.plan.line ≠ s.time.loop.n) : (s.handOver step).1.time.ref = s.time.ref ∧
      ∃ more : List AdjEntry, (∀ e ∈ more, e.kind = .slip) ∧
        (s.handOver step).1.time.tdu.queue = s.time.tdu.queue ++ more := by
  obtain ⟨left, more, hslip, hq⟩ := queue_handOver_waits (tape := s.straps.tape) (F := s.time.loop.F) (c := s.time.loop.C)
    (A := step) (st := s.time.ref.st) (fc := s.fc) hnext hat hplan
  rw [time_handOver, left, latchOnLeave_stays (.inr (.inr (.inl fun e he => absurd he List.not_mem_nil)))]
  exact ⟨rfl, more, hslip, hq⟩

/-- The time half once the line is closed. -/
theorem time_closeLine (time : Ts) (s : State) : (s.closeLine time).1.time =
    { s.time with
      loop := (s.time.closeLine s.sys s.straps.tape time).loop
      ref := (s.time.closeLine s.sys s.straps.tape time).ref }.latchOnEntry
        (s.time.closeLine s.sys s.straps.tape time).tr := rfl

/-- The latch at the boundary that enters LOCKED, before its hand-over. -/
theorem time_closeLine_enters (h : s.time.ref.st ≠ .locked)
    (hl : (s.time.closeLine s.sys s.straps.tape time).ref.st = .locked) : (s.closeLine time).1.time =
      { s.time with
        loop := (s.time.closeLine s.sys s.straps.tape time).loop
        ref := (s.time.closeLine s.sys s.straps.tape time).ref }.convertLatch := by
  obtain ⟨tr, htr, hdest⟩ := closeLine_enters h hl
  rw [time_closeLine, htr, latchOnEntry_locked hdest]

/-- A line boundary that changes anything does its work. -/
theorem works_of_moved {after : State} (h : exec (.lineBoundary time) s = .next after) (hm : after ≠ s) :
    s.lineWork time = after := by
  have run : s.running (State.lineBoundary time) = after := by
    rw [show exec (.lineBoundary time) s = .next (s.running (State.lineBoundary time)) from rfl] at h
    exact Host.Outcome.next.inj h
  cases hr : s.resetHeld with
  | true => exact absurd (run.symm.trans (State.running_of_held hr _)) hm
  | false =>
    rw [State.running_of_released hr, State.lineBoundary] at run
    split at run
    · exact run
    · exact absurd run.symm hm

/-- The latch is converted at the line boundary that enters LOCKED: the second clause of O47. -/
theorem latch_at_entry {after : State} (h : exec (.lineBoundary time) s = .next after) (hst : s.time.ref.st ≠ .locked)
    (hlocked : after.time.ref.st = .locked) (hlatch : s.time.ref.latch = true) (hnext : s.time.tdu.applyNext = false)
    (hat : s.time.tdu.applyAt ≠ some s.time.loop.n) (hplan : s.time.tdu.plan.line ≠ s.time.loop.n) :
    ∃ more : List AdjEntry, (∀ e ∈ more, e.kind = .slip) ∧
      (s.time.tdu.hostEntries < 3 → after.time.ref.latch = false ∧
        after.time.tdu.queue = s.time.tdu.queue ++ ⟨.recentre, false⟩ :: more) ∧
      (3 ≤ s.time.tdu.hostEntries → after.time.ref.latch = true ∧
        after.time.tdu.queue = s.time.tdu.queue ++ more) := by
  obtain rfl := works_of_moved h (fun e => hst (e ▸ hlocked))
  obtain ⟨ref, queue⟩ := lineWork_latch time s
  rw [ref] at hlocked
  rw [ref, queue]
  have closed : (s.time.closeLine s.sys s.straps.tape time).ref.st = .locked := by
    obtain ⟨b, hb⟩ := lineWork_ref time s
    rw [← ref, hb] at hlocked
    exact hlocked
  have entry := time_closeLine_enters hst closed
  have latch := (latch_closeLine s.sys s.straps.tape time s.time).trans hlatch
  have n := n_timebase_closeLine s.sys s.straps.tape time s.time
  generalize hc : s.time.closeLine s.sys s.straps.tape time = c at entry latch n
  generalize (s.closeLine time).2.step = step
  generalize (s.closeLine time).1 = closedLine at entry
  by_cases hn : s.time.tdu.hostEntries < 3
  · rw [convertLatch_converts (t := { s.time with loop := c.loop, ref := c.ref }) latch hn] at entry
    obtain ⟨hr, more, hslip, hq⟩ := handOver_time_waits (s := closedLine) (step := step) (by rw [entry]; exact hnext)
      (by rw [entry]; exact n ▸ hat) (by rw [entry]; exact n ▸ hplan)
    rw [hr, hq, entry]
    exact ⟨more, hslip, fun _ => ⟨rfl, List.append_assoc ..⟩, fun h3 => absurd hn (Nat.not_lt.mpr h3)⟩
  · rw [convertLatch_stays (t := { s.time with loop := c.loop, ref := c.ref }) (.inr (Nat.not_lt.mp hn))] at entry
    obtain ⟨hr, more, hslip, hq⟩ := handOver_time_waits (s := closedLine) (step := step) (by rw [entry]; exact hnext)
      (by rw [entry]; exact n ▸ hat) (by rw [entry]; exact n ▸ hplan)
    rw [hr, hq, entry]
    exact ⟨more, hslip, fun h => absurd h hn, fun _ => ⟨latch, rfl⟩⟩

/-- Settles O47. -/
theorem timingRequestsQueueOrLatch : Obligations.TimingRequestsQueueOrLatch := by
  unfold Obligations.TimingRequestsQueueOrLatch
  refine ⟨fun amount n s => ?_, fun time s t => ?_, fun step s => ?_⟩
  · intro x a on hs
    rw [exec_shift hs, exec_recentre hs, exec_holdSlips hs]
    refine ⟨fun hn => ?_, fun hn => ?_, fun hl hn => ?_, fun hl hn => ?_, fun hl => ?_, rfl⟩
    · rw [shift_queued hn]
      rfl
    · rw [shift_full hn]
      rfl
    · rw [recentre_queued hl hn]
      rfl
    · rw [recentre_full hl hn]
      rfl
    · rw [recentre_latched hl]
      rfl
  · intro x h hst hlocked hlatch hnext hat hplan
    exact latch_at_entry h hst hlocked hlatch hnext hat hplan
  · intro m h t
    have time : t.time = { s.time with tdu := h.tdu }.latchOnLeave h.left := rfl
    refine ⟨fun hst hlatch he hn => ?_, fun hs => ?_⟩
    · rw [time, latchOnLeave_converts (t := { s.time with tdu := h.tdu }) hst hlatch he hn]
      exact ⟨rfl, rfl⟩
    · rw [time, latchOnLeave_stays (t := { s.time with tdu := h.tdu }) hs]
      exact ⟨rfl, rfl⟩

end

end Sys2Proof.Machine

namespace Sys2Proof.Machine

/-! ## The keyable pixels of a line (R161, R162) -/

section
variable {stn : Station} {v : LineVals} {line : Nat} {r : OwnRegion} {sb : Sb} {k : CueKind} {x : Int}

/-- Empty intervals hold no pixel. -/
theorem covered_nonempty (is : List Ivl) : covered x (is.filter Ivl.nonempty) ↔ covered x is := by
  refine exists_congr fun i => ?_
  rw [List.mem_filter, Ivl.nonempty_iff]
  exact ⟨fun ⟨⟨hi, _⟩, hx⟩ => ⟨hi, hx⟩, fun ⟨hi, hx⟩ => ⟨⟨hi, hx.1.trans hx.2⟩, hx⟩⟩

theorem covered_cut (lo hi : Int) (is : List Ivl) :
    covered x (is.map (cutTo lo hi)) ↔ covered x is ∧ lo ≤ x ∧ x ≤ hi := by
  constructor
  · rintro ⟨z, hz, hx⟩
    obtain ⟨i, hi, rfl⟩ := List.mem_map.mp hz
    obtain ⟨hb, hx⟩ := (mem_cutTo lo _ i x).mp hx
    exact ⟨⟨i, hi, hx⟩, hb⟩
  · rintro ⟨⟨i, hi, hx⟩, hb⟩
    exact ⟨_, List.mem_map_of_mem hi, (mem_cutTo lo _ i x).mpr ⟨hb, hx⟩⟩

theorem covered_singleton (i : Ivl) : covered x [i] ↔ i.1 ≤ x ∧ x ≤ i.2 := by
  simp [covered]

/-- The pieces of a region hold the pixels of it that may be keyed. -/
theorem covered_pieces : covered x (sb.pieces stn v line r) ↔ sb.mayKey stn v line x r := by
  unfold Sb.pieces Sb.mayKey
  split
  next hc =>
    obtain ⟨ht, hb⟩ := coversLine_iff.mp hc
    dsimp only
    rw [covered_nonempty, covered_cut, covered_foldl_subtract, covered_nonempty, covered_singleton, mem_cutTo]
    constructor
    · rintro ⟨⟨⟨⟨h0, h1⟩, hl, hr⟩, hout⟩, hclip⟩
      exact ⟨ht, hb, hl, hr, h0, by omega, hclip.1, hclip.2, hout⟩
    · rintro ⟨-, -, hl, hr, h0, h1, hc1, hc2, hout⟩
      exact ⟨⟨⟨⟨h0, by omega⟩, hl, hr⟩, hout⟩, hc1, hc2⟩
  next hc =>
    constructor
    · rintro ⟨i, hi, -⟩
      cases hi
    · rintro ⟨ht, hb, -⟩
      exact absurd (coversLine_iff.mpr ⟨ht, hb⟩) hc

theorem covered_kindPieces : covered x (sb.kindPieces stn v line k) ↔
    ∃ r ∈ sb.own, r.kind = k ∧ sb.mayKey stn v line x r := by
  constructor
  · rintro ⟨z, hz, hx⟩
    obtain ⟨r, hr, hzr⟩ := List.mem_flatMap.mp hz
    obtain ⟨hr, hk⟩ := List.mem_filter.mp hr
    exact ⟨r, hr, beq_iff_eq.mp hk, covered_pieces.mp ⟨z, hzr, hx⟩⟩
  · rintro ⟨r, hr, hk, hm⟩
    obtain ⟨z, hz, hx⟩ := covered_pieces.mpr hm
    exact ⟨z, List.mem_flatMap.mpr ⟨r, List.mem_filter.mpr ⟨hr, beq_iff_eq.mpr hk⟩, hz⟩, hx⟩

/-- The spans of a kind hold the pixels of its runs. -/
theorem span_holds_iff : (∃ w ∈ sb.spans stn v line, w.kind = k ∧ w.left ≤ x ∧ x ≤ w.right) ↔
    covered x (match k with | .fill => sb.fillRuns stn v line | .cutout => sb.cutoutRuns stn v line) := by
  constructor
  · rintro ⟨w, hw, rfl, hx⟩
    rcases Sb.mem_spans.mp hw with ⟨i, hi, rfl⟩ | ⟨i, hi, rfl⟩
    · exact ⟨i, hi, hx⟩
    · exact ⟨i, hi, hx⟩
  · rintro ⟨i, hi, hx⟩
    cases k with
    | fill => exact ⟨_, Sb.mem_spans.mpr (.inl ⟨i, hi, rfl⟩), rfl, hx⟩
    | cutout => exact ⟨_, Sb.mem_spans.mpr (.inr ⟨i, hi, rfl⟩), rfl, hx⟩

theorem covered_fillRuns : covered x (sb.fillRuns stn v line) ↔
    ∃ r ∈ sb.own, r.kind = .fill ∧ sb.mayKey stn v line x r :=
  (covered_unionRuns within_kindPieces x).trans covered_kindPieces

theorem covered_cutoutRuns : covered x (sb.cutoutRuns stn v line) ↔
    (∃ r ∈ sb.own, r.kind = .cutout ∧ sb.mayKey stn v line x r) ∧
    ¬∃ r ∈ sb.own, r.kind = .fill ∧ sb.mayKey stn v line x r := by
  rw [Sb.cutoutRuns, covered_foldl_subtract, covered_unionRuns within_kindPieces, covered_kindPieces, ← covered_fillRuns]
  refine and_congr_right fun _ => ⟨?_, ?_⟩
  · rintro h ⟨i, hi, hx⟩
    exact h i hi hx
  · exact fun h i hi hx => h ⟨i, hi, hx⟩

/-! ## One line's list (R157, R163, R164) -/

theorem tooFar_iff {D : Int} : tooFar D = false ↔ D.natAbs ≤ 8192 * 256 := by
  rw [tooFar, decide_eq_false_iff_not]
  omega

theorem keyableLine_iff {sys : System} {parity : Parity} :
    keyableLine sys parity line = true ↔
      (if sys = .sys625 then 22 else 18) ≤ line ∧ line + 3 ≤ nominalCount sys parity := by
  have first : firstKeyable sys = if sys = .sys625 then 22 else 18 := by
    cases sys <;> rfl
  rw [keyableLine, Bool.and_eq_true, decide_eq_true_iff, decide_eq_true_iff, first]

/-- The list that is built: the 16 leftmost spans of a keyable line near the reference, none elsewhere. -/
theorem build_lists (sys : System) (stn : Station) (v : LineVals) (line : Nat) (slip : Bool) (parity : Parity) (sb : Sb) :
    let key := keyableLine sys parity line
    let keyable := (if sys = .sys625 then 22 else 18) ≤ line ∧ line + 3 ≤ nominalCount sys parity
    let all := sb.spans stn v line
    let shown := keyable ∧ v.D.natAbs ≤ 8192 * 256
    let t := sb.build stn v line key slip parity
    ∃ l, t = { sb with ready := sb.ready ++ [l], overflow := t.overflow } ∧
      l.fieldLine = line ∧ l.D = v.D ∧ l.ppl = v.ppl ∧ l.slip = slip ∧ l.parity = parity ∧
      (l.keyable = true ↔ keyable) ∧
      (shown → l.spans = all.take 16 ∧
        t.overflow = if 16 < all.length then min 255 (sb.overflow + 1) else sb.overflow) ∧
      (¬shown → l.spans = [] ∧ t.overflow = sb.overflow) := by
  intro key keyable all shown t
  refine ⟨⟨(sb.lineSpans stn v line key).take 16, line, v.D, v.ppl, slip, parity, key⟩, rfl, rfl, rfl, rfl, rfl, rfl,
    keyableLine_iff, fun hs => ?_, fun hs => ?_⟩
  · have held : sb.lineSpans stn v line key = all := by
      refine if_pos ?_
      rw [Bool.and_eq_true, Bool.not_eq_true']
      exact ⟨keyableLine_iff.mpr hs.1, tooFar_iff.mpr hs.2⟩
    refine ⟨congrArg (List.take 16) held, ?_⟩
    change (if 16 < (sb.lineSpans stn v line key).length then _ else _) = _
    rw [held]
    rfl
  · have held : sb.lineSpans stn v line key = [] := by
      refine if_neg fun h => hs ?_
      rw [Bool.and_eq_true, Bool.not_eq_true'] at h
      exact ⟨keyableLine_iff.mp h.1, tooFar_iff.mp h.2⟩
    refine ⟨congrArg (List.take 16) held, ?_⟩
    change (if 16 < (sb.lineSpans stn v line key).length then _ else _) = _
    rw [held]
    rfl

end

/-! ## The list that a line boundary builds (R86, R98, R157) -/

section
variable {s : State} {time : Ts}

/-- The values that a line's list is built from. -/
theorem lineVals_eq (t : Timebase) : t.lineVals.F = t.loop.F ∧ t.lineVals.D = t.tdu.D ∧
    (∀ w, t.tdu.newVals = some w → w.line ≤ t.loop.n → t.lineVals.hoff = w.hoff ∧ t.lineVals.ppl = w.ppl) ∧
    ((∀ w, t.tdu.newVals = some w → t.loop.n < w.line) → t.lineVals.hoff = t.tdu.hoff ∧ t.lineVals.ppl = t.tdu.ppl) := by
  refine ⟨rfl, rfl, fun w hw hn => ?_, fun h => ?_⟩
  · change t.tdu.hoffFor t.loop.n = _ ∧ t.tdu.pplFor t.loop.n = _
    rw [Tdu.hoffFor, Tdu.pplFor, hw]
    exact ⟨if_pos hn, if_pos hn⟩
  · change t.tdu.hoffFor t.loop.n = _ ∧ t.tdu.pplFor t.loop.n = _
    unfold Tdu.hoffFor Tdu.pplFor
    cases hw : t.tdu.newVals with
    | none => exact ⟨rfl, rfl⟩
    | some w => exact ⟨if_neg (Nat.not_le.mpr (h w hw)), if_neg (Nat.not_le.mpr (h w hw))⟩

/-- The reports and notices of a closed line leave the Span Builder. -/
theorem sb_handOver_closeLine (time : Ts) (step : Int) (s : State) :
    ((s.closeLine time).1.handOver step).1.desk.sb = s.desk.sb := by
  unfold State.closeLine State.handOver
  dsimp only [State.onTime]
  generalize s.time.closeLine s.sys s.straps.tape time = closed
  generalize Tdu.handOver .. = h
  refine (?_ : Desk.Work false s.desk _).leaves.sb
  exact (((Desk.Work.postAll _).trans (Desk.Work.postAll _)).trans (Desk.Work.itemsLeft _)).trans (Desk.Work.postAll _)

theorem sb_cbiLine (sys : System) (p : Parity) (line : Nat) (d : Desk) : (d.cbiLine sys p line).sb = d.sb := by
  unfold Desk.cbiLine Desk.setDue
  split
  · split <;> rfl
  · split <;> rfl

/-- The list that is built on the values of a state. -/
theorem buildList_eq (inserted : Bool) (s : State) : (s.buildList inserted).time = s.time ∧
    (s.buildList inserted).desk.sb = Sb.build s.straps.stn s.time.lineVals s.time.ft.counter
      (keyableLine s.sys s.time.ft.parity s.time.ft.counter) s.time.tdu.slipField s.time.ft.parity
      (if inserted then s.desk.sb.buildInserted s.time.lineVals s.time.ft.counter s.time.tdu.slipField s.time.ft.parity
        else s.desk.sb) := ⟨rfl, rfl⟩

/-- The list that LINE_BOUNDARY builds: the last clause of O53. -/
theorem lineBoundary_builds (h : s.resetHeld = false) (hfree : s.lineFree = true)
    (hcoast : s.time.ft.coastsNow s.sys s.straps.tape = false) :
    let k := s.closeLine time
    let inserted : Bool := (k.1.handOver k.2.step).2
    Completes (.lineBoundary time) s (fun t =>
      let v := t.time.lineVals
      let line := t.time.ft.counter
      let parity := t.time.ft.parity
      let slip := t.time.tdu.slipField
      let sb := if inserted then { s.desk.sb with ready := s.desk.sb.ready ++ [⟨[], line, v.D, v.ppl, slip, parity, false⟩] }
        else s.desk.sb
      v.F = t.time.loop.F ∧ v.D = t.time.tdu.D ∧
      (∀ w, t.time.tdu.newVals = some w → w.line ≤ t.time.loop.n → v.hoff = w.hoff ∧ v.ppl = w.ppl) ∧
      ((∀ w, t.time.tdu.newVals = some w → t.time.loop.n < w.line) →
        v.hoff = t.time.tdu.hoff ∧ v.ppl = t.time.tdu.ppl) ∧ line = s.time.ft.counter + 1 ∧ parity = s.time.ft.parity ∧
      t.desk.sb = sb.build s.straps.stn v line (keyableLine s.sys parity line) slip parity) := by
  intro k inserted
  have ft := lineWork_ft hcoast time
  have parts := ft_openLine_handOver time s
  have sb : (k.1.handOver k.2.step).1.openLine.desk.sb = s.desk.sb :=
    (sb_cbiLine ..).trans (sb_handOver_closeLine time k.2.step s)
  refine ⟨_, exec_lineBoundary h hfree time, ?_⟩
  obtain ⟨vF, vD, vNew, vOld⟩ := lineVals_eq (s.lineWork time).time
  refine ⟨vF, vD, vNew, vOld, ?_, ?_, ?_⟩
  · rw [ft, stepLine_eq]
  · rw [ft, stepLine_eq]
  · rw [lineWork_of_not_coasting hcoast]
    obtain ⟨-, straps⟩ := parts
    generalize (k.1.handOver k.2.step).1.openLine = o at sb straps
    obtain ⟨time', sb'⟩ := buildList_eq inserted o
    rw [State.sys, straps, sb] at sb'
    rw [time']
    exact sb'

/-- Settles O53. -/
theorem spansAreTheKeyablePixels : Obligations.SpansAreTheKeyablePixels := by
  unfold Obligations.SpansAreTheKeyablePixels
  exact ⟨fun stn v line sb x => ⟨span_holds_iff.trans covered_fillRuns, span_holds_iff.trans covered_cutoutRuns⟩,
    fun _ _ _ _ => sorted_spans, build_lists, fun _ _ h hfree hcoast => lineBoundary_builds h hfree hcoast⟩

end

/-! ## Rounding to pixels (R158 to R160) -/

section
variable {F p x : Int}

theorem floor_le_iff (hF : 0 < F) : p / F ≤ x ↔ p < (x + 1) * F := by
  rw [← Int.lt_add_one_iff, Int.ediv_lt_iff_lt_mul hF]

theorem le_floor_iff (hF : 0 < F) : x ≤ p / F - 1 ↔ (x + 1) * F ≤ p := by
  rw [← Int.le_ediv_iff_mul_le hF]
  omega

theorem le_ceil_iff (hF : 0 < F) : x ≤ ceilDiv p F - 1 ↔ x * F < p := by
  have below : -p / F < -x ↔ -p < -x * F := Int.ediv_lt_iff_lt_mul hF
  rw [Int.neg_mul] at below
  unfold ceilDiv
  omega

theorem ceil_le_iff (hF : 0 < F) : ceilDiv p F ≤ x ↔ p ≤ x * F := by
  have above : -x ≤ -p / F ↔ -x * F ≤ -p := Int.le_ediv_iff_mul_le hF
  rw [Int.neg_mul] at above
  unfold ceilDiv
  omega

/-- The unit that holds a place is its floor, and the one that ends at or after it its ceiling. -/
theorem floor_eq {unit lo : Int} (h0 : lo * unit ≤ p) (h1 : p < (lo + 1) * unit) : p / unit = lo := by
  have hu : 0 < unit := by
    rw [Int.add_mul, Int.one_mul] at h1
    omega
  refine le_antisymm ((floor_le_iff hu).mpr h1) ((Int.le_ediv_iff_mul_le hu).mpr h0)

theorem ceil_eq {unit hi : Int} (h0 : (hi - 1) * unit < p) (h1 : p ≤ hi * unit) : ceilDiv p unit = hi := by
  have hu : 0 < unit := by
    rw [Int.sub_mul, Int.one_mul] at h0
    omega
  have below := (le_ceil_iff hu).mpr h0
  have above := (ceil_le_iff hu).mpr h1
  omega

/-- Settles O52. -/
theorem occlusionRoundsOutwardClippingInward : Obligations.OcclusionRoundsOutwardClippingInward := by
  unfold Obligations.OcclusionRoundsOutwardClippingInward
  refine ⟨fun v uL uR x hF => ?_, fun F hoff lo hi ppl left width => ?_⟩
  · intro place
    refine ⟨(mem_cutTo ..).trans ?_, (mem_cutTo ..).trans ?_⟩
    · dsimp only
      rw [floor_le_iff hF, le_ceil_iff hF]
      exact ⟨fun ⟨⟨h0, h1⟩, h2⟩ => ⟨h0, by omega, h2⟩, fun ⟨h0, h1, h2⟩ => ⟨⟨h0, by omega⟩, h2⟩⟩
    · dsimp only
      rw [ceil_le_iff hF, le_floor_iff hF]
      exact ⟨fun ⟨⟨h0, h1⟩, h2⟩ => ⟨h0, by omega, h2⟩, fun ⟨h0, h1, h2⟩ => ⟨⟨h0, by omega⟩, h2⟩⟩
  · intro unit start finish h0 h1 h2 h3
    have first : start / unit = lo := floor_eq h0 h1
    have last : ceilDiv finish unit = hi := ceil_eq h2 h3
    refine ⟨?_, ?_⟩
    · rw [← first]
      rfl
    · rw [← last]
      rfl

end

end Sys2Proof.Machine

namespace Sys2Proof.Machine

/-! ## Rows of bits as numbers (R103, R104) -/

/-- A row of bits as a number, most significant bit first. -/
def bitsValue (l : List Bool) : Nat := l.foldl (fun n b => 2 * n + flagCode b) 0

section
variable {l r : List Bool} {v w n first last : Nat}

theorem bitsValue_append_bit (l : List Bool) (b : Bool) : bitsValue (l ++ [b]) = 2 * bitsValue l + flagCode b := by
  rw [bitsValue, List.foldl_append]
  rfl

theorem bitsOf_append (x : BitVec v) (y : BitVec w) : bitsOf (x ++ y) = bitsOf x ++ bitsOf y := by
  unfold bitsOf
  rw [List.range_add, List.map_append, List.map_map]
  congr 1
  · refine List.map_congr_left fun k hk => ?_
    have hk := List.mem_range.mp hk
    simp [BitVec.getMsbD_append, hk]
  · refine List.map_congr_left fun k _ => ?_
    simp [BitVec.getMsbD_append]

@[simp] theorem length_bitsOf (x : BitVec w) : (bitsOf x).length = w := by
  simp [bitsOf]

/-- The bits of a word are those of its upper part, and its last bit. -/
theorem bitsOf_succ (x : BitVec (w + 1)) : bitsOf x = bitsOf (x.extractLsb' 1 w) ++ [x.getLsbD 0] := by
  unfold bitsOf
  rw [List.range_succ, List.map_append, List.map_singleton, BitVec.getMsbD_eq_getLsbD]
  congr 1
  · refine List.map_congr_left fun k hk => ?_
    have hk := List.mem_range.mp hk
    have place : w - k = 1 + (w - 1 - k) := by omega
    simp [BitVec.getMsbD_eq_getLsbD, hk, Nat.lt_succ_of_lt hk, place]
    omega
  · simp

/-- The bits of a word read as the word's number. -/
theorem bitsValue_bitsOf (x : BitVec w) : bitsValue (bitsOf x) = x.toNat := by
  induction w with
  | zero => simp [bitsOf, bitsValue, BitVec.toNat_of_zero_length]
  | succ w ih =>
    have half : x.toNat / 2 < 2 ^ w := by
      have := x.isLt
      rw [Nat.pow_succ] at this
      omega
    have low : flagCode (x.getLsbD 0) = x.toNat % 2 := by
      rw [BitVec.getLsbD, Nat.testBit_zero]
      rcases Nat.mod_two_eq_zero_or_one x.toNat with h | h
      all_goals
        rw [h]
        rfl
    rw [bitsOf_succ, bitsValue_append_bit, ih, low, BitVec.extractLsb'_toNat, Nat.shiftRight_eq_div_pow, Nat.pow_one,
      Nat.mod_eq_of_lt half]
    omega

theorem bitsValue_lt (l : List Bool) : bitsValue l < 2 ^ l.length := by
  induction l using List.reverseRecOn with
  | nil => exact Nat.one_pos
  | append_singleton l b ih =>
    rw [bitsValue_append_bit, List.length_append, List.length_singleton, Nat.pow_succ]
    have : flagCode b ≤ 1 := by
      cases b <;> decide
    omega

/-- Rows of one length with one number are the same. -/
theorem bitsValue_inj (hl : l.length = r.length) (h : bitsValue l = bitsValue r) : l = r := by
  induction l using List.reverseRecOn generalizing r with
  | nil => exact (List.length_eq_zero_iff.mp hl.symm).symm
  | append_singleton l b ih =>
    cases r using List.reverseRecOn with
    | nil => simp at hl
    | append_singleton r c =>
      rw [bitsValue_append_bit, bitsValue_append_bit] at h
      have bits : flagCode b = flagCode c ∧ bitsValue l = bitsValue r := by
        cases b <;> cases c <;> simp [flagCode] at h ⊢ <;> omega
      have same : b = c := by
        obtain ⟨hb, -⟩ := bits
        revert hb
        cases b <;> cases c <;> decide
      rw [ih (by simpa using hl) bits.2, same]

theorem wordOf_eq (l : List Bool) : wordOf w l = BitVec.ofNat w (bitsValue l) := rfl

theorem toNat_wordOf (h : l.length = w) : (wordOf w l).toNat = bitsValue l := by
  rw [wordOf_eq, BitVec.toNat_ofNat, Nat.mod_eq_of_lt]
  rw [← h]
  exact bitsValue_lt l

theorem wordOf_bitsOf (x : BitVec w) : wordOf w (bitsOf x) = x := by
  refine BitVec.eq_of_toNat_eq ?_
  rw [toNat_wordOf (length_bitsOf x), bitsValue_bitsOf]

/-! ### Fields of a row -/

theorem fieldAt_eq (l : List Bool) (first last : Nat) :
    fieldAt l first last = bitsValue ((l.drop (first - 1)).take (last + 1 - first)) := rfl

/-- A field in the front part of a row. -/
theorem fieldAt_front (h0 : 0 < first) (h : last ≤ l.length) : fieldAt (l ++ r) first last = fieldAt l first last := by
  rw [fieldAt_eq, fieldAt_eq]
  by_cases hf : first - 1 ≤ l.length
  · rw [List.drop_append_of_le_length hf, List.take_append_of_le_length]
    rw [List.length_drop]
    omega
  · have none : last + 1 - first = 0 := by omega
    rw [none, List.take_zero, List.take_zero]

/-- A field behind the front part of a row. -/
theorem fieldAt_behind (h : l.length < first) (hl : first ≤ last) :
    fieldAt (l ++ r) first last = fieldAt r (first - l.length) (last - l.length) := by
  rw [fieldAt_eq, fieldAt_eq, List.drop_append, List.drop_eq_nil_of_le (by omega), List.nil_append]
  congr 2
  · omega
  · congr 1
    omega

/-- A whole word is the field of its length. -/
theorem fieldAt_word (x : BitVec w) : fieldAt (bitsOf x) 1 w = x.toNat := by
  rw [fieldAt_eq, Nat.sub_self, List.drop_zero, Nat.add_sub_cancel, List.take_of_length_le (by rw [length_bitsOf]),
    bitsValue_bitsOf]

end

end Sys2Proof.Machine

namespace Sys2Proof.Machine

/-! ## The fields of a payload as it is sent (R104) -/

section
variable {w last len : Nat}

/-- A field of a payload is the number at its positions. -/
theorem toNat_payloadField (p : BitVec w) (h : len ≤ last) (hl : last ≤ w) :
    (payloadField p last len).toNat = fieldAt (bitsOf p) (last + 1 - len) last := by
  have slice : bitsOf (payloadField p last len) = ((bitsOf p).drop (last - len)).take len := by
    refine List.ext_getElem ?_ fun k hk _ => ?_
    · rw [length_bitsOf, List.length_take, List.length_drop, length_bitsOf]
      omega
    · rw [length_bitsOf] at hk
      have place : w - last + (len - 1 - k) = w - 1 - (last - len + k) := by omega
      have inside : last - len + k < w := by omega
      simp [bitsOf, payloadField, BitVec.getMsbD_eq_getLsbD, hk, place, inside]
      omega
  have first : last + 1 - len - 1 = last - len := by omega
  have count : last + 1 - (last + 1 - len) = len := by omega
  rw [← bitsValue_bitsOf, slice, fieldAt_eq, first, count]

/-- The bits of a beacon's payload, field after field. -/
theorem bits_beacon (b : Beacon) : bitsOf (encodeBeacon b) =
    bitsOf (BitVec.ofNat 3 b.st.code) ++ [b.fieldLocked] ++ bitsOf (BitVec.ofNat 1 (parityCode b.parity)) ++
      [b.top.isSome] ++ bitsOf (0 : BitVec 2) ++ bitsOf (BitVec.ofNat 4 ((b.top.map Fin.val).getD 0)) ++
      bitsOf (0 : BitVec 4) ++ bitsOf b.fc ++ bitsOf b.live := by
  have one (x : Bool) : bitsOf (bit1 x) = [x] := by
    cases x <;> rfl
  rw [← one, ← one]
  simp only [← bitsOf_append]
  rfl

theorem bits_claim (c : Claim) (resend : Bool) : bitsOf (encodeClaim c resend) =
    bitsOf (BitVec.ofNat 5 c.id.val) ++ [resend] ++ bitsOf (BitVec.ofNat 4 c.layer.val) ++ bitsOf (BitVec.ofNat 9 c.top) ++
      bitsOf (BitVec.ofNat 9 c.bottom) ++ bitsOf (BitVec.ofNat 10 c.left) ++ bitsOf (BitVec.ofNat 10 c.right) ++
      bitsOf c.e ++ bitsOf c.base ++ bitsOf c.mask := by
  have one (x : Bool) : bitsOf (bit1 x) = [x] := by
    cases x <;> rfl
  rw [← one]
  simp only [← bitsOf_append]
  rfl

theorem bits_withdraw (i : Slot) : bitsOf (encodeWithdraw i) = bitsOf (0 : BitVec 3) ++ bitsOf (BitVec.ofNat 5 i.val) := by
  rw [← bitsOf_append]
  rfl

theorem bits_recall (target : Station) (i : Slot) : bitsOf (encodeRecall target i) =
    bitsOf (BitVec.ofNat 4 target.val) ++ bitsOf (BitVec.ofNat 5 i.val) ++ bitsOf (0 : BitVec 7) := by
  simp only [← bitsOf_append]
  rfl

theorem fieldAt_flag (b : Bool) : fieldAt [b] 1 1 = numOf b := by
  cases b <;> rfl

theorem fieldAt_one {l : List Bool} {k : Nat} (h : k < l.length) : fieldAt l (k + 1) (k + 1) = numOf l[k] := by
  have one : k + 1 + 1 - (k + 1) = 1 := by omega
  rw [fieldAt_eq, Nat.add_sub_cancel, one, List.drop_eq_getElem_cons h, List.take_succ_cons, List.take_zero, ← fieldAt_flag]
  rfl

theorem toNat_small {x : Nat} (h : x < 2 ^ w) : (BitVec.ofNat w x).toNat = x := by
  rw [BitVec.toNat_ofNat, Nat.mod_eq_of_lt h]

theorem toNat_word_zero : (0 : BitVec w).toNat = 0 := BitVec.toNat_zero

theorem parityCode_eq (p : Parity) : parityCode p = if p = .first then 0 else 1 := by
  cases p <;> rfl

theorem code_lt (st : RefSt) : st.code < 2 ^ 3 := by
  cases st <;> decide

theorem top_lt (t : Option Layer) : (t.map Fin.val).getD 0 < 2 ^ 4 := by
  cases t with
  | none => decide
  | some layer => exact layer.isLt

/-- What lies at the positions of a beacon's payload. -/
theorem fieldAt_beacon (b : Beacon) :
    let w := bitsOf (encodeBeacon b)
    fieldAt w 1 3 = b.st.code ∧ fieldAt w 4 4 = numOf b.fieldLocked ∧ fieldAt w 5 5 = parityCode b.parity ∧
    fieldAt w 6 6 = numOf b.top.isSome ∧ fieldAt w 7 8 = 0 ∧ fieldAt w 9 12 = (b.top.map Fin.val).getD 0 ∧
    fieldAt w 13 16 = 0 ∧ fieldAt w 17 32 = b.fc.toNat ∧ fieldAt w 33 64 = b.live.toNat := by
  intro w
  have parity : parityCode b.parity < 2 ^ 1 := by
    cases b.parity <;> decide
  have hw : w = _ := bits_beacon b
  rw [hw]
  simp only [fieldAt_front, fieldAt_behind, List.length_append, length_bitsOf, List.length_singleton, Nat.reduceAdd,
    Nat.reduceLT, Nat.reduceLeDiff, Nat.reduceSub, fieldAt_word, fieldAt_flag, toNat_small (code_lt _), toNat_small parity,
    toNat_small (top_lt _), toNat_word_zero, and_self]

/-- In the live set position 33 is id 31 and position 64 id 0. -/
theorem fieldAt_live (b : Beacon) (i : Slot) :
    fieldAt (bitsOf (encodeBeacon b)) (64 - i.val) (64 - i.val) = numOf (b.live.getLsbD i.val) := by
  have hi := i.isLt
  have front : 64 - i.val - 32 = 31 - i.val + 1 := by omega
  rw [bits_beacon, fieldAt_behind]
  · simp only [List.length_append, length_bitsOf, List.length_singleton, Nat.reduceAdd]
    rw [front, fieldAt_one (by rw [length_bitsOf]; omega)]
    have place : 32 - 1 - (31 - i.val) = i.val := by omega
    have inside : 31 - i.val < 32 := by omega
    simp [bitsOf, BitVec.getMsbD_eq_getLsbD, place, inside]
  · simp only [List.length_append, length_bitsOf, List.length_singleton, Nat.reduceAdd]
    omega
  · exact le_rfl

/-- What lies at the positions of a claim's payload. -/
theorem fieldAt_claim (c : Claim) (resend : Bool) (ht : c.top < 512) (hb : c.bottom < 512) (hl : c.left < 1024) :
    let w := bitsOf (encodeClaim c resend)
    fieldAt w 1 5 = c.id.val ∧ fieldAt w 6 6 = numOf resend ∧ fieldAt w 7 10 = c.layer.val ∧ fieldAt w 11 19 = c.top ∧
    fieldAt w 20 28 = c.bottom ∧ fieldAt w 29 38 = c.left ∧ fieldAt w 39 48 = c.right % 1024 ∧
    fieldAt w 49 64 = c.e.toNat ∧ fieldAt w 65 68 = c.base.toNat ∧ fieldAt w 69 72 = c.mask.toNat := by
  intro w
  have hw : w = _ := bits_claim c resend
  have id : c.id.val < 2 ^ 5 := c.id.isLt
  have layer : c.layer.val < 2 ^ 4 := c.layer.isLt
  have top : c.top < 2 ^ 9 := ht
  have bottom : c.bottom < 2 ^ 9 := hb
  have left : c.left < 2 ^ 10 := hl
  rw [hw]
  simp only [fieldAt_front, fieldAt_behind, List.length_append, length_bitsOf, List.length_singleton, Nat.reduceAdd,
    Nat.reduceLT, Nat.reduceLeDiff, Nat.reduceSub, fieldAt_word, fieldAt_flag, toNat_small id, toNat_small layer,
    toNat_small top, toNat_small bottom, toNat_small left, BitVec.toNat_ofNat, Nat.reducePow, and_self]

theorem fieldAt_withdraw (i : Slot) :
    fieldAt (bitsOf (encodeWithdraw i)) 1 3 = 0 ∧ fieldAt (bitsOf (encodeWithdraw i)) 4 8 = i.val := by
  have id : i.val < 2 ^ 5 := i.isLt
  rw [bits_withdraw]
  simp only [fieldAt_front, fieldAt_behind, length_bitsOf, Nat.reduceLT, Nat.reduceLeDiff, Nat.reduceSub, fieldAt_word,
    toNat_small id, toNat_word_zero, and_self]

theorem fieldAt_recall (target : Station) (i : Slot) :
    let w := bitsOf (encodeRecall target i)
    fieldAt w 1 4 = target.val ∧ fieldAt w 5 9 = i.val ∧ fieldAt w 10 16 = 0 := by
  intro w
  have hw : w = _ := bits_recall target i
  have station : target.val < 2 ^ 4 := target.isLt
  have id : i.val < 2 ^ 5 := i.isLt
  rw [hw]
  simp only [fieldAt_front, fieldAt_behind, List.length_append, length_bitsOf, Nat.reduceAdd,
    Nat.reduceLT, Nat.reduceLeDiff, Nat.reduceSub, fieldAt_word, toNat_small id, toNat_small station, toNat_word_zero,
    and_self]

/-! ## Payloads read back (R104, R123, R125) -/

theorem refStOfCode_code (st : RefSt) : refStOfCode st.code = some st := by
  cases st <;> rfl

theorem numOf_beq_one (b : Bool) : (numOf b == 1) = b := by
  cases b <;> rfl

theorem decode_beacon (b : Beacon) : decodeBeacon (encodeBeacon b) = some b := by
  obtain ⟨st, locked, parity, top1, -, top, -, fc, live⟩ := fieldAt_beacon b
  have field (last len : Nat) (h : len ≤ last) (hl : last ≤ 64) :
      (payloadField (encodeBeacon b) last len).toNat = fieldAt (bitsOf (encodeBeacon b)) (last + 1 - len) last :=
    toNat_payloadField _ h hl
  have st' := (field 3 3 (by decide) (by decide)).trans st
  have locked' := (field 4 1 (by decide) (by decide)).trans locked
  have parity' := (field 5 1 (by decide) (by decide)).trans parity
  have top1' := (field 6 1 (by decide) (by decide)).trans top1
  have top' := (field 12 4 (by decide) (by decide)).trans top
  have fc' : payloadField (encodeBeacon b) 32 16 = b.fc :=
    BitVec.eq_of_toNat_eq ((field 32 16 (by decide) (by decide)).trans fc)
  have live' : payloadField (encodeBeacon b) 64 32 = b.live :=
    BitVec.eq_of_toNat_eq ((field 64 32 (by decide) (by decide)).trans live)
  have side : (if (parityCode b.parity == 1) = true then Parity.second else Parity.first) = b.parity := by
    cases b.parity <;> rfl
  have layer : (if (numOf b.top.isSome == 1) = true then some (payloadField (encodeBeacon b) 12 4).toFin else none) =
      b.top := by
    rw [numOf_beq_one]
    cases ht : b.top with
    | none => rfl
    | some layer =>
      rw [ht] at top'
      exact congrArg some (Fin.ext top')
  unfold decodeBeacon
  rw [st', refStOfCode_code]
  dsimp only
  rw [locked', parity', top1', fc', live', numOf_beq_one, side, layer]

theorem decode_claim (c : Claim) (resend : Bool) (ht : c.top < 512) (hb : c.bottom < 512) (hl : c.left < 1024)
    (h1 : 1 ≤ c.right) (hr : c.right ≤ 1024) : decodeClaim (encodeClaim c resend) = (c, resend) := by
  obtain ⟨id, flag, layer, top, bottom, left, right, e, base, mask⟩ := fieldAt_claim c resend ht hb hl
  have field (last len : Nat) (h : len ≤ last) (hl : last ≤ 72) :
      (payloadField (encodeClaim c resend) last len).toNat =
        fieldAt (bitsOf (encodeClaim c resend)) (last + 1 - len) last := toNat_payloadField _ h hl
  have id' : (payloadField (encodeClaim c resend) 5 5).toFin = c.id :=
    Fin.ext ((field 5 5 (by decide) (by decide)).trans id)
  have flag' := (field 6 1 (by decide) (by decide)).trans flag
  have layer' : (payloadField (encodeClaim c resend) 10 4).toFin = c.layer :=
    Fin.ext ((field 10 4 (by decide) (by decide)).trans layer)
  have top' := (field 19 9 (by decide) (by decide)).trans top
  have bottom' := (field 28 9 (by decide) (by decide)).trans bottom
  have left' := (field 38 10 (by decide) (by decide)).trans left
  have right' := (field 48 10 (by decide) (by decide)).trans right
  have e' : payloadField (encodeClaim c resend) 64 16 = c.e :=
    BitVec.eq_of_toNat_eq ((field 64 16 (by decide) (by decide)).trans e)
  have base' : payloadField (encodeClaim c resend) 68 4 = c.base :=
    BitVec.eq_of_toNat_eq ((field 68 4 (by decide) (by decide)).trans base)
  have mask' : payloadField (encodeClaim c resend) 72 4 = c.mask :=
    BitVec.eq_of_toNat_eq ((field 72 4 (by decide) (by decide)).trans mask)
  have edge : (if c.right % 1024 = 0 then 1024 else c.right % 1024) = c.right := by
    split <;> omega
  unfold decodeClaim
  dsimp only
  rw [id', flag', layer', top', bottom', left', right', e', base', mask', numOf_beq_one, edge]

theorem decode_withdraw (i : Slot) : decodeWithdraw (encodeWithdraw i) = i :=
  Fin.ext ((toNat_payloadField (encodeWithdraw i) (by decide) (by decide)).trans (fieldAt_withdraw i).2)

theorem decode_recall (target : Station) (i : Slot) : decodeRecall (encodeRecall target i) = (target, i) := by
  obtain ⟨station, id, -⟩ := fieldAt_recall target i
  exact Prod.ext (Fin.ext ((toNat_payloadField (encodeRecall target i) (by decide) (by decide)).trans station))
    (Fin.ext ((toNat_payloadField (encodeRecall target i) (by decide) (by decide)).trans id))

/-- Settles O54. -/
theorem payloadsReadBack : Obligations.PayloadsReadBack := by
  unfold Obligations.PayloadsReadBack
  refine ⟨decode_beacon, decode_claim, fun target i => ⟨decode_withdraw i, decode_recall target i⟩, fun b => ?_,
    fun c resend ht hb hl hr => ?_, fun target i => ?_, rfl⟩
  · obtain ⟨st, locked, parity, top1, gap, top, gap', fc, -⟩ := fieldAt_beacon b
    refine ⟨length_bitsOf _, ?_, locked, ?_, top1, gap, fun layer h => ?_, fun h => ?_, gap', fc, fieldAt_live b⟩
    · refine st.trans ?_
      cases b.st <;> rfl
    · exact parity.trans (parityCode_eq b.parity)
    · refine top.trans ?_
      rw [h]
      rfl
    · refine top.trans ?_
      rw [h]
      rfl
  · obtain ⟨id, flag, layer, top, bottom, left, right, e, base, mask⟩ := fieldAt_claim c resend ht hb hl
    refine ⟨length_bitsOf _, id, flag, layer, top, bottom, left, right.trans ?_, e, base, mask⟩
    split <;> omega
  · obtain ⟨gap, id⟩ := fieldAt_withdraw i
    obtain ⟨station, id', gap'⟩ := fieldAt_recall target i
    exact ⟨length_bitsOf _, gap, id, length_bitsOf _, station, id', gap'⟩

end

end Sys2Proof.Machine

namespace Sys2Proof.Machine

/-! ## A frame cell by cell (R103, R105, R107) -/

section
variable {l front mid back : List Bool} {k n : Nat}

/-- The cells behind the first `k`, `n` of them. -/
theorem slice_middle (h : l = front ++ (mid ++ back)) (hk : front.length = k) (hn : mid.length = n) :
    (l.drop k).take n = mid := by
  rw [h, ← hk, List.drop_left, ← hn, List.take_left]

/-- A field that takes up a whole part of a row. -/
theorem fieldAt_middle {first last : Nat} (h : l = front ++ (mid ++ back)) (hk : front.length = first - 1)
    (hn : mid.length = last + 1 - first) : fieldAt l first last = bitsValue mid := by
  rw [fieldAt_eq, slice_middle h hk hn]

/-- The payload's length is that of its kind, in whole bytes. -/
theorem payload_bytes (c : FrameContents) :
    frameLength c.kind = some (c.payload.length / 8) ∧ 8 * (c.payload.length / 8) = c.payload.length ∧
      c.payload.length / 8 < 2 ^ 4 := by
  match c with
  | .beacon b =>
    have len : (FrameContents.beacon b).payload.length = 64 := length_bitsOf _
    rw [len]
    exact ⟨rfl, rfl, by norm_num⟩
  | .claim q r =>
    have len : (FrameContents.claim q r).payload.length = 72 := length_bitsOf _
    rw [len]
    exact ⟨rfl, rfl, by norm_num⟩
  | .withdraw i =>
    have len : (FrameContents.withdraw i).payload.length = 8 := length_bitsOf _
    rw [len]
    exact ⟨rfl, rfl, by norm_num⟩
  | .recall target i =>
    have len : (FrameContents.recall target i).payload.length = 16 := length_bitsOf _
    rw [len]
    exact ⟨rfl, rfl, by norm_num⟩
  | .clear => decide

theorem kind_lt (c : FrameContents) : c.kind < 2 ^ 4 := by
  cases c <;> simp [FrameContents.kind]

theorem length_frameBody (c : FrameContents) : (frameBody c).length = 8 + c.payload.length := by
  rw [frameBody, List.length_append, List.length_append, length_bitsOf, length_bitsOf]

end

section
variable {stn : Station} {a : Attempt}

/-- A frame's parts in their order. -/
theorem frame_parts (stn : Station) (a : Attempt) : frameBits stn a = [!a.firstRank] ++ ([!a.continuing] ++
    (bitsOf (BitVec.ofNat 4 stn.val) ++ (bitsOf (BitVec.ofNat 4 a.contents.kind) ++
      (bitsOf (BitVec.ofNat 4 (a.contents.payload.length / 8)) ++ (a.contents.payload ++
        (bitsOf (crc (frameBody a.contents)) ++ [true, true, true])))))) := by
  simp [frameBits, accessCode, frameBody]

theorem frame_body (stn : Station) (a : Attempt) : frameBits stn a = accessCode stn a ++ (frameBody a.contents ++
    (bitsOf (crc (frameBody a.contents)) ++ [true, true, true])) := by
  simp [frameBits]

theorem length_accessCode : (accessCode stn a).length = 6 := by
  simp [accessCode]

theorem slice_sender : ((frameBits stn a).drop 2).take 4 = bitsOf (BitVec.ofNat 4 stn.val) :=
  slice_middle (front := [!a.firstRank, !a.continuing]) (frame_parts stn a) rfl (length_bitsOf _)

theorem frame_fields (stn : Station) (a : Attempt) : frameBits stn a = accessCode stn a ++
    (bitsOf (BitVec.ofNat 4 a.contents.kind) ++ (bitsOf (BitVec.ofNat 4 (a.contents.payload.length / 8)) ++
      (a.contents.payload ++ (bitsOf (crc (frameBody a.contents)) ++ [true, true, true])))) :=
  frame_parts stn a

theorem slice_kind : ((frameBits stn a).drop 6).take 4 = bitsOf (BitVec.ofNat 4 a.contents.kind) :=
  slice_middle (frame_fields stn a) length_accessCode (length_bitsOf _)

theorem slice_length : ((frameBits stn a).drop 10).take 4 = bitsOf (BitVec.ofNat 4 (a.contents.payload.length / 8)) :=
  slice_middle ((frame_fields stn a).trans (List.append_assoc ..).symm)
    (by rw [List.length_append, length_accessCode, length_bitsOf]) (length_bitsOf _)

theorem slice_payload : ((frameBits stn a).drop 14).take a.contents.payload.length = a.contents.payload :=
  slice_middle ((frame_fields stn a).trans ((List.append_assoc ..).symm.trans (List.append_assoc ..).symm))
    (by rw [List.length_append, List.length_append, length_accessCode, length_bitsOf, length_bitsOf]) rfl

theorem slice_body : ((frameBits stn a).drop 6).take (8 + a.contents.payload.length) = frameBody a.contents :=
  slice_middle (frame_body stn a) length_accessCode (length_frameBody _)

theorem slice_check : ((frameBits stn a).drop (14 + a.contents.payload.length)).take 16 =
    bitsOf (crc (frameBody a.contents)) :=
  slice_middle (front := accessCode stn a ++ frameBody a.contents)
    ((frame_body stn a).trans (List.append_assoc ..).symm)
    (by rw [List.length_append, length_accessCode, length_frameBody]; omega) (length_bitsOf _)

/-- The check's cells. -/
theorem fieldAt_check : fieldAt (frameBits stn a) (15 + a.contents.payload.length) (30 + a.contents.payload.length) =
    bitsValue (bitsOf (crc (frameBody a.contents))) := by
  have first : 15 + a.contents.payload.length - 1 = 14 + a.contents.payload.length := by omega
  have count : 30 + a.contents.payload.length + 1 - (15 + a.contents.payload.length) = 16 := by omega
  rw [fieldAt_eq, first, count, slice_check]

/-- The objection cell and the end cells are sent as 1. -/
theorem fieldAt_ends : fieldAt (frameBits stn a) (31 + a.contents.payload.length) (33 + a.contents.payload.length) =
    7 := by
  have parts : frameBits stn a = accessCode stn a ++ frameBody a.contents ++ bitsOf (crc (frameBody a.contents)) ++
      ([true, true, true] ++ []) := rfl
  refine fieldAt_middle parts ?_ ?_
  · rw [List.length_append, List.length_append, length_accessCode, length_frameBody, length_bitsOf]
    omega
  · change 3 = _
    omega

theorem length_frameBits : (frameBits stn a).length = 33 + a.contents.payload.length := by
  rw [frame_body, List.length_append, List.length_append, List.length_append, length_accessCode, length_frameBody,
    length_bitsOf]
  change 6 + (8 + a.contents.payload.length + (16 + 3)) = _
  omega

/-! ### What a receiver reads -/

theorem rxSender_frame : rxSender (frameBits stn a) = stn := by
  rw [rxSender, slice_sender, wordOf_bitsOf]
  exact Fin.ext (toNat_small stn.isLt)

theorem rxKind_frame : rxKind (frameBits stn a) = a.contents.kind := by
  rw [rxKind, slice_kind, wordOf_bitsOf, toNat_small (kind_lt _)]

theorem rxLength_frame : rxLength (frameBits stn a) = a.contents.payload.length / 8 := by
  rw [rxLength, slice_length, wordOf_bitsOf, toNat_small (payload_bytes _).2.2]

theorem rxPayload_frame : rxPayload (frameBits stn a) = a.contents.payload := by
  rw [rxPayload, rxLength_frame, (payload_bytes _).2.1, slice_payload]

theorem rxCheckOk_frame : rxCheckOk (frameBits stn a) = true := by
  have place : 6 + (8 + a.contents.payload.length) = 14 + a.contents.payload.length := by omega
  unfold rxCheckOk
  dsimp only
  rw [rxLength_frame, (payload_bytes _).2.1, slice_body, place, slice_check, wordOf_bitsOf, beq_self_eq_true]

theorem rxFormError_frame : rxFormError (frameBits stn a) = none := by
  unfold rxFormError
  rw [rxKind_frame, (payload_bytes _).1]
  dsimp only
  rw [rxLength_frame, if_pos rfl]

/-! ### The check (R105) -/

/-- The check's register, as the bits of kind, length and payload shift it. -/
theorem crc_eq (l : List Bool) : crc l = l.foldl
    (fun (r : BitVec 16) b => if r.getLsbD 15 = b then r <<< 1 else (r <<< 1) ^^^ 0x1021#16) 0xFFFF#16 := by
  have step : crcStep = fun (r : BitVec 16) b => if r.getLsbD 15 = b then r <<< 1 else (r <<< 1) ^^^ 0x1021#16 := by
    funext r b
    have top : r.msb = r.getLsbD 15 := BitVec.msb_eq_getLsbD_last r
    rw [crcStep, top]
    by_cases h : r.getLsbD 15 = b
    · rw [if_pos h, h, bne_self_eq_false]
      rfl
    · rw [if_neg h, if_pos (bne_iff_ne.mpr h)]
  rw [crc, step]
  rfl

/-- A row that agrees with a frame in kind, length and payload, but not in the check, is not taken. -/
theorem rxCheckOk_other {other : List Bool} (hlen : other.length = 33 + a.contents.payload.length)
    (hform : fieldAt other 7 14 = fieldAt (frameBits stn a) 7 14)
    (hpayload : (other.drop 14).take a.contents.payload.length = a.contents.payload)
    (hcheck : fieldAt other (15 + a.contents.payload.length) (30 + a.contents.payload.length) ≠
      (crc (frameBody a.contents)).toNat) : rxCheckOk other = false := by
  have form : (other.drop 6).take 8 = ((frameBits stn a).drop 6).take 8 := by
    refine bitsValue_inj ?_ hform
    rw [List.length_take, List.length_take, List.length_drop, List.length_drop, hlen, length_frameBits]
  have split (l : List Bool) (m : Nat) : (l.drop 6).take (8 + m) = (l.drop 6).take 8 ++ (l.drop 14).take m := by
    rw [List.take_add, List.drop_drop]
  have len : rxLength other = a.contents.payload.length / 8 := by
    have four (l : List Bool) : (l.drop 10).take 4 = ((l.drop 6).take 8).drop 4 := by
      rw [List.drop_take, List.drop_drop]
    rw [← rxLength_frame (stn := stn), rxLength, rxLength, four, form, four]
  have body : (other.drop 6).take (8 + a.contents.payload.length) = frameBody a.contents := by
    rw [split, form, hpayload, ← slice_body (stn := stn), split, slice_payload]
  have place : 6 + (8 + a.contents.payload.length) = 14 + a.contents.payload.length := by omega
  unfold rxCheckOk
  dsimp only
  rw [len, (payload_bytes _).2.1, body, place]
  refine beq_false_of_ne fun h => hcheck ?_
  have first : 15 + a.contents.payload.length - 1 = 14 + a.contents.payload.length := by omega
  have count : 30 + a.contents.payload.length + 1 - (15 + a.contents.payload.length) = 16 := by omega
  rw [h, toNat_wordOf, fieldAt_eq, first, count]
  rw [List.length_take, List.length_drop, hlen]
  omega

/-- Settles O55. -/
theorem sentFrameReadsBack : Obligations.SentFrameReadsBack := by
  unfold Obligations.SentFrameReadsBack
  intro stn a bits
  refine ⟨length_frameBits, rxSender_frame, rxKind_frame, ?_, rxFormError_frame, rxCheckOk_frame, rxPayload_frame,
    fun w word => wordOf_bitsOf word, ?_⟩
  · rw [rxLength_frame]
    exact (payload_bytes _).1
  · intro n kind register
    have kindIs : kind = a.contents.kind := by
      dsimp only [kind]
      cases a.contents <;> rfl
    have registerIs : register = crc (frameBody a.contents) := by
      rw [crc_eq, ← slice_body (stn := stn)]
    rw [registerIs, kindIs]
    obtain ⟨-, whole, short⟩ := payload_bytes a.contents
    refine ⟨?_, ?_, ?_, ?_, ?_, slice_payload, ?_, ?_, fun other hlen hform hpayload hcheck =>
      rxCheckOk_other hlen hform hpayload hcheck⟩
    · rw [fieldAt_middle (last := 1) (front := []) (mid := [!a.firstRank]) (frame_parts stn a) rfl rfl]
      cases a.firstRank <;> rfl
    · rw [fieldAt_middle (last := 2) (front := [!a.firstRank]) (mid := [!a.continuing]) (frame_parts stn a) rfl rfl]
      cases a.continuing <;> rfl
    · rw [fieldAt_eq, slice_sender, bitsValue_bitsOf, toNat_small stn.isLt]
    · rw [fieldAt_eq, slice_kind, bitsValue_bitsOf, toNat_small (kind_lt _)]
    · rw [fieldAt_eq, slice_length, bitsValue_bitsOf, toNat_small short, whole]
    · rw [fieldAt_check, bitsValue_bitsOf]
    · exact fieldAt_ends

end

end Sys2Proof.Machine

namespace Sys2Proof.Machine

/-! ## The framer over a whole record (R173, R175) -/

/-- What the framer does with each byte of a row. -/
def Framer.readAll (f : Framer) : List Byte → List (Framer × Framed)
  | [] => []
  | b :: rest => f.read b :: (f.read b).1.readAll rest

section
variable {kind : Byte} {payload got rest : List Byte} {i : Instr}

theorem readAll_eq (bytes : List Byte) (done : List (Framer × Framed)) (f : Framer) :
    (bytes.foldl (fun (acc : List (Framer × Framed) × Framer) b => (acc.1 ++ [acc.2.read b], (acc.2.read b).1))
      (done, f)).1 = done ++ f.readAll bytes := by
  induction bytes generalizing done f with
  | nil => exact (List.append_nil done).symm
  | cons b rest ih =>
    rw [List.foldl_cons, ih, Framer.readAll, List.append_assoc]
    rfl

theorem afterPayload_short {need : Nat} (h : got.length < need) :
    afterPayload kind need got = (.payload kind need got, .nothing) := if_pos h

theorem afterPayload_whole (h : parseRequest kind got = some i) :
    afterPayload kind got.length got = (.kind, .request i) := by
  rw [afterPayload, if_neg (Nat.lt_irrefl _), h]

/-- A row of framer steps that completes the request with its last byte and nothing before. -/
def EndsInRequest (steps : List (Framer × Framed)) (i : Instr) : Prop :=
  ∃ before, steps = before ++ [(.kind, .request i)] ∧ ∀ x ∈ before, x.2 = .nothing

theorem endsInRequest_cons {steps : List (Framer × Framed)} (f : Framer) (h : EndsInRequest steps i) :
    EndsInRequest ((f, .nothing) :: steps) i := by
  obtain ⟨before, rfl, quiet⟩ := h
  refine ⟨(f, .nothing) :: before, rfl, fun x hx => ?_⟩
  rcases List.mem_cons.mp hx with rfl | hx
  · rfl
  · exact quiet x hx

/-- The last payload byte completes the request, and no byte before it does. -/
theorem endsInRequest_payload (b : Byte) (h : parseRequest kind (got ++ b :: rest) = some i) :
    EndsInRequest ((Framer.payload kind (got ++ b :: rest).length got).readAll (b :: rest)) i := by
  have append : got ++ b :: rest = got ++ [b] ++ rest := List.append_cons ..
  rw [Framer.readAll, Framer.read]
  rw [append] at h ⊢
  induction rest generalizing got b with
  | nil =>
    rw [List.append_nil] at h ⊢
    rw [afterPayload_whole h]
    exact ⟨[], rfl, fun x hx => absurd hx List.not_mem_nil⟩
  | cons c rest ih =>
    have next : got ++ [b] ++ c :: rest = got ++ [b] ++ [c] ++ rest := List.append_cons ..
    rw [afterPayload_short (by rw [List.length_append (bs := c :: rest), List.length_cons]; omega)]
    refine endsInRequest_cons _ ?_
    rw [next] at h ⊢
    exact ih c h next

theorem requestLength_eq (kind : Byte) : requestLength kind = List.lookup kind.toNat
    [(1, 7), (2, 0), (3, 0), (4, 18), (5, 1), (6, 2), (7, 1), (8, 1), (9, 1), (10, 1), (11, 2), (12, 0), (13, 1), (14, 0),
      (15, 0)] := by
  revert kind
  decide

theorem requestLength_le (kind : Byte) : ∀ n ∈ requestLength kind, n ≤ 18 := by
  revert kind
  decide

theorem length_readAll (f : Framer) (bytes : List Byte) : (f.readAll bytes).length = bytes.length := by
  induction bytes generalizing f with
  | nil => rfl
  | cons b rest ih => exact congrArg (· + 1) (ih _)

/-- A record whose length byte is that of its kind completes its request with its last byte. -/
theorem endsInRequest_record (hlen : requestLength kind = some payload.length) (h : parseRequest kind payload = some i) :
    EndsInRequest (Framer.kind.readAll ([kind, BitVec.ofNat 8 payload.length] ++ payload)) i := by
  have short : payload.length < 2 ^ 8 := Nat.lt_of_le_of_lt (requestLength_le kind _ hlen) (by decide)
  change EndsInRequest ((Framer.length kind, Framed.nothing) :: (Framer.length kind).readAll
    (BitVec.ofNat 8 payload.length :: payload)) i
  refine endsInRequest_cons _ ?_
  have first : (Framer.length kind).read (BitVec.ofNat 8 payload.length) = afterPayload kind payload.length [] := by
    rw [Framer.read, hlen]
    dsimp only
    rw [if_pos (toNat_small short).symm]
  rw [Framer.readAll, first]
  cases payload with
  | nil =>
    rw [List.length_nil, ← List.length_nil, afterPayload_whole h]
    exact ⟨[], rfl, fun x hx => absurd hx List.not_mem_nil⟩
  | cons b rest =>
    rw [afterPayload_short (Nat.succ_pos _)]
    exact endsInRequest_cons _ (endsInRequest_payload (got := []) b h)

/-! ### The fields of a request (R173, R174) -/

theorem toNat_two (hi lo : Byte) : (hi ++ lo).toNat = 256 * hi.toNat + lo.toNat := by
  rw [BitVec.toNat_append, ← Nat.shiftLeft_add_eq_or_of_lt lo.isLt, Nat.shiftLeft_eq]
  omega

theorem slotOfByte_val (b : Byte) : (slotOfByte b).val = b.toNat % 32 := by
  change (b.extractLsb' 0 5).toNat = _
  rw [BitVec.extractLsb'_toNat, Nat.shiftRight_zero]

theorem chainOfByte_val (b : Byte) : (chainOfByte b).val = b.toNat % 4 := by
  change (b.extractLsb' 0 2).toNat = _
  rw [BitVec.extractLsb'_toNat, Nat.shiftRight_zero]

theorem slotOrNone_spec (b : Byte) : (128 ≤ b.toNat → slotOrNone b = none) ∧
    (b.toNat < 128 → ∃ i : Slot, slotOrNone b = some i ∧ i.val = b.toNat % 32) := by
  unfold slotOrNone
  rw [BitVec.msb_eq_decide]
  refine ⟨fun h => if_pos (decide_eq_true h), fun h => ⟨slotOfByte b, if_neg ?_, slotOfByte_val b⟩⟩
  rw [decide_eq_true_iff]
  exact Nat.not_le.mpr h

theorem getMsbD_flag (b : Byte) {k : Nat} (hk : k < 8) : b.getMsbD k = (b.toNat / 2 ^ (7 - k) % 2 == 1) := by
  rw [BitVec.getMsbD_eq_getLsbD, decide_eq_true hk, Bool.true_and, BitVec.getLsbD, Nat.testBit_eq_decide_div_mod_eq]
  rfl

theorem startModeOf_spec (b : Byte) : (b.toNat % 4 = 0 → startModeOf b = .immediate) ∧
    (b.toNat % 4 = 1 → startModeOf b = .atField) ∧ (b.toNat % 4 = 2 → startModeOf b = .onTrigger) ∧
    (b.toNat % 4 = 3 → startModeOf b = .afterPrevious) := by
  have code : (b.extractLsb' 0 2).toNat = b.toNat % 4 := by
    rw [BitVec.extractLsb'_toNat, Nat.shiftRight_zero]
  refine ⟨fun h => ?_, fun h => ?_, fun h => ?_, fun h => ?_⟩
  all_goals simp only [startModeOf, code, h]

/-- Settles O35. -/
theorem framerReadsAWholeRecord : Obligations.FramerReadsAWholeRecord := by
  unfold Obligations.FramerReadsAWholeRecord
  refine ⟨fun kind payload i hlen h => ?_, requestLength_eq, fun p1 p0 h1 h0 k a1 a0 =>
    ⟨_, _, _, rfl, toNat_two p1 p0, toNat_two h1 h0, toNat_two a1 a0⟩, ?_, fun b1 b0 =>
    ⟨chainOfByte b1, slotOfByte b1, slotOfByte b0, b1 ++ b0, chainOfByte_val b1, slotOfByte_val b1, slotOfByte_val b0,
      toNat_two b1 b0, rfl, rfl, rfl, rfl, rfl, rfl, rfl, rfl⟩, rfl, rfl, rfl, rfl, rfl⟩
  · obtain ⟨before, steps, quiet⟩ := endsInRequest_record hlen h
    refine ⟨before, _, ?_, quiet, rfl, ?_⟩
    · have count := congrArg List.length steps
      rw [length_readAll, List.length_append, List.length_append, List.length_singleton] at count
      change 2 + payload.length = _ at count
      omega
    · rw [readAll_eq, List.nil_append, steps]
  · intro s t1 t0 h1 h0 l1 l0 w1 w0 layer flags cad mode f1 f0 d1 d0 n
    obtain ⟨immediate, atField, trigger, after⟩ := startModeOf_spec mode
    refine ⟨_, rfl, slotOrNone_spec s, slotOrNone_spec n, toNat_two t1 t0, toNat_two h1 h0, toNat_two l1 l0,
      toNat_two w1 w0, rfl, ?_, getMsbD_flag flags (k := 1) (by decide),
      getMsbD_flag flags (k := 2) (by decide), getMsbD_flag flags (k := 3) (by decide), getMsbD_flag flags (k := 4) (by decide),
      getMsbD_flag flags (k := 5) (by decide), ?_, ?_, immediate, atField, trigger, after,
      toNat_two f1 f0, toNat_two d1 d0⟩
    · exact congrArg (fun b => if b = true then CueKind.cutout else CueKind.fill) (getMsbD_flag flags (k := 0) (by decide))
    · change (cad.extractLsb' 4 4).toNat = _
      have := cad.isLt
      rw [BitVec.extractLsb'_toNat, Nat.shiftRight_eq_div_pow]
      omega
    · change (cad.extractLsb' 0 4).toNat = _
      rw [BitVec.extractLsb'_toNat, Nat.shiftRight_zero]

end

end Sys2Proof.Machine

namespace Sys2Proof.Machine

/-! ## The Peer Table at a field boundary (R124, R132, R133) -/

/-- The Cue Engine and the bus interface leave the Keyer. -/
theorem Desk.Work.ky_eq {air : Bool} {d e : Desk} (w : Desk.Work air d e) : e.ky = d.ky := by
  induction w with
  | trans _ _ first second => exact second.trans first
  | _ => rfl

/-- One record of the table at a field boundary. -/
def Pt.agePeer (stn : Station) (pt : Pt) (n : Station) : Pt :=
  if n = stn ∨ (pt.peer n).seen = true then pt
  else if (pt.peer n).age.presence = .absent then (pt.modPeer n Peer.age).removeStation n
  else pt.modPeer n Peer.age

/-- A record after the boundary has aged it. -/
def Pt.agedPeer (stn : Station) (pt : Pt) (n : Station) : Peer :=
  if n = stn ∨ (pt.peer n).seen = true then pt.peer n else (pt.peer n).age

/-- The boundary leaves the claims of a station. -/
def Pt.keepsClaims (stn : Station) (pt : Pt) (n : Station) : Prop :=
  n = stn ∨ (pt.peer n).seen = true ∨ (pt.peer n).age.presence ≠ .absent

section
variable {d : Desk} {fc : FieldCount} {stn n m : Station} {pt : Pt} {l : List Station} {layer : Layer}

theorem peer_removeStation : (pt.removeStation m).peer n = pt.peer n := rfl

theorem peer_agePeer_self : (pt.agePeer stn n).peer n = pt.agedPeer stn n := by
  unfold Pt.agePeer Pt.agedPeer
  split
  · rfl
  · split
    · rw [peer_removeStation, peer_modPeer_self]
    · rw [peer_modPeer_self]

theorem peer_agePeer_ne (h : n ≠ m) : (pt.agePeer stn n).peer m = pt.peer m := by
  unfold Pt.agePeer
  split
  · rfl
  · split
    · rw [peer_removeStation, peer_modPeer_ne h]
    · rw [peer_modPeer_ne h]

theorem mem_agePeer {e : StoreEntry} :
    e ∈ (pt.agePeer stn n).store ↔ e ∈ pt.store ∧ (e.station = n → pt.keepsClaims stn n) := by
  unfold Pt.agePeer Pt.keepsClaims
  split
  next h => exact ⟨fun he => ⟨he, fun _ => or_assoc.mp (.inl h)⟩, And.left⟩
  next h =>
    split
    next ha =>
      have none : ¬(n = stn ∨ (pt.peer n).seen = true ∨ (pt.peer n).age.presence ≠ .absent) := fun hk =>
        (or_assoc.mpr hk).elim h (fun hp => hp ha)
      rw [iff_false_intro none, imp_false]
      exact List.mem_filter.trans (and_congr_right' bne_iff_ne)
    next ha => exact ⟨fun he => ⟨he, fun _ => .inr (.inr ha)⟩, And.left⟩

/-- The records of a list of stations, each aged once. -/
theorem agePeers (nodup : l.Nodup) : (∀ m ∈ l, (l.foldl (Pt.agePeer stn) pt).peer m = pt.agedPeer stn m) ∧
    (∀ m, m ∉ l → (l.foldl (Pt.agePeer stn) pt).peer m = pt.peer m) ∧
    (∀ e, e ∈ (l.foldl (Pt.agePeer stn) pt).store ↔ e ∈ pt.store ∧ (e.station ∈ l → pt.keepsClaims stn e.station)) := by
  induction l generalizing pt with
  | nil => exact ⟨fun m h => absurd h List.not_mem_nil, fun m _ => rfl, fun e =>
      ⟨fun h => ⟨h, fun hm => absurd hm List.not_mem_nil⟩, And.left⟩⟩
  | cons n l ih =>
    obtain ⟨other, nodup⟩ := List.nodup_cons.mp nodup
    obtain ⟨inside, outside, store⟩ := ih (pt := pt.agePeer stn n) nodup
    have same (m : Station) (h : n ≠ m) : (pt.agePeer stn n).agedPeer stn m = pt.agedPeer stn m ∧
        ((pt.agePeer stn n).keepsClaims stn m ↔ pt.keepsClaims stn m) := by
      unfold Pt.agedPeer Pt.keepsClaims
      rw [peer_agePeer_ne h]
      exact ⟨rfl, Iff.rfl⟩
    refine ⟨fun m hm => ?_, fun m hm => ?_, fun e => ?_⟩
    · rw [List.foldl_cons]
      rcases List.mem_cons.mp hm with rfl | hm
      · rw [outside m other, peer_agePeer_self]
      · rw [inside m hm, (same m (fun h => other (h ▸ hm))).1]
    · obtain ⟨hn, hm⟩ := not_or.mp (List.mem_cons.not.mp hm)
      rw [List.foldl_cons, outside m hm, peer_agePeer_ne (Ne.symm hn)]
    · rw [List.foldl_cons, store, mem_agePeer, List.mem_cons]
      by_cases hn : e.station = n
      · simp [hn, other]
      · simp [hn, (same e.station (Ne.symm hn)).2]

theorem desk_peerReport (p : Presence) : d.peerReport fc n p =
    if (d.pt.peer n).presence = p then d
    else d.post fc (.peer n p (d.pt.peer n).presence (d.pt.peer n).missed (d.pt.entriesOf n).length fc) := rfl

/-- The reports after a record has aged: PEER on a change of presence. -/
def Desk.agedReports (fc : FieldCount) (stn : Station) (d : Desk) (n : Station) : List QReport :=
  if (d.pt.agedPeer stn n).presence = (d.pt.peer n).presence then d.hp.reports
  else postReport fc (.peer n (d.pt.peer n).presence (d.pt.agedPeer stn n).presence (d.pt.agedPeer stn n).missed
    ((d.pt.agePeer stn n).entriesOf n).length fc) d.hp.reports

theorem desk_agePeer : d.agePeer fc stn n =
    { d with pt := d.pt.agePeer stn n, hp := { d.hp with reports := d.agedReports fc stn n } } := by
  by_cases h : n = stn ∨ (d.pt.peer n).seen = true
  · have peer : d.pt.agedPeer stn n = d.pt.peer n := if_pos h
    have table : d.pt.agePeer stn n = d.pt := if_pos h
    rw [Desk.agePeer, if_pos h, Desk.agedReports, if_pos (congrArg Peer.presence peer), table]
  · have table : (if ((d.withPt (Pt.modPeer n Peer.age)).pt.peer n).presence = .absent
        then (d.withPt (Pt.modPeer n Peer.age)).withPt (Pt.removeStation n) else d.withPt (Pt.modPeer n Peer.age)) =
        { d with pt := d.pt.agePeer stn n } := by
      change (if ((d.pt.modPeer n Peer.age).peer n).presence = .absent then _ else _) = _
      rw [peer_modPeer_self, Pt.agePeer, if_neg h]
      split <;> rfl
    rw [Desk.agePeer, if_neg h]
    dsimp only
    rw [table, desk_peerReport, Desk.agedReports]
    dsimp only
    rw [peer_agePeer_self]
    split <;> rfl

theorem agePeers_rest : (l.foldl (Pt.agePeer stn) pt).accept = pt.accept ∧
    (l.foldl (Pt.agePeer stn) pt).joinQuiet = pt.joinQuiet := by
  have one (pt : Pt) (n : Station) : (pt.agePeer stn n).accept = pt.accept ∧
      (pt.agePeer stn n).joinQuiet = pt.joinQuiet := by
    unfold Pt.agePeer
    split
    · exact ⟨rfl, rfl⟩
    · split <;> exact ⟨rfl, rfl⟩
  induction l generalizing pt with
  | nil => exact ⟨rfl, rfl⟩
  | cons n l ih =>
    obtain ⟨accept, joinQuiet⟩ := ih (pt := pt.agePeer stn n)
    exact ⟨accept.trans (one pt n).1, joinQuiet.trans (one pt n).2⟩

theorem desk_agePeers (l : List Station) : ∃ reports, l.foldl (Desk.agePeer fc stn) d =
    { d with pt := l.foldl (Pt.agePeer stn) d.pt, hp := { d.hp with reports := reports } } := by
  induction l generalizing d with
  | nil => exact ⟨_, rfl⟩
  | cons n l ih =>
    obtain ⟨reports, h⟩ := ih (d := d.agePeer fc stn n)
    refine ⟨reports, ?_⟩
    rw [List.foldl_cons, h, desk_agePeer]
    rfl

/-! ### The layers that are known (R122) -/

/-- The highest of the layers of a set, if it has one. -/
def IsTop (S : Layer → Prop) : Option Layer → Prop
  | none => ∀ l, ¬S l
  | some top => S top ∧ ∀ l, S l → l.val ≤ top.val

theorem isTop_some {S : Layer → Prop} {o : Option Layer} (h : IsTop S o) :
    o = some layer ↔ S layer ∧ ∀ l, S l → l.val ≤ layer.val := by
  cases o with
  | none => exact ⟨(nomatch ·), fun hl => absurd hl.1 (h layer)⟩
  | some top =>
    obtain ⟨inside, most⟩ := h
    refine ⟨fun e => Option.some.inj e ▸ ⟨inside, most⟩, fun ⟨hl, high⟩ => ?_⟩
    exact congrArg some (Fin.ext (Nat.le_antisymm (high top inside) (most layer hl)))

theorem isTop_singleton (o : Option Layer) : IsTop (fun l => o = some l) o := by
  cases o with
  | none => exact fun l h => nomatch h
  | some top => exact ⟨rfl, fun l h => Nat.le_of_eq (congrArg Fin.val (Option.some.inj h)).symm⟩

theorem isTop_higherLayer {S T : Layer → Prop} {a b : Option Layer} (ha : IsTop S a) (hb : IsTop T b) :
    IsTop (fun l => S l ∨ T l) (higherLayer a b) := by
  cases a with
  | none =>
    cases b with
    | none => exact fun l h => h.elim (ha l) (hb l)
    | some y => exact ⟨.inr hb.1, fun l h => h.elim (fun hs => absurd hs (ha l)) (hb.2 l)⟩
  | some x =>
    cases b with
    | none => exact ⟨.inl ha.1, fun l h => h.elim (ha.2 l) (fun ht => absurd ht (hb l))⟩
    | some y =>
      obtain ⟨hx, highX⟩ := ha
      obtain ⟨hy, highY⟩ := hb
      change IsTop _ (some (if x.val < y.val then y else x))
      by_cases hlt : x.val < y.val
      · rw [if_pos hlt]
        exact ⟨.inr hy, fun l h => h.elim (fun hs => Nat.le_trans (highX l hs) hlt.le) (highY l)⟩
      · rw [if_neg hlt]
        exact ⟨.inl hx, fun l h => h.elim (highX l) (fun ht => Nat.le_trans (highY l ht) (Nat.not_lt.mp hlt))⟩

theorem isTop_topOf (es : List StoreEntry) : IsTop (fun l => ∃ e ∈ es, e.claim.layer = l) (topOf es) := by
  have fold (es : List StoreEntry) : ∀ (S : Layer → Prop) (o : Option Layer), IsTop S o →
      IsTop (fun l => S l ∨ ∃ e ∈ es, e.claim.layer = l)
        (es.foldl (fun m e => higherLayer m (some e.claim.layer)) o) := by
    induction es with
    | nil => simp
    | cons e es ih =>
      intro S o h
      have step := ih _ _ (isTop_higherLayer h (isTop_singleton (some e.claim.layer)))
      simpa [or_assoc] using step
  simpa [topOf] using fold es (fun _ => False) none (fun l h => h)

/-- A peer's known layer is the highest of those of its beacon and of its claims. -/
theorem knownLayer_isTop (pt : Pt) (n : Station) : IsTop (fun l => (pt.peer n).last.bind Beacon.top = some l ∨
    ∃ e ∈ pt.entriesOf n, e.claim.layer = l) (pt.knownLayer n) :=
  isTop_higherLayer (isTop_singleton _) (isTop_topOf _)

theorem knownLayer_iff : pt.knownLayer n = some layer ↔
    ((pt.peer n).last.bind Beacon.top = some layer ∨ ∃ e ∈ pt.store, e.station = n ∧ e.claim.layer = layer) ∧
    (∀ top, (pt.peer n).last.bind Beacon.top = some top → top.val ≤ layer.val) ∧
    (∀ e ∈ pt.store, e.station = n → e.claim.layer.val ≤ layer.val) := by
  have mem (e : StoreEntry) : e ∈ pt.entriesOf n ↔ e ∈ pt.store ∧ e.station = n :=
    List.mem_filter.trans (and_congr_right' beq_iff_eq)
  rw [isTop_some (knownLayer_isTop pt n)]
  simp only [mem, and_assoc]
  refine and_congr_right' ⟨fun high => ⟨fun top h => high top (.inl h), fun e he hn => high _ (.inr ⟨e, he, hn, rfl⟩)⟩, ?_⟩
  rintro ⟨beacon, claims⟩ l (h | ⟨e, he, hn, rfl⟩)
  · exact beacon l h
  · exact claims e he hn

/-! ### Blankets (R132) -/

theorem unsure_iff : pt.unsure n = true ↔ ∃ i : Slot, (pt.peer n).live.getLsbD i.val = true ∧
    (pt.stores n i = false ∨ (pt.peer n).dropped.getLsbD i.val = true) := by
  unfold Pt.unsure Pt.missing IdSet.has
  rw [List.any_eq_true]
  refine exists_congr fun i => ?_
  have inside : i ∈ allSlots := List.mem_finRange i
  cases pt.stores n i <;> cases (pt.peer n).live.getLsbD i.val <;> cases (pt.peer n).dropped.getLsbD i.val <;>
    simp [inside]

theorem peer_newField : (pt.newField stn).peer n = { pt.peer n with seen := false, recalled := 0 } := by
  simp [Pt.newField, Pt.peer]

theorem blanketLayer_iff (open' : (pt.peer n).presence = .present → pt.unsure n = true → pt.knownLayer n ≠ none) :
    pt.blanketLayer n = some layer ↔ ((pt.peer n).presence = .silent ∧ layer = (pt.knownLayer n).getD 15) ∨
      ((pt.peer n).presence = .joining ∧ pt.knownLayer n = some layer) ∨
      ((pt.peer n).presence = .present ∧ pt.unsure n = true ∧ pt.knownLayer n = some layer) := by
  unfold Pt.blanketLayer
  cases hp : (pt.peer n).presence with
  | absent => simp
  | joining => simp
  | silent =>
    simp only [true_and, reduceCtorEq, false_and, or_false, Option.some.injEq]
    exact eq_comm
  | present =>
    cases hu : pt.unsure n with
    | false => simp
    | true =>
      cases hk : pt.knownLayer n with
      | none => exact absurd hk (open' hp hu)
      | some l => simp

theorem mem_formBlankets (h : n ≠ stn) : (⟨layer, n⟩ : Blanket) ∈ pt.formBlankets stn ↔ pt.blanketLayer n = some layer := by
  unfold Pt.formBlankets
  rw [List.mem_filterMap]
  constructor
  · rintro ⟨m, -, hm⟩
    obtain ⟨l, hl, e⟩ := Option.map_eq_some_iff.mp hm
    obtain ⟨rfl, rfl⟩ := Blanket.mk.inj e
    exact hl
  · intro hl
    refine ⟨n, List.mem_filter.mpr ⟨List.mem_finRange n, bne_iff_ne.mpr h⟩, ?_⟩
    rw [hl]
    rfl

/-! ### The snapshot (R154, R155) -/

theorem effectiveReached_iff (e fc : FieldCount) : effectiveReached e fc = true ↔ e - fc ≠ 1 ∧ e - fc ≠ 2 := by
  have one : (e - fc).toNat = 1 ↔ e - fc = 1 := ⟨fun h => BitVec.eq_of_toNat_eq h, fun h => congrArg BitVec.toNat h⟩
  have two : (e - fc).toNat = 2 ↔ e - fc = 2 := ⟨fun h => BitVec.eq_of_toNat_eq h, fun h => congrArg BitVec.toNat h⟩
  unfold effectiveReached
  rw [Bool.and_eq_true, bne_iff_ne, bne_iff_ne, ne_eq, ne_eq, one, two]

theorem cadenceMatches_iff (base mask : Nibble) :
    cadenceMatches fc base mask = true ↔ fc.extractLsb' 0 4 &&& mask = base &&& mask := beq_iff_eq

theorem applicable_iff (e : StoreEntry) : e.applicable fc = true ↔
    fc.extractLsb' 0 4 &&& e.claim.mask = e.claim.base &&& e.claim.mask ∧
      (e.applied = true ∨ (e.claim.e - fc ≠ 1 ∧ e.claim.e - fc ≠ 2)) := by
  unfold StoreEntry.applicable
  rw [Bool.and_eq_true, Bool.or_eq_true, cadenceMatches_iff, effectiveReached_iff]

theorem mem_occluders (e : StoreEntry) : e ∈ (d.snapshot fc).sb.occluders ↔ e ∈ d.pt.store ∧ e.applicable fc = true :=
  List.mem_filter

theorem snapshot_marks : d.pt.store.map (StoreEntry.afterSnapshot fc) =
    d.pt.store.map (fun e => { e with applied := e.applied || decide (e ∈ (d.snapshot fc).sb.occluders) }) := by
  refine List.map_congr_left fun e he => ?_
  have mark : decide (e ∈ (d.snapshot fc).sb.occluders) = e.applicable fc := by
    rw [Bool.eq_iff_iff, decide_eq_true_iff, mem_occluders]
    exact and_iff_right he
  rw [mark]
  rfl

theorem mem_regions (r : OwnRegion) : r ∈ (d.snapshot fc).sb.own ↔ ∃ i, (d.slot i).region fc i = some r := by
  refine List.mem_filterMap.trans (exists_congr fun i => ?_)
  exact and_iff_right (List.mem_finRange i)

theorem region_iff {i : Slot} {x : CueSlot} {r : OwnRegion} : x.region fc i = some r ↔
    x.st = .onAir ∧ fc.extractLsb' 0 4 &&& x.cue.mask = x.cue.base &&& x.cue.mask ∧
      r = ⟨i, x.cue.top, x.cue.top + x.cue.height - 1, x.cue.left, x.cue.width, x.cue.layer, x.cue.kind,
        if x.cue.announce then x.claim.map (fun c => (c.left, c.right)) else none⟩ := by
  rw [← cadenceMatches_iff]
  unfold CueSlot.region
  split
  next h =>
    obtain ⟨hst, hc⟩ := h
    rw [Option.some.injEq, and_iff_right hst, and_iff_right hc]
    exact eq_comm
  next h => exact ⟨(nomatch ·), fun ⟨hst, hc, _⟩ => absurd ⟨hst, hc⟩ h⟩

/-! ### The boundary as a whole -/

theorem ptBoundary_table : (d.ptBoundary fc stn).pt = (allStations.foldl (Pt.agePeer stn) d.pt).newField stn ∧
    ∃ reports, d.ptBoundary fc stn =
      { d with pt := (d.ptBoundary fc stn).pt, hp := { d.hp with reports := reports } } := by
  obtain ⟨reports, h⟩ := desk_agePeers (d := d) (fc := fc) (stn := stn) allStations
  unfold Desk.ptBoundary
  rw [h]
  exact ⟨rfl, reports, rfl⟩

theorem peer_ptBoundary : (d.ptBoundary fc stn).pt.peer n = { d.pt.agedPeer stn n with seen := false, recalled := 0 } := by
  obtain ⟨inside, -, -⟩ := agePeers (pt := d.pt) (stn := stn) (List.nodup_finRange 16)
  rw [ptBoundary_table.1, peer_newField]
  exact congrArg (fun p : Peer => { p with seen := false, recalled := 0 }) (inside n (List.mem_finRange n))

theorem mem_ptBoundary (e : StoreEntry) :
    e ∈ (d.ptBoundary fc stn).pt.store ↔ e ∈ d.pt.store ∧ d.pt.keepsClaims stn e.station := by
  obtain ⟨-, -, store⟩ := agePeers (pt := d.pt) (stn := stn) (List.nodup_finRange 16)
  rw [ptBoundary_table.1]
  exact (store e).trans (and_congr_right' (forall_prop_of_true (List.mem_finRange _)))

theorem blankets_ptBoundary (h : n ≠ stn) : (⟨layer, n⟩ : Blanket) ∈ (d.ptBoundary fc stn).pt.blankets ↔
    (d.ptBoundary fc stn).pt.blanketLayer n = some layer := by
  have same (pt : Pt) : (pt.newField stn).blanketLayer n = pt.blanketLayer n := by
    simp only [Pt.blanketLayer, Pt.unsure, Pt.missing, Pt.knownLayer, peer_newField]
    rfl
  rw [ptBoundary_table.1, same]
  exact mem_formBlankets h

theorem agedPeer_of_unseen (h : n ≠ stn) (hs : (d.pt.peer n).seen = false) :
    d.pt.agedPeer stn n = (d.pt.peer n).age := if_neg (not_or.mpr ⟨h, ne_true_of_eq_false hs⟩)

/-- A record that no beacon refreshed in the field. -/
theorem peer_ptBoundary_unseen (h : n ≠ stn) (hs : (d.pt.peer n).seen = false) :
    (d.ptBoundary fc stn).pt.peer n = { (d.pt.peer n).age with seen := false, recalled := 0 } := by
  rw [peer_ptBoundary, agedPeer_of_unseen h hs]

theorem age_joining {p : Peer} (h : p.presence = .joining) : p.age = { p.empty with presence := .absent, missed := 1 } := by
  unfold Peer.age
  rw [h]

theorem age_absent {p : Peer} (h : p.presence = .absent) : p.age = p := by
  unfold Peer.age
  rw [h]

theorem age_present {p : Peer} (h : p.presence = .present) : p.age = { p with presence := .silent, missed := 1 } := by
  unfold Peer.age
  rw [h]

theorem age_silent {p : Peer} (h : p.presence = .silent) : p.age = if 7 ≤ p.missed
    then { p.empty with presence := .absent, missed := 8 } else { p with missed := p.missed + 1 } := by
  have full : satInc 8 p.missed ≥ 8 ↔ 7 ≤ p.missed := by
    unfold satInc
    omega
  unfold Peer.age
  rw [h]
  dsimp only
  by_cases hm : 7 ≤ p.missed
  · rw [if_pos (full.mpr hm), if_pos hm]
  · have count : satInc 8 p.missed = p.missed + 1 := by
      unfold satInc
      omega
    rw [if_neg (full.not.mpr hm), if_neg hm, count]

theorem keepsClaims_iff (h : n ≠ stn) : d.pt.keepsClaims stn n ↔
    (d.pt.peer n).seen = true ∨ ((d.ptBoundary fc stn).pt.peer n).presence ≠ .absent := by
  unfold Pt.keepsClaims
  rw [peer_ptBoundary]
  cases hs : (d.pt.peer n).seen with
  | true => exact ⟨fun _ => .inl rfl, fun _ => .inr (.inl rfl)⟩
  | false =>
    rw [agedPeer_of_unseen h hs]
    exact or_iff_right h

theorem ky_ptBoundary : (d.ptBoundary fc stn).ky = d.ky := by
  obtain ⟨-, reports, table⟩ := ptBoundary_table (d := d) (fc := fc) (stn := stn)
  rw [table]

theorem ky_snapshot : (d.snapshot fc).ky = d.ky := rfl

theorem ky_releaseStop : d.releaseStop.ky = { d.ky with stop := .clear } := rfl

/-- The Keyer at a field boundary: only its stop is released. -/
theorem ky_fieldBoundary {sys : System} {p : Parity} {line : Nat} :
    (d.fieldBoundary sys stn fc p line).ky = { d.ky with stop := .clear } := by
  have cues : ((d.cbiBoundary sys p line).ceBoundary fc).ky = d.ky :=
    ((Desk.Work.cbiBoundary (air := true)).trans .ceBoundary).ky_eq
  unfold Desk.fieldBoundary
  rw [ky_releaseStop, ky_snapshot, ky_ptBoundary, cues]

/-- Settles O5. -/
theorem peerTableAndSnapshotAtABoundary : Obligations.PeerTableAndSnapshotAtABoundary := by
  unfold Obligations.PeerTableAndSnapshotAtABoundary
  refine ⟨fun fc stn d => ?_, fun pt n layer => knownLayer_iff, fun fc stn n d _ => ?_, fun fc d => ?_,
    fun sys stn fc parity line d => ⟨?_, by unfold Desk.fieldBoundary; rfl⟩⟩
  · obtain ⟨-, reports, rest⟩ := ptBoundary_table (d := d) (fc := fc) (stn := stn)
    refine ⟨fun n h => ⟨?_, fun hs hp => ?_, fun hs hp => ?_, fun hs hp hm => ?_, fun hs hp hm => ?_⟩, fun e h => ?_, ?_, ?_,
      ?_, by rw [rest], by rw [rest], by rw [rest], by rw [rest], fun n layer h => ?_⟩
    · rintro (hs | hp)
      · rw [peer_ptBoundary, Pt.agedPeer, if_pos (.inr hs)]
      · rw [peer_ptBoundary, Pt.agedPeer, age_absent hp, ite_self]
    · rw [peer_ptBoundary_unseen h hs, age_joining hp]
      exact congrArg (fun seen => (⟨.absent, 1, seen, none, 0, 0⟩ : Peer)) rfl
    · rw [peer_ptBoundary_unseen h hs, age_present hp, hs]
    · rw [peer_ptBoundary_unseen h hs, age_silent hp, if_neg (Nat.not_le.mpr hm), hs]
    · rw [peer_ptBoundary_unseen h hs, age_silent hp, if_pos hm]
      rfl
    · rw [mem_ptBoundary, keepsClaims_iff h]
    · rw [ptBoundary_table.1]
      exact congrArg (· - 1) agePeers_rest.2
    · rw [ptBoundary_table.1]
      rfl
    · rw [ptBoundary_table.1]
      exact agePeers_rest.1
    · intro q known unsure open'
      rw [blankets_ptBoundary h, blanketLayer_iff fun hp hu => open' hp (unsure_iff.mp hu), unsure_iff]
  · rw [desk_agePeer]
    dsimp only
    rw [peer_agePeer_self]
    rfl
  · exact ⟨fun e => (mem_occluders e).trans (and_congr_right' (applicable_iff e)), rfl, rfl, rfl,
      fun r => (mem_regions r).trans (exists_congr fun i => region_iff), by rw [← snapshot_marks]; rfl, rfl, rfl, rfl, rfl⟩
  · rw [ky_fieldBoundary]

end

end Sys2Proof.Machine

namespace Sys2Proof.Machine

/-! ## The parts of the boundary work (R145) -/

/-- The desk with the trigger edge consumed and the fields counted down (steps 1 and 2). -/
def Desk.counted (d : Desk) : Desk := allSlots.foldl Desk.countDown (d.stepTrigger d.consumers)

/-- The cues due to end at this boundary. -/
def Desk.dueNow (d : Desk) : List EndedCue := d.counted.endings d.consumers

/-- The desk before a cue goes on air: steps 1 to 5. -/
def Desk.readied (fc : FieldCount) (d : Desk) : Desk :=
  (allSlots.foldl (fun x i => x.testStart fc i) (d.boundaryEndings fc)).retry fc

section
variable {d e : Desk} {fc : FieldCount} {i j n : Slot} {c b : ChainNo}

theorem boundaryEndings_eq :
    d.boundaryEndings fc = d.dueNow.foldl (Desk.stepSucceed fc) (d.dueNow.foldl (Desk.stepEnd fc) d.counted) := rfl

theorem ceBoundary_eq : d.ceBoundary fc = allSlots.foldl (Desk.stepPreroll fc)
    (allSlots.foldl (Desk.stepOnAir fc d.heldSlots) (d.readied fc)) := rfl

/-! ### What becomes of the trigger edge (R149) -/

/-- No work of the Cue Engine raises the edge. -/
theorem Desk.Work.trigger_eq {air : Bool} (w : Desk.Work air d e) (h : d.ce.trigger = false) : e.ce.trigger = false := by
  induction w with
  | trans _ _ first second => exact second (first h)
  | trigger d => rfl
  | _ => exact h

theorem trigger_stepTrigger (cs : List ChainNo) : (d.stepTrigger cs).ce.trigger = false := rfl

theorem work_readied : Desk.Work false d (d.readied fc) := by
  have tested : Desk.Work false d (allSlots.foldl (fun (x : Desk) i => x.testStart fc i) (d.boundaryEndings fc)) :=
    Desk.Work.boundaryEndings.trans (.fold (fun (x : Desk) i => x.testStart fc i) (fun _ _ => .testStart) allSlots _)
  exact tested.trans .retry

/-! ### A chain stays in its state until it is over (R142) -/

/-- Every chain keeps its state, or has become IDLE. -/
def Desk.Lets (d e : Desk) : Prop := ∀ c, (e.chain c).st = (d.chain c).st ∨ (e.chain c).st = .idle

theorem Desk.Lets.refl (d : Desk) : d.Lets d := fun _ => .inl rfl

theorem Desk.Lets.trans {f : Desk} (h : d.Lets e) (h' : e.Lets f) : d.Lets f := fun c =>
  (h' c).elim (fun same => (h c).imp same.trans same.trans) .inr

theorem lets_of_chains (h : ∀ c, e.chain c = d.chain c) : d.Lets e := fun c => .inl (congrArg Chain.st (h c))

theorem lets_modChain {f : Chain → Chain} (h : (f (d.chain c)).st = (d.chain c).st ∨ (f (d.chain c)).st = .idle) :
    d.Lets (d.modChain c f) := by
  intro b
  rw [chain_modChain]
  split
  next hb => exact hb ▸ h
  next => exact .inl rfl

theorem lets_fold {α : Type} {f : Desk → α → Desk} (hf : ∀ (x : Desk) a, x.Lets (f x a)) (l : List α) :
    d.Lets (l.foldl f d) := by
  induction l generalizing d with
  | nil => exact .refl d
  | cons a l ih => exact (hf d a).trans ih

theorem lets_testStart : d.Lets (d.testStart fc i) := by
  unfold Desk.testStart
  dsimp only
  split <;> exact lets_of_chains fun _ => rfl

theorem lets_offerWithdraw : d.Lets (d.offerWithdraw i) := by
  unfold Desk.offerWithdraw
  dsimp only
  split <;> exact lets_of_chains fun _ => rfl

theorem lets_retry : d.Lets (d.retry fc) :=
  (lets_fold (f := fun x i => x.offerWithdraw i) (fun _ _ => lets_offerWithdraw) allSlots).trans
    (lets_fold (f := fun x i => x.tryStart fc i) (fun _ _ => lets_of_chains fun _ => chain_tryStart) allSlots)

theorem lets_checkChain : d.Lets (d.checkChain fc c) := by
  unfold Desk.checkChain
  split
  · exact .refl d
  · split
    · exact lets_modChain (f := fun _ => Chain.idle) (.inr rfl)
    · exact .refl d

theorem lets_checkChainOf (o : Option ChainNo) : d.Lets (d.checkChainOf fc o) := by
  cases o with
  | none => exact .refl d
  | some c => exact lets_checkChain

theorem lets_arm (p : Option Slot) (q : Bool) : d.Lets (d.arm fc c i p q) :=
  (lets_modChain (d := d.modSlot i (CueSlot.armedFor c p q)) (f := Chain.arms i) (.inl rfl)).trans lets_testStart

theorem lets_armSuccessor (p : Slot) (next : Option Slot) (q : Bool) : d.Lets (d.armSuccessor fc c p next q) := by
  unfold Desk.armSuccessor
  split
  · exact lets_modChain (.inl rfl)
  · split
    · exact lets_arm _ _
    · exact lets_modChain (.inl rfl)
    · exact lets_modChain (.inl rfl)

theorem lets_wakeChain : d.Lets (d.wakeChain fc i c) := by
  unfold Desk.wakeChain
  split
  · split
    · split
      · exact lets_arm _ _
      · exact (lets_modChain (.inl rfl)).trans lets_checkChain
      · exact .refl d
    · exact .refl d
  · exact .refl d

theorem lets_ended : d.Lets (d.ended fc i) := by
  obtain ⟨x, hx⟩ := tellEnded_eq fc i d
  have gone : d.Lets (if (d.slot i).cue.autoFree then (d.tellEnded fc i).freeSlot i else (d.tellEnded fc i).unloadRun i) := by
    rw [hx]
    split <;> exact lets_of_chains fun _ => rfl
  exact gone.trans (lets_fold (f := fun x c => x.wakeChain fc i c) (fun _ _ => lets_wakeChain) allChains)

theorem lets_endForChain : d.Lets (d.endForChain i) := by
  unfold Desk.endForChain
  split
  · exact lets_modChain (d := { d with ce := _ }) (.inl rfl)
  · exact .refl d

theorem lets_beginEnd : d.Lets (d.beginEnd fc i) := by
  unfold Desk.beginEnd
  dsimp only
  split
  · exact (lets_endForChain.trans (lets_of_chains fun _ => rfl)).trans lets_offerWithdraw
  · exact lets_endForChain.trans lets_ended

theorem lets_stepEnd (x : EndedCue) : d.Lets (d.stepEnd fc x) := lets_beginEnd.trans (lets_checkChainOf _)

theorem lets_stepSucceed (x : EndedCue) : d.Lets (d.stepSucceed fc x) := by
  have marked : d.Lets (if (d.slot x.slot).st = .ending then d.modSlot x.slot (fun y => { y with succDone := true }) else d) := by
    split <;> exact lets_of_chains fun _ => rfl
  unfold Desk.stepSucceed
  dsimp only
  split
  · exact .refl d
  · split
    · exact .refl d
    · split
      · exact (marked.trans (lets_armSuccessor _ _ _)).trans lets_checkChain
      · split
        · exact (marked.trans (lets_armSuccessor _ _ _)).trans lets_checkChain
        · exact marked.trans (lets_modChain (.inl rfl))
      · exact .refl d
      · exact .refl d

theorem chain_countDown : (d.countDown i).chain c = d.chain c := by
  unfold Desk.countDown
  dsimp only
  split <;> rfl

theorem chain_triggerStart : (d.triggerStart b).chain c = d.chain c := by
  unfold Desk.triggerStart
  split
  · split <;> rfl
  · rfl

theorem chain_fold {α : Type} {f : Desk → α → Desk} (hf : ∀ (x : Desk) a, (f x a).chain c = x.chain c) (l : List α) :
    (l.foldl f d).chain c = d.chain c := by
  induction l generalizing d with
  | nil => rfl
  | cons a l ih => exact ih.trans (hf d a)

theorem chain_stepTrigger (cs : List ChainNo) : (d.stepTrigger cs).chain c = d.chain c :=
  chain_fold (f := Desk.triggerStart) (fun _ _ => chain_triggerStart) cs

theorem chain_counted : d.counted.chain c = d.chain c :=
  (chain_fold (f := Desk.countDown) (fun _ _ => chain_countDown) allSlots).trans (chain_stepTrigger _)

theorem lets_readied : d.Lets (d.readied fc) := by
  have ended : d.Lets (d.boundaryEndings fc) := by
    rw [boundaryEndings_eq]
    exact ((lets_of_chains fun _ => chain_counted).trans (lets_fold (fun _ => lets_stepEnd) _)).trans
      (lets_fold (fun _ => lets_stepSucceed) _)
  exact (ended.trans (lets_fold (f := fun x i => x.testStart fc i) (fun _ _ => lets_testStart) allSlots)).trans lets_retry

end

end Sys2Proof.Machine

namespace Sys2Proof.Machine

/-! ## Steps 1, 4, 6 and 7 of the boundary work, one cue at a time (R142, R144, R145, R149) -/

section
variable {d : Desk} {fc : FieldCount} {i j n p : Slot} {c : ChainNo} {cs : List ChainNo} {e : EndedCue}

/-! ### The trigger (R149) -/

theorem mem_consumers : c ∈ d.consumers ↔ d.ce.trigger = true ∧ d.takesEdge c = true := by
  unfold Desk.consumers
  split
  next h => exact (List.mem_filter.trans (and_iff_right (List.mem_finRange c))).trans (and_iff_right h).symm
  next h => exact ⟨fun hc => absurd hc List.not_mem_nil, fun hc => absurd hc.1 h⟩

theorem running_of_takesEdge (h : d.takesEdge c = true) : (d.chain c).st = .running := by
  unfold Desk.takesEdge at h
  exact beq_iff_eq.mp (Bool.and_eq_true_iff.mp h).1

theorem takesEdge_of_armed (hr : (d.chain c).st = .running) (ha : (d.chain c).armed = some i)
    (hs : (d.slot i).cue.start = .onTrigger) : d.takesEdge c = true := by
  simp [Desk.takesEdge, hr, ha, hs]

theorem takesEdge_of_onAir (hr : (d.chain c).st = .running) (ha : (d.chain c).onAir = some i)
    (hs : (d.slot i).cue.demandEnd = true) : d.takesEdge c = true := by
  simp [Desk.takesEdge, hr, ha, hs]

theorem stepTrigger_of_none (h : d.ce.trigger = false) : d.stepTrigger d.consumers = d := by
  have none : d.consumers = [] := by
    rw [Desk.consumers, h]
    rfl
  rw [none]
  exact congrArg (fun b => { d with ce := { d.ce with trigger := b } }) h.symm

/-- A consumed edge changes at most that a start condition holds, and takes none back. -/
theorem slot_triggerStart : ∃ b, (d.triggerStart c).slot i = { d.slot i with held := b } ∧
    ((d.slot i).held = true → b = true) ∧
    ((d.chain c).armed = some i → (d.slot i).cue.start = .onTrigger → b = true) := by
  unfold Desk.triggerStart
  cases ha : (d.chain c).armed with
  | none => exact ⟨_, rfl, id, nofun⟩
  | some j =>
    dsimp only
    by_cases hs : (d.slot j).cue.start = .onTrigger
    · rw [if_pos hs, slot_modSlot]
      by_cases hj : j = i
      · subst hj
        rw [if_pos rfl]
        exact ⟨true, rfl, fun _ => rfl, fun _ _ => rfl⟩
      · rw [if_neg hj]
        exact ⟨_, rfl, id, fun h => absurd (Option.some.inj h) hj⟩
    · rw [if_neg hs]
      exact ⟨_, rfl, id, fun h hi => absurd (Option.some.inj h ▸ hi) hs⟩

theorem held_triggerStarts (ha : (d.chain c).armed = some i) (hs : (d.slot i).cue.start = .onTrigger)
    (h : c ∈ cs ∨ (d.slot i).held = true) : ((cs.foldl Desk.triggerStart d).slot i).held = true := by
  induction cs generalizing d with
  | nil => exact h.resolve_left List.not_mem_nil
  | cons b cs ih =>
    obtain ⟨held, hslot, keeps, starts⟩ := slot_triggerStart (d := d) (c := b) (i := i)
    refine ih (d := d.triggerStart b) (by rwa [chain_triggerStart]) (by rwa [hslot]) ?_
    rw [hslot]
    rcases h with hc | hh
    · rcases List.mem_cons.mp hc with rfl | hc
      · exact .inr (starts ha hs)
      · exact .inl hc
    · exact .inr (keeps hh)

/-! ### The look at a chain (R142) -/

theorem checkChain_busy (h : d.ce.chainLive c ≠ 0) : d.checkChain fc c = d := by
  unfold Desk.checkChain
  split
  · rfl
  · exact if_neg h

theorem st_checkChain_over (ho : (d.chain c).outcome ≠ none) (h : d.ce.chainLive c = 0) :
    ((d.checkChain fc c).chain c).st = .idle := by
  obtain ⟨o, ho⟩ := Option.ne_none_iff_exists'.mp ho
  rw [Desk.checkChain, ho]
  dsimp only
  rw [if_pos h]
  change ((d.modChain c fun _ => Chain.idle).chain c).st = .idle
  rw [chain_modChain_self]
  rfl

theorem chainLive_modChain (f : Chain → Chain) (b : ChainNo) : (d.modChain b f).ce.chainLive c = d.ce.chainLive c := rfl

theorem outcome_of_broken {x : Chain} (hr : x.st = .running) (hb : x.broken = true) : x.outcome ≠ none := by
  simp [Chain.outcome, hr, hb]

theorem outcome_of_terminal {x : Chain} (hp : x.st = .paused) (ht : x.terminal = true) : x.outcome ≠ none := by
  unfold Chain.outcome
  rw [hp]
  dsimp only
  rw [ht]
  split <;> exact nofun

/-! ### The succession at a boundary (R145) -/

/-- The note that an ENDING cue's succession has been made. -/
def Desk.noteSuccession (i : Slot) (d : Desk) : Desk :=
  if (d.slot i).st = .ending then d.modSlot i (fun x => { x with succDone := true }) else d

theorem slot_noteSuccession : ∃ b, (d.noteSuccession j).slot i = { d.slot i with succDone := b } := by
  unfold Desk.noteSuccession
  split
  · rw [slot_modSlot]
    split
    next h => exact ⟨true, by rw [h]⟩
    next => exact ⟨_, rfl⟩
  · exact ⟨_, rfl⟩

theorem slot_noteSuccession_ne (h : j ≠ i) : (d.noteSuccession j).slot i = d.slot i := by
  unfold Desk.noteSuccession
  split
  · exact slot_modSlot_ne h _ _
  · rfl

theorem chain_noteSuccession : (d.noteSuccession j).chain c = d.chain c := by
  unfold Desk.noteSuccession
  split <;> rfl

theorem chainLive_noteSuccession : (d.noteSuccession j).ce.chainLive c = d.ce.chainLive c := by
  have slots (k : Slot) : ∃ b, (d.noteSuccession j).ce.slot k = { d.ce.slot k with succDone := b } := slot_noteSuccession
  refine chainLive_congr (fun k => ?_) (fun k _ => ?_)
  all_goals
    obtain ⟨b, hb⟩ := slots k
    rw [hb]

theorem stepSucceed_running (hc : e.chain = some c) (hs : e.succDone = false) (hr : (d.chain c).st = .running) :
    d.stepSucceed fc e = ((d.noteSuccession e.slot).armSuccessor fc c e.slot e.next true).checkChain fc c := by
  unfold Desk.stepSucceed
  rw [hc]
  dsimp only
  rw [hs, hr]
  rfl

theorem stepSucceed_paused_some (hc : e.chain = some c) (hs : e.succDone = false) (hp : (d.chain c).st = .paused)
    (hn : e.next = some n) : d.stepSucceed fc e =
      (d.noteSuccession e.slot).modChain c (fun x => { x with due := some ⟨e.slot, some n⟩ }) := by
  unfold Desk.stepSucceed
  rw [hc]
  dsimp only
  rw [hs, hp, hn]
  rfl

theorem stepSucceed_paused_none (hc : e.chain = some c) (hs : e.succDone = false) (hp : (d.chain c).st = .paused)
    (hn : e.next = none) : d.stepSucceed fc e =
      ((d.noteSuccession e.slot).modChain c (fun x => { x with terminal := true })).checkChain fc c := by
  unfold Desk.stepSucceed
  rw [hc]
  dsimp only
  rw [hs, hp, hn]
  rfl

theorem armSuccessor_free {q : Bool} (h : (d.slot n).st = .free) :
    d.armSuccessor fc c p (some n) q = d.modChain c (fun x => { x with broken := true }) := by
  rw [Desk.armSuccessor, h]

theorem armSuccessor_busy {q : Bool} (h : (d.slot n).st = .armed ∨ (d.slot n).st.live = true) :
    d.armSuccessor fc c p (some n) q = d.modChain c (fun x => { x with waiting := some ⟨n, p, q⟩ }) := by
  unfold Desk.armSuccessor
  dsimp only
  rcases h with h | h
  · rw [h]
  · rcases CueSt.live_iff.mp h with h | h | h | h
    all_goals rw [h]

theorem startHolds_iff {x : CueSlot} : x.startHolds fc = true ↔ x.cue.start = .immediate ∨
    (x.cue.start = .afterPrevious ∧ x.predEnded = true) ∨
    (x.cue.start = .atField ∧ (fc - x.cue.startField).toNat ≤ 32767) := by
  unfold CueSlot.startHolds atOrAfter
  cases x.cue.start <;> simp

/-- The successor of an ended cue of a RUNNING chain. -/
theorem stepSucceed_spec (hc : e.chain = some c) (hs : e.succDone = false) (hn : e.next = some n)
    (hr : (d.chain c).st = .running) (hb : (d.chain c).broken = false) (ht : (d.chain c).terminal = false) :
    let t := d.stepSucceed fc e
    let z := (d.slot n).cue
    ((d.slot n).st = .loaded → (t.slot n).st = .armed ∧ (t.slot n).chain = some c ∧ (t.slot n).pred = some e.slot ∧
      (t.slot n).predEnded = true ∧ (t.slot n).cue = z ∧ (t.chain c).armed = some n ∧
      ((t.slot n).held = true ↔ z.start = .immediate ∨ z.start = .afterPrevious ∨
        (z.start = .atField ∧ (fc - z.startField).toNat ≤ 32767))) ∧
    ((d.slot n).st = .free → d.ce.chainLive c = 0 → (t.chain c).st = .idle) ∧
    ((d.slot n).st = .free → d.ce.chainLive c ≠ 0 → (t.chain c).broken = true) ∧
    ((d.slot n).st = .armed ∨ (d.slot n).st.live = true → (t.chain c).waiting = some ⟨n, e.slot, true⟩) := by
  intro t z
  have ht' : t = _ := stepSucceed_running hc hs hr
  rw [hn] at ht'
  obtain ⟨done, marked⟩ := slot_noteSuccession (d := d) (i := n) (j := e.slot)
  have st : ((d.noteSuccession e.slot).slot n).st = (d.slot n).st := by rw [marked]
  have cue : ((d.noteSuccession e.slot).slot n).cue = z := by rw [marked]
  have running : ((d.noteSuccession e.slot).chain c).st = .running := by rw [chain_noteSuccession, hr]
  have going {f : Chain → Chain} (h : (f (d.chain c)).outcome = none) :
      ((d.noteSuccession e.slot).modChain c f).checkChain fc c = (d.noteSuccession e.slot).modChain c f := by
    refine checkChain_of_going ?_
    rw [chain_modChain_self, chain_noteSuccession]
    exact h
  refine ⟨fun hl => ?_, fun hf hz => ?_, fun hf hz => ?_, fun hu => ?_⟩
  · rw [armSuccessor_loaded (st.trans hl), arm_running running, checkChain_of_going] at ht'
    · have slot : t.slot n = CueSlot.armedNow fc c (some e.slot) true ((d.noteSuccession e.slot).slot n) := by
        rw [ht', slot_modSlot_self, slot_modChain]
      have chain : t.chain c = Chain.arms n ((d.noteSuccession e.slot).chain c) := by
        rw [ht', chain_modSlot, chain_modChain_self]
      rw [slot, chain]
      refine ⟨rfl, rfl, rfl, rfl, cue, rfl, startHolds_iff.trans ?_⟩
      change (((d.noteSuccession e.slot).slot n).cue.start = _ ∨ (((d.noteSuccession e.slot).slot n).cue.start = _ ∧ _) ∨
        (((d.noteSuccession e.slot).slot n).cue.start = _ ∧
          (fc - ((d.noteSuccession e.slot).slot n).cue.startField).toNat ≤ _)) ↔ _
      rw [cue]
      exact or_congr_right (or_congr_left (and_iff_left rfl))
    · rw [chain_modSlot, chain_modChain_self, chain_noteSuccession]
      exact outcome_of_going hr hb ht
  · rw [armSuccessor_free (st.trans hf)] at ht'
    rw [ht']
    refine st_checkChain_over ?_ ?_
    · rw [chain_modChain_self]
      exact outcome_of_broken running rfl
    · rw [chainLive_modChain, chainLive_noteSuccession, hz]
  · rw [armSuccessor_free (st.trans hf), checkChain_busy (by rwa [chainLive_modChain, chainLive_noteSuccession])] at ht'
    rw [ht', chain_modChain_self]
  · rw [armSuccessor_busy (by rwa [st]), going (outcome_of_going hr hb ht)] at ht'
    rw [ht', chain_modChain_self]

/-- The succession of an ended cue of a PAUSED chain waits for the chain to run again (log 20). -/
theorem stepSucceed_paused_spec (hc : e.chain = some c) (hs : e.succDone = false) (hp : (d.chain c).st = .paused) :
    let t := d.stepSucceed fc e
    (∀ n, e.next = some n → t.chain c = { d.chain c with due := some ⟨e.slot, some n⟩ } ∧
      (∀ i, i ≠ e.slot → t.slot i = d.slot i)) ∧
    (e.next = none → d.ce.chainLive c = 0 → (t.chain c).st = .idle) ∧
    (e.next = none → d.ce.chainLive c ≠ 0 → t.chain c = { d.chain c with terminal := true }) := by
  intro t
  refine ⟨fun n hn => ?_, fun hn hz => ?_, fun hn hz => ?_⟩
  · have ht : t = _ := stepSucceed_paused_some hc hs hp hn
    refine ⟨?_, fun i hi => ?_⟩
    · rw [ht, chain_modChain_self, chain_noteSuccession]
    · rw [ht, slot_modChain, slot_noteSuccession_ne (Ne.symm hi)]
  · have ht : t = _ := stepSucceed_paused_none hc hs hp hn
    rw [ht]
    refine st_checkChain_over ?_ ?_
    · rw [chain_modChain_self, chain_noteSuccession]
      exact outcome_of_terminal hp rfl
    · rw [chainLive_modChain, chainLive_noteSuccession, hz]
  · have ht : t = _ := stepSucceed_paused_none hc hs hp hn
    rw [checkChain_busy (by rwa [chainLive_modChain, chainLive_noteSuccession])] at ht
    rw [ht, chain_modChain_self, chain_noteSuccession]

/-! ### Going on air (R144, R145) -/

theorem mayGoOnAir_iff {ripe : List Slot} : d.mayGoOnAir fc ripe i = true ↔
    d.runsSlot i = true ∧ (d.slot i).predEnded = true ∧
      (((d.slot i).st = .scheduled ∧ (∃ q, (d.slot i).claim = some q ∧ q.e - fc ≠ 1 ∧ q.e - fc ≠ 2) ∧
        (∃ f, (d.slot i).beaconField = some f ∧ f ≠ fc) ∧ (d.slot i).endOrdered = false) ∨
      ((d.slot i).st = .armed ∧ (d.slot i).cue.announce = false ∧ (d.slot i).held = true ∧ i ∈ ripe)) := by
  unfold Desk.mayGoOnAir
  dsimp only
  cases (d.slot i).claim <;> cases (d.slot i).beaconField <;> simp [effectiveReached_iff, and_assoc]

theorem slot_goOnAir_self : (d.goOnAir fc i).slot i = { d.slot i with st := .onAir, remaining := (d.slot i).cue.duration } := by
  unfold Desk.goOnAir
  dsimp only
  split
  · split
    · rw [slot_cueReport, slot_modChain, slot_modSlot_self]
    · rw [slot_cueReport, slot_modSlot_self]
  · split
    · rw [slot_modChain, slot_modSlot_self]
    · rw [slot_modSlot_self]

/-- The chain of a cue that goes on air. -/
def Chain.airs (i : Slot) (x : Chain) : Chain :=
  { x with onAir := some i, armed := if x.armed = some i then none else x.armed }

/-- The reports once a cue of a chain has gone on air. -/
def Desk.airReports (fc : FieldCount) (i : Slot) (c : ChainNo) (d : Desk) : List QReport :=
  if (d.slot i).cue.notifyStart
  then postReport fc (.cue i (some c) .onAir fc (((d.slot i).claim.map Claim.e).getD 0)) d.hp.reports
  else d.hp.reports

theorem goOnAir_of_chain (hc : (d.slot i).chain = some c) : d.goOnAir fc i =
    { (d.modSlot i (fun z => { z with st := .onAir, remaining := z.cue.duration })).modChain c (Chain.airs i) with
      hp := { d.hp with reports := d.airReports fc i c } } := by
  unfold Desk.goOnAir Desk.airReports
  dsimp only
  rw [hc]
  dsimp only
  split
  · unfold Desk.cueReport
    rw [slot_modChain, slot_modSlot_self]
    dsimp only
    rw [hc]
    rfl
  · rfl

theorem stepOnAir_not {ripe : List Slot} (h : d.mayGoOnAir fc ripe i = false) : d.stepOnAir fc ripe i = d :=
  if_neg (ne_true_of_eq_false h)

theorem stepOnAir_scheduled {ripe : List Slot} (h : d.mayGoOnAir fc ripe i = true) (hst : (d.slot i).st = .scheduled) :
    d.stepOnAir fc ripe i = d.goOnAir fc i := by
  rw [Desk.stepOnAir, if_pos h, if_pos hst]

theorem stepOnAir_armed {ripe : List Slot} (h : d.mayGoOnAir fc ripe i = true) (hst : (d.slot i).st = .armed) :
    d.stepOnAir fc ripe i = if 16 ≤ d.ce.liveCount then d.regionFull fc i
      else if d.chainFull i = true then d else d.goOnAir fc i := by
  have armed : (d.slot i).st ≠ .scheduled := by
    rw [hst]
    exact nofun
  rw [Desk.stepOnAir, if_pos h, if_neg armed]

/-- An unannounced cue at step 6, within the limits and held by either. -/
theorem stepOnAir_spec {ripe : List Slot} (hst : (d.slot i).st = .armed) (ha : (d.slot i).cue.announce = false)
    (hh : (d.slot i).held = true) (hp : (d.slot i).predEnded = true) (hc : (d.slot i).chain = some c)
    (hr : (d.chain c).st = .running) :
    let x := d.slot i
    let t := d.stepOnAir fc ripe i
    let posted (r : Report) : List QReport := postReport fc r d.hp.reports
    (i ∉ ripe → t = d) ∧
    (i ∈ ripe → d.ce.liveCount < 16 → d.ce.chainLive c < 2 →
      t.slot i = { x with st := .onAir, remaining := x.cue.duration } ∧ (t.chain c).onAir = some i ∧
      ((d.chain c).armed = some i → (t.chain c).armed = none) ∧ t.cbi = d.cbi ∧
      t.hp.reports = if x.cue.notifyStart then posted (.cue i (some c) .onAir fc ((x.claim.map Claim.e).getD 0))
        else d.hp.reports) ∧
    (i ∈ ripe → 16 ≤ d.ce.liveCount → t.slot i = { x with fullPosted := true } ∧ t.cbi = d.cbi ∧
      t.hp.reports = if x.fullPosted then d.hp.reports else posted (.regionFull i (some c) fc)) ∧
    (i ∈ ripe → d.ce.liveCount < 16 → 2 ≤ d.ce.chainLive c → t = d) := by
  intro x t posted
  have runs : d.runsSlot i = true := by rw [runsSlot_of_chain hc, hr, beq_self_eq_true]
  have may (h : i ∈ ripe) : d.mayGoOnAir fc ripe i = true := mayGoOnAir_iff.mpr ⟨runs, hp, .inr ⟨hst, ha, hh, h⟩⟩
  have ht (h : i ∈ ripe) : t = _ := stepOnAir_armed (may h) hst
  refine ⟨fun h => ?_, fun h hl hf => ?_, fun h hl => ?_, fun h hl hf => ?_⟩
  · refine stepOnAir_not (eq_false_of_ne_true fun hm => ?_)
    obtain ⟨-, -, ⟨hs, -⟩ | ⟨-, -, -, hi⟩⟩ := mayGoOnAir_iff.mp hm
    · exact nomatch hst.symm.trans hs
    · exact h hi
  · have open' : ¬d.chainFull i = true := by
      rw [chainFull_of_chain hc, decide_eq_true_iff]
      exact Nat.not_le.mpr hf
    have gone := ht h
    rw [if_neg (Nat.not_le.mpr hl), if_neg open'] at gone
    refine ⟨gone ▸ slot_goOnAir_self, ?_, fun harm => ?_, gone ▸ cbi_goOnAir, ?_⟩
    · rw [gone, goOnAir_of_chain hc]
      exact congrArg Chain.onAir (chain_modChain_self ..)
    · rw [gone, goOnAir_of_chain hc]
      refine (congrArg Chain.armed (chain_modChain_self ..)).trans (if_pos harm)
    · rw [gone, goOnAir_of_chain hc]
      rfl
  · have full := ht h
    rw [if_pos hl] at full
    rw [full, cbi_regionFull]
    unfold Desk.regionFull
    cases hf : (d.slot i).fullPosted with
    | true =>
      rw [if_pos rfl]
      refine ⟨congrArg (fun b => { d.slot i with fullPosted := b }) hf, rfl, ?_⟩
      rw [if_pos rfl]
    | false =>
      rw [if_neg Bool.false_ne_true, slot_post, slot_modSlot_self, hc]
      refine ⟨rfl, rfl, ?_⟩
      rw [if_neg Bool.false_ne_true]
      rfl
  · have held := ht h
    have full : d.chainFull i = true := by
      rw [chainFull_of_chain hc, decide_eq_true_iff]
      exact hf
    rw [if_neg (Nat.not_le.mpr hl), if_pos full] at held
    exact held

/-! ### Pre-roll (R145) -/

/-- The LOADED successor of a cue near its end, armed once. -/
theorem stepPreroll_loaded (hst : (d.slot i).st = .onAir) (hc : (d.slot i).chain = some c)
    (hr : (d.chain c).st = .running) (hd : (d.slot i).cue.duration ≠ 0) (h1 : 1 ≤ (d.slot i).remaining)
    (h3 : (d.slot i).remaining ≤ 3) (hs : (d.slot i).succDone = false) (hn : (d.slot i).cue.next = some n)
    (hl : (d.slot n).st = .loaded) :
    d.stepPreroll fc i = (((d.modSlot i (fun y => { y with succDone := true })).modChain c (Chain.arms n)).modSlot n
      (CueSlot.armedNow fc c (some i) false)).tryStart fc n := by
  have runs : d.runsSlot i = true := by rw [runsSlot_of_chain hc, hr, beq_self_eq_true]
  have other : i ≠ n := by
    rintro rfl
    exact nomatch hst.symm.trans hl
  have loaded : ((d.modSlot i (fun y => { y with succDone := true })).slot n).st = .loaded := by
    rw [slot_modSlot_ne other, hl]
  have succeeds : d.succeed fc i false = ((d.modSlot i (fun y => { y with succDone := true })).modChain c
      (Chain.arms n)).modSlot n (CueSlot.armedNow fc c (some i) false) := by
    unfold Desk.succeed
    dsimp only
    rw [hc]
    dsimp only
    rw [hs, hn, if_neg Bool.false_ne_true, armSuccessor_loaded loaded, arm_running (d := d.modSlot i _) hr]
  unfold Desk.stepPreroll
  dsimp only
  rw [if_pos ⟨hst, runs, hd, h1, h3, hs⟩, hc]
  dsimp only
  rw [succeeds]
  refine tryArmed_of_armed ?_
  rw [chain_modSlot, chain_modChain_self]
  rfl

/-- A start leaves the chain of a slot and its predecessor. -/
theorem tryStart_run : ((d.tryStart fc j).slot i).chain = (d.slot i).chain ∧
    ((d.tryStart fc j).slot i).pred = (d.slot i).pred := by
  by_cases h : j = i
  · subst h
    unfold Desk.tryStart Desk.tryClaim Desk.regionFull Desk.offerClaim
    dsimp only
    split
    · split
      · split
        · exact ⟨rfl, rfl⟩
        · rw [slot_post, slot_modSlot_self]
          exact ⟨rfl, rfl⟩
      · split
        · exact ⟨rfl, rfl⟩
        · split
          · rw [slot_modSlot_self]
            exact ⟨rfl, rfl⟩
          · exact ⟨rfl, rfl⟩
    · exact ⟨rfl, rfl⟩
  · rw [slot_tryStart_ne h]
    exact ⟨rfl, rfl⟩

/-- The note of a succession counts no cue. -/
theorem counts_note : (d.modSlot i (fun y => { y with succDone := true })).ce.liveCount = d.ce.liveCount ∧
    (d.modSlot i (fun y => { y with succDone := true })).ce.chainLive c = d.ce.chainLive c := by
  refine ⟨liveCount_congr (live_modSlot rfl), chainLive_congr (live_modSlot rfl) fun j _ => ?_⟩
  change ((d.modSlot i _).slot j).chain = (d.slot j).chain
  rw [slot_modSlot]
  split
  next h => rw [h]
  next => rfl

theorem startHolds_afterPrevious {x : CueSlot} (h : x.cue.start = .afterPrevious) (hp : x.predEnded = false) :
    x.startHolds fc = false := by
  rw [CueSlot.startHolds, h]
  exact hp

theorem stepPreroll_spec (fc : FieldCount) (d : Desk) (i n : Slot) (c : ChainNo) :
    let x := d.slot i
    let z := (d.slot n).cue
    let t := d.stepPreroll fc i
    (x.remaining = 0 ∨ 4 ≤ x.remaining ∨ x.succDone = true ∨ x.cue.duration = 0 → t = d) ∧
    (x.st = .onAir → x.chain = some c → (d.chain c).st = .running → x.cue.duration ≠ 0 → 1 ≤ x.remaining →
      x.remaining ≤ 3 → x.succDone = false → x.cue.next = some n → (d.slot n).st = .loaded →
      t.slot i = { x with succDone := true } ∧ (t.slot n).chain = some c ∧ (t.slot n).pred = some i ∧
      (t.chain c).armed = some n ∧
      (z.start = .immediate → z.announce = true → d.ce.liveCount < 16 → d.ce.chainLive c < 2 → d.cbi.txq.length < 8 →
        (t.slot n).st = .claiming ∧
        t.cbi = { d.cbi with txq := d.cbi.txq ++ [TxEntry.fresh (.claim n) .cueEngine] }) ∧
      (z.start = .afterPrevious → (t.slot n).st = .armed ∧ (t.slot n).held = false ∧ t.cbi = d.cbi)) := by
  intro x z t
  refine ⟨fun h => if_neg ?_, fun hst hc hr hd h1 h3 hs hn hl => ?_⟩
  · rintro ⟨-, -, hd, h1, h3, hs⟩
    rcases h with h | h | h | h
    · change (d.slot i).remaining = 0 at h
      omega
    · change 4 ≤ (d.slot i).remaining at h
      omega
    · exact Bool.false_ne_true (hs.symm.trans h)
    · exact hd h
  · have ht : t = _ := stepPreroll_loaded hst hc hr hd h1 h3 hs hn hl
    have other : i ≠ n := by
      rintro rfl
      exact nomatch hst.symm.trans hl
    have slot : (((d.modSlot i (fun y => { y with succDone := true })).modChain c (Chain.arms n)).slot n) = d.slot n := by
      rw [slot_modChain, slot_modSlot_ne other]
    rw [ht]
    obtain ⟨chain, pred⟩ := tryStart_run (fc := fc) (j := n) (i := n) (d := ((d.modSlot i (fun y =>
      { y with succDone := true })).modChain c (Chain.arms n)).modSlot n (CueSlot.armedNow fc c (some i) false))
    refine ⟨?_, ?_, ?_, ?_, fun hi ha hlive hfull hroom => ?_, fun hp => ?_⟩
    · rw [slot_tryStart_ne (Ne.symm other), slot_modSlot_ne (Ne.symm other), slot_modChain, slot_modSlot_self]
    · rw [chain, slot_modSlot_self]
      rfl
    · rw [pred, slot_modSlot_self]
      rfl
    · rw [chain_tryStart, chain_modSlot, chain_modChain_self]
      rfl
    · have dead : (((d.modSlot i (fun y => { y with succDone := true })).modChain c (Chain.arms n)).slot n).st.live =
          false := by
        rw [slot, hl]
        rfl
      obtain ⟨live, full⟩ := counts_modSlot (c := c) (f := CueSlot.armedNow fc c (some i) false) dead rfl
      obtain ⟨live', full'⟩ := counts_note (d := d) (i := i) (c := c)
      rw [tryStart_claims (c := c)]
      · refine ⟨?_, rfl⟩
        rw [slot_modSlot_self]
        rfl
      · rw [slot_modSlot_self]
        rfl
      · rw [slot_modSlot_self]
        exact startHolds_immediate (by rw [slot]; exact hi)
      · rw [slot_modSlot_self, slot]
        exact ha
      · rw [slot_modSlot_self]
        rfl
      · rw [chain_modSlot, chain_modChain_self]
        exact hr
      · rw [live]
        exact live'.trans_lt hlive
      · rw [full]
        exact full'.trans_lt hfull
      · exact hroom
    · have waits : (((d.modSlot i (fun y => { y with succDone := true })).modChain c (Chain.arms n)).modSlot n
          (CueSlot.armedNow fc c (some i) false)).slot n = { (d.slot n).armedFor c (some i) false with held := false } := by
        rw [slot_modSlot_self, slot]
        have idle : ((d.slot n).armedFor c (some i) false).startHolds fc = false := startHolds_afterPrevious hp rfl
        rw [CueSlot.armedNow, idle]
      rw [tryStart_of_not_held (by rw [waits]), waits]
      exact ⟨rfl, rfl, rfl⟩

end

end Sys2Proof.Machine

namespace Sys2Proof.Machine

/-! ## A cue through the boundary work (R144, R145) -/

/-- The slot but for what is noted of its start, of its predecessor and of its succession; that the predecessor has ended is
not forgotten. -/
def CueSlot.Noted (x y : CueSlot) : Prop :=
  ∃ h p s, y = { x with held := h, predEnded := p, succDone := s } ∧ (x.predEnded = true → p = true)

/-- A cue that the boundary work leaves in its state unless it ends it or puts it on air. -/
def CueSlot.Rests (x : CueSlot) : Prop := x.st = .scheduled ∨ x.st = .onAir ∨ (x.st = .armed ∧ x.cue.announce = false)

/-- The count of a cue after step 2. -/
def Desk.countOf (i : Slot) (d : Desk) : Nat :=
  if (d.slot i).st = .onAir ∧ d.runsSlot i = true ∧ (d.slot i).cue.duration ≠ 0 then (d.slot i).remaining - 1
  else (d.slot i).remaining

section
variable {d e : Desk} {fc : FieldCount} {i j n : Slot} {c : ChainNo} {x y z : CueSlot} {l : List EndedCue}

theorem CueSlot.Noted.refl (x : CueSlot) : x.Noted x := ⟨_, _, _, rfl, id⟩

theorem CueSlot.Noted.trans (h : x.Noted y) (h' : y.Noted z) : x.Noted z := by
  obtain ⟨held, p, s, rfl, mono⟩ := h
  obtain ⟨held', p', s', rfl, mono'⟩ := h'
  exact ⟨held', p', s', rfl, mono' ∘ mono⟩

theorem CueSlot.Noted.rests (h : x.Noted y) (hx : x.Rests) : y.Rests := by
  obtain ⟨held, p, s, rfl, -⟩ := h
  exact hx

theorem CueSlot.Noted.st_eq (h : x.Noted y) : y.st = x.st := by
  obtain ⟨held, p, s, rfl, -⟩ := h
  rfl

theorem CueSlot.Noted.cue_eq (h : x.Noted y) : y.cue = x.cue := by
  obtain ⟨held, p, s, rfl, -⟩ := h
  rfl

theorem CueSlot.Noted.chain_eq (h : x.Noted y) : y.chain = x.chain := by
  obtain ⟨held, p, s, rfl, -⟩ := h
  rfl

theorem CueSlot.Noted.remaining_eq (h : x.Noted y) : y.remaining = x.remaining := by
  obtain ⟨held, p, s, rfl, -⟩ := h
  rfl

/-- What the notes leave of a claim. -/
theorem CueSlot.Noted.claim_eq (h : x.Noted y) :
    y.claim = x.claim ∧ y.beaconField = x.beaconField ∧ y.endOrdered = x.endOrdered ∧ y.pred = x.pred := by
  obtain ⟨held, p, s, rfl, -⟩ := h
  exact ⟨rfl, rfl, rfl, rfl⟩

theorem CueSlot.Noted.predEnded_mono (h : x.Noted y) (hp : x.predEnded = true) : y.predEnded = true := by
  obtain ⟨held, p, s, rfl, mono⟩ := h
  exact mono hp

theorem noted_held (b : Bool) (h : y = { x with held := b }) : x.Noted y := ⟨b, _, _, h, id⟩

theorem noted_succDone (b : Bool) (h : y = { x with succDone := b }) : x.Noted y := ⟨_, _, b, h, id⟩

theorem CueSlot.Rests.ne_loaded (h : x.Rests) : x.st ≠ .loaded := by
  rintro hl
  rcases h with h | h | ⟨h, -⟩
  all_goals exact nomatch h.symm.trans hl

theorem CueSlot.Rests.ne_ending (h : x.Rests) : x.st ≠ .ending := by
  rintro hl
  rcases h with h | h | ⟨h, -⟩
  all_goals exact nomatch h.symm.trans hl

/-- A fold over the slots changes a slot in its own step, when the other steps leave it. -/
theorem slot_fold_own {f : Desk → Slot → Desk} (hf : ∀ (x : Desk) j, j ≠ i → (f x j).slot i = x.slot i) :
    ∃ front : List Slot, (front.foldl f d).slot i = d.slot i ∧ (allSlots.foldl f d).slot i = (f (front.foldl f d) i).slot i := by
  obtain ⟨front, back, split⟩ := List.append_of_mem (List.mem_finRange i)
  have nodup : (front ++ i :: back).Nodup := split ▸ List.nodup_finRange 32
  obtain ⟨-, hback, apart⟩ := List.nodup_append.mp nodup
  have inFront (j : Slot) (hj : j ∈ front) : j ≠ i := apart j hj i List.mem_cons_self
  have inBack (j : Slot) (hj : j ∈ back) : j ≠ i := fun h => (List.nodup_cons.mp hback).1 (h ▸ hj)
  have split' : allSlots = front ++ i :: back := split
  refine ⟨front, slot_fold f front (fun _ => True) (fun x j hj _ => hf x j (inFront j hj)) trivial, ?_⟩
  rw [split', List.foldl_append, List.foldl_cons]
  exact slot_fold f back (fun _ => True) (fun x j hj _ => hf x j (inBack j hj)) trivial

/-! ### Steps 1 and 2 -/

theorem runsSlot_congr (hs : (e.slot i).chain = (d.slot i).chain) (hc : ∀ c, (e.chain c).st = (d.chain c).st) :
    e.runsSlot i = d.runsSlot i := by
  unfold Desk.runsSlot
  rw [hs]
  cases (d.slot i).chain with
  | none => rfl
  | some c => exact congrArg (· == ChainSt.running) (hc c)

theorem slot_countDown_ne (h : j ≠ i) : (d.countDown j).slot i = d.slot i := by
  rw [slot_countDown, if_neg fun hj => h hj.1]

theorem slot_counted : ∃ b, d.counted.slot i = { d.slot i with held := b, remaining := d.countOf i } := by
  obtain ⟨b, edge⟩ := slot_stepTrigger (d := d) (i := i) d.consumers
  obtain ⟨front, before, own⟩ := slot_fold_own (f := Desk.countDown) (d := d.stepTrigger d.consumers) (i := i)
    fun _ _ => slot_countDown_ne
  have runs : (front.foldl Desk.countDown (d.stepTrigger d.consumers)).runsSlot i = d.runsSlot i := by
    refine runsSlot_congr (by rw [before, edge]) fun c => ?_
    rw [chain_fold (fun _ _ => chain_countDown) front, chain_stepTrigger]
  refine ⟨b, ?_⟩
  rw [Desk.counted, own, slot_countDown, before, runs, edge]
  unfold Desk.countOf
  by_cases h : (d.slot i).st = .onAir ∧ d.runsSlot i = true ∧ (d.slot i).cue.duration ≠ 0
  · rw [if_pos ⟨rfl, h⟩, if_pos h]
  · rw [if_neg fun hn => h hn.2, if_neg h]

theorem runsSlot_counted : d.counted.runsSlot i = d.runsSlot i := by
  obtain ⟨b, hb⟩ := slot_counted (d := d) (i := i)
  exact runsSlot_congr (by rw [hb]) fun c => congrArg Chain.st chain_counted

theorem chainIn_iff {cs : List ChainNo} : x.chainIn cs = true ↔ ∃ c, x.chain = some c ∧ c ∈ cs := by
  unfold CueSlot.chainIn
  cases x.chain <;> simp

/-- Which cues end at a boundary (R145, step 3). -/
theorem dueToEnd_iff : d.counted.dueToEnd d.consumers i = true ↔
    ((d.slot i).endOrdered = true ∧ ((d.slot i).st = .scheduled ∨ (d.slot i).st = .onAir)) ∨
    ((d.slot i).st = .onAir ∧ d.runsSlot i = true ∧ (((d.slot i).cue.duration ≠ 0 ∧ (d.slot i).remaining ≤ 1) ∨
      ((d.slot i).cue.demandEnd = true ∧ ∃ c, (d.slot i).chain = some c ∧ c ∈ d.consumers))) := by
  obtain ⟨b, hb⟩ := slot_counted (d := d) (i := i)
  have count (ha : (d.slot i).st = .onAir) (hr : d.runsSlot i = true) :
      ((d.slot i).cue.duration ≠ 0 ∧ d.countOf i = 0) ↔ ((d.slot i).cue.duration ≠ 0 ∧ (d.slot i).remaining ≤ 1) := by
    refine and_congr_right fun hd => ?_
    rw [Desk.countOf, if_pos ⟨ha, hr, hd⟩]
    omega
  unfold Desk.dueToEnd
  rw [runsSlot_counted, hb]
  simp only [Bool.or_eq_true, Bool.and_eq_true, beq_iff_eq, bne_iff_ne, and_assoc]
  refine or_congr_right (and_congr_right fun ha => and_congr_right fun hr => ?_)
  rw [count ha hr, chainIn_iff]

theorem mem_dueNow : i ∈ d.dueNow.map EndedCue.slot ↔ d.counted.dueToEnd d.consumers i = true := by
  rw [Desk.dueNow, Desk.endings_slots, List.mem_filter]
  exact and_iff_right (List.mem_finRange i)

/-! ### Steps 3 to 5 -/

theorem noted_markPredEnded : x.Noted (markPredEnded c j x) := by
  unfold markPredEnded
  split
  · exact ⟨_, true, _, rfl, fun _ => rfl⟩
  · exact .refl x

theorem slot_stepEnd_other {u : EndedCue} (h : u.slot ≠ i) (hl : (d.slot i).st ≠ .loaded) (he : (d.slot i).st ≠ .ending) :
    (d.stepEnd fc u).slot i = (d.endForChain u.slot).slot i := by
  unfold Desk.stepEnd
  rw [slot_checkChainOf, slot_beginEnd_ne h hl he]

theorem noted_stepEnd {u : EndedCue} (h : u.slot ≠ i) (hr : (d.slot i).Rests) :
    (d.slot i).Noted ((d.stepEnd fc u).slot i) := by
  rw [slot_stepEnd_other h hr.ne_loaded hr.ne_ending, slot_endForChain]
  split
  · exact noted_markPredEnded
  · exact .refl _

theorem noted_fold {α : Type} {f : Desk → α → Desk} (l : List α) (hr : (d.slot i).Rests)
    (hf : ∀ (x : Desk), ∀ a ∈ l, (x.slot i).Rests → (x.slot i).Noted ((f x a).slot i)) :
    (d.slot i).Noted ((l.foldl f d).slot i) := by
  induction l generalizing d with
  | nil => exact .refl _
  | cons a l ih =>
    have first := hf d a List.mem_cons_self hr
    exact first.trans (ih (first.rests hr) fun x b hb => hf x b (List.mem_cons_of_mem a hb))

theorem noted_stepEnds (h : i ∉ l.map EndedCue.slot) (hr : (d.slot i).Rests) :
    (d.slot i).Noted ((l.foldl (Desk.stepEnd fc) d).slot i) :=
  noted_fold l hr fun _ _ hu => noted_stepEnd fun hi => h (hi ▸ List.mem_map_of_mem hu)

theorem noted_stepSucceed (u : EndedCue) (hr : (d.slot i).Rests) : (d.slot i).Noted ((d.stepSucceed fc u).slot i) := by
  obtain ⟨b, hb⟩ := slot_stepSucceed (fc := fc) u hr.ne_loaded
  exact noted_succDone b hb

theorem noted_testStart : (d.slot i).Noted ((d.testStart fc j).slot i) := by
  unfold Desk.testStart
  dsimp only
  split
  · rw [slot_modSlot]
    split
    next h => exact noted_held true (by rw [h])
    next => exact .refl _
  · exact .refl _

theorem slot_tryStart_rests (hr : (d.slot i).Rests) : (d.tryStart fc j).slot i = d.slot i := by
  by_cases h : j = i
  · subst h
    refine congrArg (fun x => Desk.slot x j) (if_neg fun ⟨hst, _, ha, _⟩ => ?_)
    rcases hr with h | h | ⟨-, h⟩
    · exact nomatch h.symm.trans hst
    · exact nomatch h.symm.trans hst
    · exact Bool.false_ne_true (h.symm.trans ha)
  · exact slot_tryStart_ne h

theorem slot_retry_rests (hr : (d.slot i).Rests) : (d.retry fc).slot i = d.slot i := by
  unfold Desk.retry
  have offers := slot_fold (d := d) (i := i) (fun x j => x.offerWithdraw j) allSlots (fun x => x.Rests)
    (fun _ _ _ h => slot_offerWithdraw h.ne_ending) hr
  have rests : ((allSlots.foldl (fun x j => x.offerWithdraw j) d).slot i).Rests := by
    rw [offers]
    exact hr
  exact (slot_fold (fun x j => x.tryStart fc j) allSlots (fun x => x.Rests)
    (fun _ _ _ h => slot_tryStart_rests h) rests).trans offers

/-- Steps 4 and 5 leave a cue but for notes. -/
theorem noted_afterEnds (hr : (d.slot i).Rests) : (d.slot i).Noted
    (((allSlots.foldl (fun x j => x.testStart fc j) (l.foldl (Desk.stepSucceed fc) d)).retry fc).slot i) := by
  have succeeded := noted_fold (f := Desk.stepSucceed fc) l hr fun _ u _ => noted_stepSucceed u
  have tested := noted_fold (f := fun x j => x.testStart fc j) allSlots (succeeded.rests hr)
    fun _ _ _ _ => noted_testStart (fc := fc)
  have upTo := succeeded.trans tested
  rw [slot_retry_rests (upTo.rests hr)]
  exact upTo

/-- A cue that is not due to end is only noted of before step 6. -/
theorem noted_readied (hr : (d.slot i).Rests) (hd : ¬d.counted.dueToEnd d.consumers i = true) :
    ({ d.slot i with remaining := d.countOf i } : CueSlot).Noted ((d.readied fc).slot i) := by
  obtain ⟨b, hb⟩ := slot_counted (d := d) (i := i)
  have rests : (d.counted.slot i).Rests := by
    rw [hb]
    exact hr
  have first : ({ d.slot i with remaining := d.countOf i } : CueSlot).Noted (d.counted.slot i) := noted_held b hb
  have ends := noted_stepEnds (fc := fc) (fun h => hd (mem_dueNow.mp h)) rests
  exact (first.trans ends).trans (noted_afterEnds (ends.rests rests))

/-! ### Steps 6 and 7 -/

theorem predEnded_stepOnAir {ripe : List Slot} : ((d.stepOnAir fc ripe i).slot i).predEnded = (d.slot i).predEnded := by
  unfold Desk.stepOnAir
  split
  · split
    · rw [slot_goOnAir_self]
    · split
      · unfold Desk.regionFull
        split
        · rfl
        · rw [slot_post, slot_modSlot_self]
      · split
        · rfl
        · rw [slot_goOnAir_self]
  · rfl

theorem chain_regionFull : (d.regionFull fc j).chain c = d.chain c := by
  unfold Desk.regionFull
  split <;> rfl

theorem st_chain_goOnAir : ((d.goOnAir fc j).chain c).st = (d.chain c).st := by
  unfold Desk.goOnAir
  dsimp only
  have aired (b : ChainNo) : ((((d.modSlot j (fun z => { z with st := .onAir, remaining := z.cue.duration })).modChain b
      (Chain.airs j)).chain c)).st = (d.chain c).st := by
    rw [chain_modChain]
    split
    next h => exact h ▸ rfl
    next => rfl
  split
  · split
    · exact aired _
    · rfl
  · split
    · exact aired _
    · rfl

theorem st_chain_stepOnAir {ripe : List Slot} : ((d.stepOnAir fc ripe j).chain c).st = (d.chain c).st := by
  unfold Desk.stepOnAir
  split
  · split
    · exact st_chain_goOnAir
    · split
      · rw [chain_regionFull]
      · split
        · rfl
        · exact st_chain_goOnAir
  · rfl

/-- A cue at its own step 6. -/
theorem onAirs_own (fc : FieldCount) (d : Desk) (i : Slot) (ripe : List Slot) : ∃ e : Desk, e.slot i = d.slot i ∧
    (∀ c, (e.chain c).st = (d.chain c).st) ∧
    (allSlots.foldl (Desk.stepOnAir fc ripe) d).slot i = (e.stepOnAir fc ripe i).slot i := by
  obtain ⟨front, before, own⟩ := slot_fold_own (f := Desk.stepOnAir fc ripe) (d := d) (i := i)
    fun _ _ h => slot_stepOnAir_ne h ripe
  refine ⟨_, before, fun c => ?_, own⟩
  have keeps (l : List Slot) : ∀ x : Desk, ((l.foldl (Desk.stepOnAir fc ripe) x).chain c).st = (x.chain c).st := by
    induction l with
    | nil => exact fun _ => rfl
    | cons j l ih => exact fun x => (ih _).trans st_chain_stepOnAir
  exact keeps front d

/-- Pre-roll leaves a cue that is neither LOADED nor ARMED but for notes. -/
theorem noted_prerolls (hl : (d.slot i).st ≠ .loaded) (ha : (d.slot i).st ≠ .armed) :
    (d.slot i).Noted ((allSlots.foldl (Desk.stepPreroll fc) d).slot i) := by
  generalize allSlots = l
  induction l generalizing d with
  | nil => exact .refl _
  | cons j l ih =>
    obtain ⟨b, hb⟩ := slot_stepPreroll (fc := fc) (j := j) hl ha
    have rest := ih (d := d.stepPreroll fc j) (by rw [hb]; exact hl) (by rw [hb]; exact ha)
    exact (noted_succDone b hb).trans rest

theorem work_prerolls : Desk.Work false d (allSlots.foldl (Desk.stepPreroll fc) d) :=
  .fold (Desk.stepPreroll fc) (fun _ _ => .stepPreroll) allSlots d

/-- A cue that goes on air at the boundary meets R144 at its step 6. -/
theorem goes_of_onAir (hn : ((d.readied fc).slot i).st ≠ .onAir) (hf : ((d.ceBoundary fc).slot i).st = .onAir) :
    ∃ e : Desk, e.slot i = (d.readied fc).slot i ∧ (∀ c, (e.chain c).st = ((d.readied fc).chain c).st) ∧
      e.mayGoOnAir fc d.heldSlots i = true ∧ ((d.ceBoundary fc).slot i).predEnded = true := by
  rw [ceBoundary_eq] at hf ⊢
  obtain ⟨e, same, chains, own⟩ := onAirs_own fc (d.readied fc) i d.heldSlots
  have aired := (work_prerolls (fc := fc)).airborne i (.inr hf)
  have onAir := aired.1.symm.trans hf
  have may : e.mayGoOnAir fc d.heldSlots i = true := by
    by_contra hm
    refine hn ?_
    rw [own, stepOnAir_not (eq_false_of_ne_true hm), same] at onAir
    exact onAir
  refine ⟨e, same, chains, may, ?_⟩
  obtain ⟨-, ended, -⟩ := mayGoOnAir_iff.mp may
  obtain ⟨h, p, s, hp, mono⟩ := noted_prerolls (fc := fc) (i := i)
    (d := allSlots.foldl (Desk.stepOnAir fc d.heldSlots) (d.readied fc))
    (by rw [onAir]; exact nofun) (by rw [onAir]; exact nofun)
  rw [hp]
  refine mono ?_
  rw [own, predEnded_stepOnAir]
  exact ended

end

end Sys2Proof.Machine

namespace Sys2Proof.Machine

/-! ## A cue that ends at the boundary (R145, R146) -/

/-- The cue is ENDING, with its WITHDRAW in the queue unless the queue is full. -/
def Desk.Leaving (i : Slot) (d : Desk) : Prop := (d.slot i).st = .ending ∧
  (((d.slot i).wdQueued = true ∧ ∃ w ∈ d.cbi.txq, w.what = .withdraw i) ∨ 8 ≤ d.cbi.txq.length)

section
variable {d e : Desk} {fc : FieldCount} {i j n : Slot} {c : ChainNo} {u : EndedCue} {l : List EndedCue}

/-- What changes neither the slot's state nor its mark, and takes nothing from the queue. -/
theorem leaving_of (h : d.Leaving i) (hst : (e.slot i).st = (d.slot i).st) (hwd : (e.slot i).wdQueued = (d.slot i).wdQueued)
    (hq : d.cbi.txq.Sublist e.cbi.txq) : e.Leaving i := by
  obtain ⟨ending, queued⟩ := h
  refine ⟨hst.trans ending, queued.imp ?_ fun full => full.trans hq.length_le⟩
  exact fun ⟨mark, w, hw, what⟩ => ⟨hwd.trans mark, w, hq.subset hw, what⟩

theorem leaving_of_same (h : d.Leaving i) (hs : e.slot i = d.slot i) (hq : d.cbi.txq.Sublist e.cbi.txq) : e.Leaving i :=
  leaving_of h (by rw [hs]) (by rw [hs]) hq

theorem sublist_of_cbi (h : e.cbi = d.cbi) : d.cbi.txq.Sublist e.cbi.txq := by rw [h]

theorem sublist_enqueueWithdraw (x : Cbi) (owner : TxOwner) : x.txq.Sublist (x.enqueueWithdraw j owner).txq := by
  unfold Cbi.enqueueWithdraw Cbi.enqueue
  split
  · exact sublist_passAhead _ _
  · exact List.sublist_append_left ..

theorem sublist_offerWithdraw : d.cbi.txq.Sublist (d.offerWithdraw j).cbi.txq := by
  unfold Desk.offerWithdraw
  dsimp only
  split
  · exact sublist_enqueueWithdraw _ _
  · exact List.Sublist.refl _

theorem sublist_tryStart : d.cbi.txq.Sublist (d.tryStart fc j).cbi.txq := by
  rcases cbi_tryStart_cases fc d j with h | h
  · rw [h]
  · rw [h]
    exact List.sublist_append_left ..

theorem slot_offerWithdraw_ne (h : j ≠ i) : (d.offerWithdraw j).slot i = d.slot i := by
  unfold Desk.offerWithdraw
  dsimp only
  split
  · exact slot_modSlot_ne h _ _
  · rfl

/-- An ENDING cue has offered its WITHDRAW. -/
theorem leaving_offerWithdraw_self (hst : (d.slot i).st = .ending)
    (hw : (d.slot i).wdQueued = true → d.Leaving i) : (d.offerWithdraw i).Leaving i := by
  unfold Desk.offerWithdraw
  dsimp only
  split
  next h =>
    refine ⟨?_, .inl ⟨?_, _, mem_enqueueWithdraw.mpr (.inl rfl), rfl⟩⟩
    · rw [slot_modSlot_self]
      exact hst
    · rw [slot_modSlot_self]
  next h =>
    cases hq : (d.slot i).wdQueued with
    | true => exact hw hq
    | false =>
      have full : ¬d.cbi.hasRoom = true := fun room => h ⟨hst, hq, room⟩
      unfold Cbi.hasRoom at full
      rw [decide_eq_true_iff] at full
      exact ⟨hst, .inr (Nat.not_lt.mp full)⟩

theorem leaving_offerWithdraw (h : d.Leaving i) : (d.offerWithdraw j).Leaving i := by
  by_cases hj : j = i
  · subst hj
    exact leaving_offerWithdraw_self h.1 fun _ => h
  · exact leaving_of_same h (slot_offerWithdraw_ne hj) sublist_offerWithdraw

theorem Desk.Leaving.ne_armed (h : d.Leaving i) : (d.slot i).st ≠ .armed := by
  rw [h.1]
  exact nofun

theorem Desk.Leaving.ne_loaded (h : d.Leaving i) : (d.slot i).st ≠ .loaded := by
  rw [h.1]
  exact nofun

theorem leaving_fold {α : Type} {f : Desk → α → Desk} (l : List α)
    (hf : ∀ (x : Desk), ∀ a ∈ l, x.Leaving i → (f x a).Leaving i) (h : d.Leaving i) : (l.foldl f d).Leaving i := by
  induction l generalizing d with
  | nil => exact h
  | cons a l ih => exact ih (fun x b hb => hf x b (List.mem_cons_of_mem a hb)) (hf d a List.mem_cons_self h)

theorem leaving_retry (h : d.Leaving i) : (d.retry fc).Leaving i := by
  unfold Desk.retry
  have offered := leaving_fold (f := fun x j => x.offerWithdraw j) allSlots (fun _ _ _ h => leaving_offerWithdraw h) h
  exact leaving_fold (f := fun x j => x.tryStart fc j) allSlots
    (fun _ _ _ h => leaving_of_same h (slot_tryStart h.ne_armed) sublist_tryStart) offered

theorem leaving_stepEnd (hu : u.slot ≠ i) (h : d.Leaving i) : (d.stepEnd fc u).Leaving i := by
  obtain ⟨b, marked⟩ := slot_endForChain_marked (d := d) (i := i) (j := u.slot)
  have told : (d.endForChain u.slot).Leaving i :=
    leaving_of h (by rw [marked]) (by rw [marked]) (sublist_of_cbi cbi_endForChain)
  have begun : (d.beginEnd fc u.slot).Leaving i := by
    unfold Desk.beginEnd
    dsimp only
    split
    · refine leaving_of_same told ?_ (sublist_offerWithdraw (d := (d.endForChain u.slot).modSlot u.slot _))
      rw [slot_offerWithdraw_ne hu, slot_modSlot_ne hu]
    · exact leaving_of_same told (slot_ended_ne hu told.ne_loaded) (sublist_of_cbi cbi_ended)
  exact leaving_of_same begun (slot_checkChainOf _) (sublist_of_cbi (cbi_checkChainOf _))

/-- An announced cue that is due to end is ENDING. -/
theorem leaving_stepEnd_self (ha : (d.slot u.slot).cue.announce = true) : (d.stepEnd fc u).Leaving u.slot := by
  have begun : (d.beginEnd fc u.slot).Leaving u.slot := by
    unfold Desk.beginEnd
    dsimp only
    rw [if_pos ha]
    refine leaving_offerWithdraw_self ?_ fun hq => ?_
    · rw [slot_modSlot_self]
    · rw [slot_modSlot_self] at hq
      exact absurd hq Bool.false_ne_true
  exact leaving_of_same begun (slot_checkChainOf _) (sublist_of_cbi (cbi_checkChainOf _))

theorem leaving_stepSucceed (h : d.Leaving i) : (d.stepSucceed fc u).Leaving i := by
  obtain ⟨b, hb⟩ := slot_stepSucceed (fc := fc) u h.ne_loaded
  exact leaving_of h (by rw [hb]) (by rw [hb]) (sublist_of_cbi (cbi_stepSucceed u))

theorem leaving_stepOnAir {ripe : List Slot} (h : d.Leaving i) : (d.stepOnAir fc ripe j).Leaving i := by
  refine leaving_of_same h (slot_stepOnAir ?_ h.ne_armed ripe) (sublist_of_cbi (cbi_stepOnAir ripe))
  rw [h.1]
  exact nofun

theorem sublist_stepPreroll : d.cbi.txq.Sublist (d.stepPreroll fc j).cbi.txq := by
  unfold Desk.stepPreroll
  dsimp only
  split
  · split
    · unfold Desk.tryArmed
      split
      · exact (sublist_of_cbi (cbi_succeed false)).trans sublist_tryStart
      · exact sublist_of_cbi (cbi_succeed false)
    · exact List.Sublist.refl _
  · exact List.Sublist.refl _

theorem leaving_stepPreroll (h : d.Leaving i) : (d.stepPreroll fc j).Leaving i := by
  obtain ⟨b, hb⟩ := slot_stepPreroll (fc := fc) (j := j) h.ne_loaded h.ne_armed
  exact leaving_of h (by rw [hb]) (by rw [hb]) sublist_stepPreroll

/-! ### The cue among those that are due -/

/-- The boundary work by the place of a cue among those due to end. -/
theorem readied_split {front back : List EndedCue} (h : d.dueNow = front ++ u :: back) : d.readied fc =
    (allSlots.foldl (fun x j => x.testStart fc j) (d.dueNow.foldl (Desk.stepSucceed fc)
      (back.foldl (Desk.stepEnd fc) ((front.foldl (Desk.stepEnd fc) d.counted).stepEnd fc u)))).retry fc := by
  have ends : d.dueNow.foldl (Desk.stepEnd fc) d.counted =
      back.foldl (Desk.stepEnd fc) ((front.foldl (Desk.stepEnd fc) d.counted).stepEnd fc u) := by
    rw [h, List.foldl_append, List.foldl_cons]
  rw [Desk.readied, boundaryEndings_eq, ends]

/-- A cue that is due stands once among those due. -/
theorem dueNow_split (h : d.counted.dueToEnd d.consumers i = true) : ∃ front u back, d.dueNow = front ++ u :: back ∧
    u.slot = i ∧ i ∉ front.map EndedCue.slot ∧ i ∉ back.map EndedCue.slot := by
  obtain ⟨u, hu, rfl⟩ := List.mem_map.mp (mem_dueNow.mpr h)
  obtain ⟨front, back, split⟩ := List.append_of_mem hu
  have nodup := Desk.nodup_endings d.consumers d.counted
  change (d.dueNow.map EndedCue.slot).Nodup at nodup
  rw [split, List.map_append, List.map_cons] at nodup
  obtain ⟨-, hback, apart⟩ := List.nodup_append.mp nodup
  exact ⟨front, u, back, split, rfl, fun hf => apart _ hf _ List.mem_cons_self rfl, (List.nodup_cons.mp hback).1⟩

theorem rests_counted (h : (d.slot i).st = .scheduled ∨ (d.slot i).st = .onAir) :
    (d.counted.slot i).Rests ∧ (d.counted.slot i).cue = (d.slot i).cue := by
  obtain ⟨b, hb⟩ := slot_counted (d := d) (i := i)
  rw [hb]
  exact ⟨or_assoc.mp (.inl h), rfl⟩

theorem st_of_due (h : d.counted.dueToEnd d.consumers i = true) : (d.slot i).st = .scheduled ∨ (d.slot i).st = .onAir := by
  rcases dueToEnd_iff.mp h with ⟨-, h⟩ | ⟨h, -⟩
  · exact h
  · exact .inr h

/-- An announced cue that is due is ENDING at the end of the boundary work. -/
theorem leaving_ceBoundary (h : d.counted.dueToEnd d.consumers i = true) (ha : (d.slot i).cue.announce = true) :
    (d.ceBoundary fc).Leaving i := by
  obtain ⟨front, u, back, split, hu, hfront, hback⟩ := dueNow_split h
  obtain ⟨rests, cue⟩ := rests_counted (st_of_due h)
  have before := noted_stepEnds (fc := fc) hfront rests
  have announced : ((front.foldl (Desk.stepEnd fc) d.counted).slot u.slot).cue.announce = true := by
    rw [hu, before.cue_eq, cue]
    exact ha
  have own := leaving_stepEnd_self (fc := fc) announced
  rw [hu] at own
  have ended := leaving_fold (f := Desk.stepEnd fc) back
    (fun _ v hv => leaving_stepEnd fun hi : v.slot = i => hback (hi ▸ List.mem_map_of_mem hv)) own
  have succeeded := leaving_fold (f := Desk.stepSucceed fc) d.dueNow (fun _ _ _ => leaving_stepSucceed) ended
  have tested := leaving_fold (f := fun x j => x.testStart fc j) allSlots
    (fun _ _ _ h => leaving_of_same h (slot_testStart h.ne_armed) (sublist_of_cbi cbi_testStart)) succeeded
  have readied : (d.readied fc).Leaving i := by
    rw [readied_split split]
    exact leaving_retry tested
  rw [ceBoundary_eq]
  exact leaving_fold allSlots (fun _ _ _ => leaving_stepPreroll)
    (leaving_fold allSlots (fun _ _ _ => leaving_stepOnAir) readied)

theorem grounded_stepEnd_self (ha : (d.slot u.slot).cue.announce = false) :
    ((d.stepEnd fc u).slot u.slot).Grounded := by
  unfold Desk.stepEnd Desk.beginEnd
  rw [slot_checkChainOf]
  dsimp only
  rw [if_neg (ne_true_of_eq_false ha)]
  exact grounded_ended

/-- An unannounced cue that is due is off the air before the others go on air. -/
theorem grounded_readied (h : d.counted.dueToEnd d.consumers i = true) (ha : (d.slot i).cue.announce = false) :
    ((d.readied fc).slot i).Grounded := by
  obtain ⟨front, u, back, split, hu, hfront, hback⟩ := dueNow_split h
  obtain ⟨rests, cue⟩ := rests_counted (st_of_due h)
  have unannounced : ((front.foldl (Desk.stepEnd fc) d.counted).slot u.slot).cue.announce = false := by
    rw [hu, (noted_stepEnds (fc := fc) hfront rests).cue_eq, cue]
    exact ha
  have own := grounded_stepEnd_self (fc := fc) unannounced
  rw [hu] at own
  have nodup := Desk.nodup_endings d.consumers d.counted
  change (d.dueNow.map EndedCue.slot).Nodup at nodup
  rw [split, List.map_append, List.map_cons] at nodup
  obtain ⟨-, nodupBack, apart⟩ := List.nodup_append.mp nodup
  have live (v : EndedCue) (hv : v ∈ back) :
      (((front.foldl (Desk.stepEnd fc) d.counted).stepEnd fc u).slot v.slot).st = .scheduled ∨
      (((front.foldl (Desk.stepEnd fc) d.counted).stepEnd fc u).slot v.slot).st = .onAir := by
    have due : v ∈ d.dueNow := by
      rw [split]
      exact List.mem_append_right front (List.mem_cons_of_mem u hv)
    have st : (d.counted.slot v.slot).st = .scheduled ∨ (d.counted.slot v.slot).st = .onAir := Desk.st_of_mem_endings due
    have restsV : (d.counted.slot v.slot).Rests := or_assoc.mp (.inl st)
    have member : v.slot ∈ back.map EndedCue.slot := List.mem_map_of_mem hv
    have first := noted_stepEnds (fc := fc) (l := front)
      (fun hf => apart _ hf _ (List.mem_cons_of_mem _ member) rfl) restsV
    have second := noted_stepEnd (fc := fc) (u := u) (fun e => (List.nodup_cons.mp nodupBack).1 (e ▸ member))
      (first.rests restsV)
    rw [(first.trans second).st_eq]
    exact st
  have ended : Desk.Work false ((front.foldl (Desk.stepEnd fc) d.counted).stepEnd fc u) _ :=
    .stepEnds (fc := fc) back (List.nodup_cons.mp nodupBack).2 live
  have succeeded := ended.trans (.fold (Desk.stepSucceed fc) (fun _ v => .stepSucceed v) d.dueNow _)
  have tested := succeeded.trans (.fold (fun x j => x.testStart fc j) (fun _ _ => .testStart) allSlots _)
  rw [readied_split split]
  exact (tested.trans .retry).grounded own

end

end Sys2Proof.Machine

namespace Sys2Proof.Machine

/-! ## The Cue Engine at a field boundary (R144, R145) -/

section
variable {d e : Desk} {fc : FieldCount} {i n : Slot} {c : ChainNo}

/-- A slot that is not FREE keeps its record. -/
theorem Desk.Work.record {air : Bool} (w : Desk.Work air d e) (h : (e.slot i).st ≠ .free) :
    (d.slot i).st ≠ .free ∧ (e.slot i).cue = (d.slot i).cue := by
  induction w with
  | trans _ _ first second =>
    obtain ⟨mid, cue⟩ := second h
    obtain ⟨start, cue'⟩ := first mid
    exact ⟨start, cue.trans cue'⟩
  | @slot d j f hm =>
    rw [slot_modSlot] at h ⊢
    by_cases hj : j = i
    · subst hj
      rw [if_pos rfl] at h ⊢
      cases hm with
      | mark hst _ hcue => exact ⟨hst ▸ h, hcue⟩
      | arm _ _ _ hst hy => exact ⟨by rw [hst]; exact nofun, by rw [hy]; rfl⟩
      | enter hst _ _ _ _ hcue => exact ⟨by rw [hst]; exact nofun, hcue⟩
      | rise _ hst _ _ hcue => exact ⟨CueSt.ne_free_of_live hst, hcue⟩
      | ending hst _ _ hcue => exact ⟨CueSt.ne_free_of_live hst, hcue⟩
      | unload hst hy => exact ⟨hst, by rw [hy]; rfl⟩
    · rw [if_neg hj] at h ⊢
      exact ⟨h, rfl⟩
  | @marks f d hf =>
    rw [slot_marks] at h ⊢
    obtain ⟨hst, -, hcue⟩ := hf (d.slot i)
    exact ⟨hst ▸ h, hcue⟩
  | @free d j _ =>
    rw [slot_freeSlot] at h ⊢
    by_cases hj : j = i
    · rw [if_pos hj] at h
      exact absurd rfl h
    · rw [if_neg hj] at h ⊢
      exact ⟨h, rfl⟩
  | _ => exact ⟨h, rfl⟩

theorem work_fromCount : Desk.Work true (d.stepTrigger d.consumers) (d.ceBoundary fc) := by
  have ended : Desk.Work true d.counted (d.dueNow.foldl (Desk.stepEnd fc) d.counted) :=
    .stepEnds _ (Desk.nodup_endings d.consumers d.counted) fun _ hx => Desk.st_of_mem_endings hx
  have counted : Desk.Work true (d.stepTrigger d.consumers) d.counted :=
    .fold Desk.countDown (fun _ _ => .countDown) allSlots _
  have ends := (counted.trans ended).trans (.fold (Desk.stepSucceed fc) (fun _ u => .stepSucceed u) d.dueNow _)
  exact ends.trans (.boundaryStarts _)

/-- A cue that runs in a chain RUNNING at step 6 ran in it before. -/
theorem runs_back (hs : (e.slot i).chain = (d.slot i).chain)
    (hc : ∀ c, (e.chain c).st = ((d.readied fc).chain c).st) (h : e.runsSlot i = true) : d.runsSlot i = true := by
  unfold Desk.runsSlot at h ⊢
  rw [hs] at h
  cases hx : (d.slot i).chain with
  | none =>
    rw [hx] at h
    exact absurd h Bool.false_ne_true
  | some c =>
    rw [hx] at h
    have running : ((d.readied fc).chain c).st = .running := (hc c).symm.trans (beq_iff_eq.mp h)
    rcases lets_readied (fc := fc) (d := d) c with same | idle
    · exact beq_iff_eq.mpr (same.symm.trans running)
    · exact nomatch running.symm.trans idle

theorem mem_heldSlots : i ∈ d.heldSlots ↔ (d.slot i).st = .armed ∧ (d.slot i).held = true := by
  unfold Desk.heldSlots
  rw [List.mem_filter, Bool.and_eq_true, beq_iff_eq]
  exact and_iff_right (List.mem_finRange i)

/-- A cue on air at the end that was not on air before goes at this boundary. -/
theorem goes (hn : (d.slot i).st ≠ .onAir) (hf : ((d.ceBoundary fc).slot i).st = .onAir) :
    ∃ e : Desk, e.slot i = (d.readied fc).slot i ∧ (∀ c, (e.chain c).st = ((d.readied fc).chain c).st) ∧
      e.mayGoOnAir fc d.heldSlots i = true ∧ ((d.ceBoundary fc).slot i).predEnded = true :=
  goes_of_onAir (fun h => hn ((work_readied.airborne i (.inr h)).1.symm.trans h)) hf

/-- An announced cue that goes on air meets R144. -/
theorem announced_goes (ha : (d.slot i).cue.announce = true) (hn : (d.slot i).st ≠ .onAir)
    (hf : ((d.ceBoundary fc).slot i).st = .onAir) :
    (d.slot i).st = .scheduled ∧ (d.slot i).endOrdered = false ∧ d.runsSlot i = true ∧
    ((d.ceBoundary fc).slot i).predEnded = true ∧
    (∃ q, (d.slot i).claim = some q ∧ q.e - fc ≠ 1 ∧ q.e - fc ≠ 2) ∧
    (∃ f, (d.slot i).beaconField = some f ∧ f ≠ fc) := by
  obtain ⟨e, same, chains, may, ended⟩ := goes hn hf
  obtain ⟨runs, -, alternatives⟩ := mayGoOnAir_iff.mp may
  rw [same] at alternatives
  rcases alternatives with ⟨hst, claim, beacon, order⟩ | ⟨hst, hu, -⟩
  · have scheduled := (work_readied.airborne i (.inl hst)).1.symm.trans hst
    have stays : ¬d.counted.dueToEnd d.consumers i = true := fun due =>
      nomatch (leaving_ceBoundary due ha).1.symm.trans hf
    have noted := noted_readied (fc := fc) (.inl scheduled) stays
    obtain ⟨hq, hb, ho, -⟩ := noted.claim_eq
    rw [hq] at claim
    rw [hb] at beacon
    refine ⟨scheduled, ho.symm.trans order, runs_back ?_ chains runs, ended, claim, beacon⟩
    rw [same]
    exact noted.chain_eq
  · have cue := (work_readied.record (e := d.readied fc) (i := i) (by rw [hst]; exact nofun)).2
    rw [cue, ha] at hu
    cases hu

/-- An unannounced cue goes on air if its condition had held before (log 32). -/
theorem unannounced_goes (ha : (d.slot i).cue.announce = false) (hn : (d.slot i).st ≠ .onAir)
    (hs : (d.slot i).st ≠ .scheduled) (hf : ((d.ceBoundary fc).slot i).st = .onAir) :
    (d.slot i).st = .armed ∧ (d.slot i).held = true ∧ d.runsSlot i = true := by
  obtain ⟨e, same, chains, may, -⟩ := goes hn hf
  obtain ⟨runs, -, alternatives⟩ := mayGoOnAir_iff.mp may
  rw [same] at alternatives
  rcases alternatives with ⟨hst, -⟩ | ⟨-, -, -, ripe⟩
  · exact absurd ((work_readied.airborne i (.inl hst)).1.symm.trans hst) hs
  · obtain ⟨armed, held⟩ := mem_heldSlots.mp ripe
    have stays : ¬d.counted.dueToEnd d.consumers i = true := fun due => (st_of_due due).elim hs hn
    have noted := noted_readied (fc := fc) (.inr (.inr ⟨armed, ha⟩)) stays
    refine ⟨armed, held, runs_back ?_ chains runs⟩
    rw [same]
    exact noted.chain_eq

theorem st_stepOnAir {ripe : List Slot} :
    ((d.stepOnAir fc ripe i).slot i).st = .onAir ∨ ((d.stepOnAir fc ripe i).slot i).st = (d.slot i).st := by
  unfold Desk.stepOnAir
  split
  · split
    · rw [slot_goOnAir_self]
      exact .inl rfl
    · split
      · unfold Desk.regionFull
        split
        · exact .inr rfl
        · rw [slot_post, slot_modSlot_self]
          exact .inr rfl
      · split
        · exact .inr rfl
        · rw [slot_goOnAir_self]
          exact .inl rfl
  · exact .inr rfl

/-- An unannounced cue that is due is neither on air nor SCHEDULED at the end. -/
theorem unannounced_ends (h : d.counted.dueToEnd d.consumers i = true) (ha : (d.slot i).cue.announce = false) :
    ((d.ceBoundary fc).slot i).st ≠ .onAir ∧ ((d.ceBoundary fc).slot i).st ≠ .scheduled := by
  obtain ⟨notScheduled, notOnAir⟩ := grounded_readied (fc := fc) h ha
  have off : ((d.ceBoundary fc).slot i).st ≠ .onAir := by
    intro hf
    obtain ⟨e, same, -, may, -⟩ := goes_of_onAir notOnAir hf
    obtain ⟨-, -, alternatives⟩ := mayGoOnAir_iff.mp may
    rw [same] at alternatives
    rcases alternatives with ⟨hst, -⟩ | ⟨-, -, -, ripe⟩
    · exact notScheduled hst
    · obtain ⟨armed, -⟩ := mem_heldSlots.mp ripe
      rcases st_of_due h with hst | hst
      · exact nomatch hst.symm.trans armed
      · exact nomatch hst.symm.trans armed
  refine ⟨off, fun hf => ?_⟩
  rw [ceBoundary_eq] at hf
  obtain ⟨e, same, -, own⟩ := onAirs_own fc (d.readied fc) i d.heldSlots
  have aired := (work_prerolls (fc := fc)).airborne i (.inl hf)
  have scheduled := aired.1.symm.trans hf
  rw [own] at scheduled
  rcases st_stepOnAir (fc := fc) (d := e) (i := i) (ripe := d.heldSlots) with hst | hst
  · exact nomatch scheduled.symm.trans hst
  · rw [same] at hst
    exact notScheduled (hst.symm.trans scheduled)

/-- A cue on air before step 6 stays as it is but for notes. -/
theorem noted_onAir (h : ((d.readied fc).slot i).st = .onAir) :
    ((d.readied fc).slot i).Noted ((d.ceBoundary fc).slot i) := by
  have aired := slot_fold (d := d.readied fc) (i := i) (Desk.stepOnAir fc d.heldSlots) allSlots (fun x => x.st = .onAir)
    (fun _ _ _ hx => slot_stepOnAir (by rw [hx]; exact nofun) (by rw [hx]; exact nofun) _) h
  have rolled := noted_prerolls (fc := fc) (i := i)
    (d := allSlots.foldl (Desk.stepOnAir fc d.heldSlots) (d.readied fc))
    (by rw [aired, h]; exact nofun) (by rw [aired, h]; exact nofun)
  rw [ceBoundary_eq]
  rw [aired] at rolled
  exact rolled

/-- A cue on air that is not due stays on air with its count. -/
theorem stays_onAir (h : (d.slot i).st = .onAir) (hd : ¬d.counted.dueToEnd d.consumers i = true) :
    ((d.ceBoundary fc).slot i).st = .onAir ∧ ((d.ceBoundary fc).slot i).remaining = d.countOf i := by
  have noted := noted_readied (fc := fc) (.inr (.inl h)) hd
  have through := noted.trans (noted_onAir (noted.st_eq.trans h))
  exact ⟨through.st_eq.trans h, through.remaining_eq⟩

theorem due_of_edge (ht : d.ce.trigger = true) (hd : (d.slot i).cue.demandEnd = true) (hst : (d.slot i).st = .onAir)
    (hr : d.runsSlot i = true) (hc : (d.slot i).chain = some c) (ha : (d.chain c).onAir = some i) :
    d.counted.dueToEnd d.consumers i = true := by
  have running : (d.chain c).st = .running := by
    rw [runsSlot_of_chain hc] at hr
    exact beq_iff_eq.mp hr
  exact dueToEnd_iff.mpr (.inr ⟨hst, hr, .inr ⟨hd, c, hc, mem_consumers.mpr ⟨ht, takesEdge_of_onAir running ha hd⟩⟩⟩)

/-- A SCHEDULED successor is told at its predecessor's end. -/
theorem predEnded_readied (hi : d.counted.dueToEnd d.consumers i = true) (hci : (d.slot i).chain = some c)
    (hn : (d.slot n).st = .scheduled) (hcn : (d.slot n).chain = some c) (hp : (d.slot n).pred = some i)
    (ho : ¬d.counted.dueToEnd d.consumers n = true) : ((d.readied fc).slot n).predEnded = true := by
  obtain ⟨front, u, back, split, hu, hfront, hback⟩ := dueNow_split hi
  have other : i ≠ n := fun h => ho (h ▸ hi)
  have outside : n ∉ d.dueNow.map EndedCue.slot := fun h => ho (mem_dueNow.mp h)
  rw [split, List.map_append, List.map_cons, List.mem_append, List.mem_cons, not_or, not_or] at outside
  obtain ⟨nFront, -, nBack⟩ := outside
  obtain ⟨b, counted⟩ := slot_counted (d := d) (i := n)
  obtain ⟨b', counted'⟩ := slot_counted (d := d) (i := i)
  have rests : (d.counted.slot n).Rests := by
    rw [counted]
    exact .inl hn
  have before := noted_stepEnds (fc := fc) nFront rests
  have chain : ((front.foldl (Desk.stepEnd fc) d.counted).slot n).chain = some c := by
    rw [before.chain_eq, counted]
    exact hcn
  have pred : ((front.foldl (Desk.stepEnd fc) d.counted).slot n).pred = some i := by
    rw [before.claim_eq.2.2.2, counted]
    exact hp
  have chainI : ((front.foldl (Desk.stepEnd fc) d.counted).slot i).chain = some c := by
    rw [(noted_stepEnds (fc := fc) hfront (rests_counted (st_of_due hi)).1).chain_eq, counted']
    exact hci
  have restsFront := before.rests rests
  have told : (((front.foldl (Desk.stepEnd fc) d.counted).stepEnd fc u).slot n).predEnded = true := by
    rw [slot_stepEnd_other (by rw [hu]; exact other) restsFront.ne_loaded restsFront.ne_ending, hu, slot_endForChain, chainI]
    dsimp only
    rw [markPredEnded, if_pos ⟨chain, pred⟩]
  have own := noted_stepEnd (fc := fc) (u := u) (by rw [hu]; exact other) restsFront
  have after := noted_stepEnds (fc := fc) nBack (own.rests restsFront)
  have rest := noted_afterEnds (fc := fc) (l := d.dueNow) (after.rests (own.rests restsFront))
  rw [readied_split split]
  exact (after.trans rest).predEnded_mono told

/-- A SCHEDULED cue that meets R144 at step 6 goes on air. -/
theorem scheduled_goes {q : Claim} {f : FieldCount} (hst : (d.slot n).st = .scheduled) (hc : (d.slot n).chain = some c)
    (hr : (d.chain c).st = .running) (hd : ¬d.counted.dueToEnd d.consumers n = true)
    (hp : ((d.readied fc).slot n).predEnded = true) (ho : (d.slot n).endOrdered = false) (hq : (d.slot n).claim = some q)
    (h1 : q.e - fc ≠ 1) (h2 : q.e - fc ≠ 2) (hf : (d.slot n).beaconField = some f) (hne : f ≠ fc) :
    ((d.ceBoundary fc).slot n).st = .onAir ∧ ((d.ceBoundary fc).slot n).remaining = (d.slot n).cue.duration := by
  have noted := noted_readied (fc := fc) (.inl hst) hd
  have scheduled : ((d.readied fc).slot n).st = .scheduled := noted.st_eq.trans hst
  have chain : ((d.readied fc).slot n).chain = some c := noted.chain_eq.trans hc
  obtain ⟨claim, beacon, order, -⟩ := noted.claim_eq
  have busy : ((d.readied fc).chain c).st ≠ .idle :=
    work_readied.busy (not_grounded_iff.mpr (.inl scheduled)) chain (by rw [hr]; exact nofun)
  have running : ((d.readied fc).chain c).st = .running :=
    ((lets_readied (fc := fc) (d := d) c).resolve_right busy).trans hr
  obtain ⟨e, same, chains, own⟩ := onAirs_own fc (d.readied fc) n d.heldSlots
  have runs : e.runsSlot n = true := by
    rw [runsSlot_of_chain (c := c) (by rw [same]; exact chain), chains, running, beq_self_eq_true]
  have may : e.mayGoOnAir fc d.heldSlots n = true := by
    refine mayGoOnAir_iff.mpr ⟨runs, by rw [same]; exact hp, .inl ?_⟩
    rw [same]
    exact ⟨scheduled, ⟨q, claim.trans hq, h1, h2⟩, ⟨f, beacon.trans hf, hne⟩, order.trans ho⟩
  have aired : (allSlots.foldl (Desk.stepOnAir fc d.heldSlots) (d.readied fc)).slot n =
      { (d.readied fc).slot n with st := .onAir, remaining := ((d.readied fc).slot n).cue.duration } := by
    rw [own, stepOnAir_scheduled may (by rw [same]; exact scheduled), slot_goOnAir_self, same]
  have rolled := noted_prerolls (fc := fc) (i := n)
    (d := allSlots.foldl (Desk.stepOnAir fc d.heldSlots) (d.readied fc))
    (by rw [aired]; exact nofun) (by rw [aired]; exact nofun)
  have cue : ((d.readied fc).slot n).cue = (d.slot n).cue := noted.cue_eq
  rw [ceBoundary_eq, rolled.st_eq, rolled.remaining_eq, aired, cue]
  exact ⟨rfl, rfl⟩

/-- Settles O49. -/
theorem cueEngineAtAFieldBoundary : Obligations.CueEngineAtAFieldBoundary := by
  unfold Obligations.CueEngineAtAFieldBoundary
  refine ⟨fun fc d i => announced_goes, fun fc d i => unannounced_goes, fun fc ripe d i c => ?_, fun fc d i => ?_,
    fun fc d i n c q f => ?_, fun fc d => work_fromCount.trigger_eq (trigger_stepTrigger _), fun d c i => ?_,
    fun fc d e c n => ?_, fun fc d e c => ?_, fun fc d i n c => stepPreroll_spec fc d i n c⟩
  · intro x t posted hst ha hh hp hc hr
    exact stepOnAir_spec hst ha hh hp hc hr
  · intro x t y edge ends
    have due (h : ends) : d.counted.dueToEnd d.consumers i = true := by
      rcases h with ⟨ho, hst⟩ | ⟨hst, hr, over' | ⟨⟨ht, hd⟩, c, hc, ha⟩⟩
      · exact dueToEnd_iff.mpr (.inl ⟨ho, hst⟩)
      · exact dueToEnd_iff.mpr (.inr ⟨hst, hr, .inl over'⟩)
      · exact due_of_edge ht hd hst hr hc ha
    refine ⟨fun h ha => ?_, fun h ha => unannounced_ends (fc := fc) (due h) ha,
      fun hst ho hedge hr hcount => ?_, fun hst ho hr => ?_⟩
    · have leaving := leaving_ceBoundary (fc := fc) (due h) ha
      rw [show d.ceBoundary fc = t from rfl] at leaving
      exact leaving
    · have stays : ¬d.counted.dueToEnd d.consumers i = true := by
        intro hd
        rcases dueToEnd_iff.mp hd with ⟨ho', -⟩ | ⟨-, -, ⟨hdur, hrem⟩ | ⟨hd, c, -, hc⟩⟩
        · exact Bool.false_ne_true (ho.symm.trans ho')
        · rcases hcount with h | h
          · exact hdur h
          · exact absurd (Nat.le_trans h hrem) (by decide)
        · exact hedge ⟨(mem_consumers.mp hc).1, hd⟩
      obtain ⟨onAir, remaining⟩ := stays_onAir (fc := fc) hst stays
      refine ⟨onAir, remaining.trans ?_⟩
      unfold Desk.countOf
      by_cases h0 : (d.slot i).cue.duration = 0
      · rw [if_neg fun h => h.2.2 h0]
        exact (if_pos h0).symm
      · rw [if_pos ⟨hst, hr, h0⟩]
        exact (if_neg h0).symm
    · have stays : ¬d.counted.dueToEnd d.consumers i = true := by
        intro hd
        rcases dueToEnd_iff.mp hd with ⟨ho', -⟩ | ⟨-, hr', -⟩
        · exact Bool.false_ne_true (ho.symm.trans ho')
        · exact Bool.false_ne_true (hr.symm.trans hr')
      obtain ⟨onAir, remaining⟩ := stays_onAir (fc := fc) hst stays
      refine ⟨onAir, remaining.trans (if_neg fun h => ?_)⟩
      exact Bool.false_ne_true (hr.symm.trans h.2.1)
  · intro x z hst hc hr hdur hrem hn hcn hp ho hq h1 h2 hf hne
    have runs : d.runsSlot i = true := by rw [runsSlot_of_chain hc, hr, beq_self_eq_true]
    have due : d.counted.dueToEnd d.consumers i = true := dueToEnd_iff.mpr (.inr ⟨hst, runs, .inl ⟨hdur, hrem⟩⟩)
    have stays : ¬d.counted.dueToEnd d.consumers n = true := by
      intro hd
      rcases dueToEnd_iff.mp hd with ⟨ho', -⟩ | ⟨hst', -⟩
      · exact Bool.false_ne_true (ho.symm.trans ho')
      · exact nomatch hn.symm.trans hst'
    refine ⟨?_, scheduled_goes hn hcn hr stays (predEnded_readied due hc hn hcn hp stays) ho hq h1 h2 hf hne⟩
    cases ha : (d.slot i).cue.announce with
    | true =>
      rw [(leaving_ceBoundary (fc := fc) due ha).1]
      exact nofun
    | false => exact (unannounced_ends due ha).1
  · refine ⟨stepTrigger_of_none, fun hr hc => hr (running_of_takesEdge (mem_consumers.mp hc).2), fun ht hr ha hs => ?_⟩
    have consumes : c ∈ d.consumers := mem_consumers.mpr ⟨ht, takesEdge_of_armed hr ha hs⟩
    exact ⟨consumes, held_triggerStarts ha hs (.inl consumes)⟩
  · intro t z hc hs hn hr hb ht
    exact stepSucceed_spec hc hs hn hr hb ht
  · intro t hc hs hp
    exact stepSucceed_paused_spec hc hs hp

end

end Sys2Proof.Machine
